-- ==== Sys2Proof/Word.lean ====
section
/-!
DEFINITION. The byte and word types. Bytes are what the link, the lanes and the store carry; 16-bit words are the
CRC values; every helper over them stands in Machine/Bytes.lean.
-/

namespace Sys2Proof

/-- One byte of a frame, a record, a telegram or the store. -/
abbrev Byte := BitVec 8

/-- A CRC-16 value (R183). -/
abbrev Word16 := BitVec 16

end Sys2Proof
end

