-- ==== Sys2Proof/Syntax.lean ====
section
/-!
DEFINITION. The commands and events of spec/opcode_table.json, one constructor a row, with the operands its rule
gives it. A command frame's operand is its body; the row is the completion of that frame (log 4).
-/

namespace Sys2Proof

/-- How a program or erase ended at the flash (R127): good, or failed with the bytes it left, from the operation's
first byte on; bytes beyond the list keep what they held (log 9). -/
inductive FlashEnd where
  | good
  | failed (left : List Byte)
  deriving DecidableEq, Repr

/-- One command or event of the part. -/
inductive Instr where
  /-- RESET_ASSERT (R141). -/
  | resetAssert
  /-- RESET_RELEASE (R141): the strap inputs as they stand when the reset takes effect. -/
  | resetRelease (straps : BitVec 2)
  /-- IDENTIFY (R172). -/
  | identify (body : List Byte)
  /-- RESTART (R173). -/
  | restart (body : List Byte)
  /-- RADIO SET (R174). -/
  | radioSet (body : List Byte)
  /-- FLAGS READ (R177). -/
  | flagsRead (body : List Byte)
  /-- FLAGS CLEAR (R177). -/
  | flagsClear (body : List Byte)
  /-- FLAGS MASK (R176). -/
  | flagsMask (body : List Byte)
  /-- COUNTERS READ (R180). -/
  | countersRead (body : List Byte)
  /-- CLASS WRITE (R2). -/
  | classWrite (body : List Byte)
  /-- LEG WRITE (R4). -/
  | legWrite (body : List Byte)
  /-- ROSTER BEGIN (R8). -/
  | rosterBegin (body : List Byte)
  /-- ROSTER LOAD (R9). -/
  | rosterLoad (body : List Byte)
  /-- ROSTER COMMIT (R10). -/
  | rosterCommit (body : List Byte)
  /-- ROSTER EDIT (R22). -/
  | rosterEdit (body : List Byte)
  /-- ROSTER QUERY (R24). -/
  | rosterQuery (body : List Byte)
  /-- MISSED READ (R20). -/
  | missedRead (body : List Byte)
  /-- ROSTER DISCARD (R17). -/
  | rosterDiscard (body : List Byte)
  /-- LEG OPEN (R98). -/
  | legOpen (body : List Byte)
  /-- LEG CLOSE (R114). -/
  | legClose (body : List Byte)
  /-- LEG STATUS (R100). -/
  | legStatus (body : List Byte)
  /-- ROUTE CLOSE (R116). -/
  | routeClose (body : List Byte)
  /-- JOURNAL STATUS (R139). -/
  | journalStatus (body : List Byte)
  /-- BATCH SEAL (R136). -/
  | batchSeal (body : List Byte)
  /-- JOURNAL CLEAR (R137). -/
  | journalClear (body : List Byte)
  /-- UPLOAD START (R154). -/
  | uploadStart (body : List Byte)
  /-- BATCH RECEIVED (R160). -/
  | batchReceived (body : List Byte)
  /-- UPLOAD STOP (R164). -/
  | uploadStop (body : List Byte)
  /-- A complete frame, of any kind and with the CRC it carried, that is to be refused CHECK or UNKNOWN (R169). -/
  | linkFrameRefused (kind : Byte) (body : List Byte) (crc : Word16)
  /-- A complete frame that finds 2 replies waiting (R168). -/
  | linkOverrun (kind : Byte) (body : List Byte) (crc : Word16)
  /-- A byte arrives on the van link with its stop bit high (R166). -/
  | linkByteReceived (b : Byte)
  /-- A byte arrives with its stop bit low (R166). -/
  | linkFramingError
  /-- Five milliseconds pass with no byte during a frame (R167). -/
  | gapTimerExpiry
  /-- The last byte of the frame being sent has been sent (R179), with the strap inputs as they stand: the sending of
  a RESTART's reply makes a reset take effect (R141). -/
  | outboundFrameSent (straps : BitVec 2)
  /-- A start arrives on a lane (R25). -/
  | laneStart (lane : Fin 4)
  /-- An end arrives on a lane (R25, R27). -/
  | laneRecordTaken (lane : Fin 4)
  /-- The hold timer of the meter's candidate expires (R54). -/
  | holdExpiry (serial : Nat)
  /-- The open leg's pass timer expires (R99). -/
  | passTimerExpiry
  /-- A second has passed since the last refill (R105). -/
  | dutyRefill
  /-- The transmitter's done input (R108). -/
  | transmitDone
  /-- The timeout of the transmission in progress expires (R108). -/
  | transmitTimeout
  /-- The reply window of a sweep meter ends (R111). -/
  | sweepWindowEnd (serial : Nat)
  /-- The reply window of a confirm meter ends (R91). -/
  | confirmWindowEnd (serial : Nat)
  /-- A page program ends good (R126). -/
  | pageProgramEnd
  /-- An index program of a seal ends good (R129). -/
  | indexProgramEnd
  /-- A page, index or mark program fails, leaving these bytes (R130). -/
  | programFailure (left : List Byte)
  /-- A delivery mark program ends (R162). -/
  | markProgramEnd (e : FlashEnd)
  /-- A sector erase ends (R138). -/
  | sectorEraseEnd (e : FlashEnd)
  /-- The rebuild scan finds the buffer drained and the seal list empty and begins (R11). -/
  | rebuildScanStart
  /-- A read of the rebuild scan ends, good or failed (R11, R15). -/
  | rebuildReadEnd (good : Bool)
  /-- The flash reports ready, and how an operation begun before the reset ended (R143). -/
  | flashReady (e : FlashEnd)
  /-- 4,000 ms pass and the flash is not ready (R143). -/
  | flashReadyTimeout
  /-- The three bytes of the identification response arrive (R143). -/
  | identificationResponse (b0 b1 capacity : Byte)
  /-- The identification response does not arrive within 5 ms (R143). -/
  | identificationTimeout
  /-- A read of the recovery scan ends, good or failed (R144, R150). -/
  | recoveryReadEnd (good : Bool)
  /-- The index program of a recovery seal ends (R147, R150). -/
  | recoveryIndexProgramEnd (e : FlashEnd)
  /-- A read of an index slot for the upload ends good (R153). -/
  | uploadSlotReadEnd
  /-- A batch data read for the upload ends good (R157). -/
  | uploadDataReadEnd
  /-- A read for the upload fails (R159). -/
  | uploadReadFailure
  /-- The acknowledgement timer expires (R163). -/
  | ackTimerExpiry
  /-- An RSSI byte, byte count or telegram byte arrives on a lane (R25). -/
  | laneByteReceived (lane : Fin 4) (b : Byte)
  deriving DecidableEq, Repr

end Sys2Proof
end

