-- ==== Sys2Proof/Machine/Bytes.lean ====
section
/-!
DEFINITION. Byte order, the check byte, the CRC-16 and saturation: the arithmetic every layout uses.
-/

namespace Sys2Proof.Machine

/-- A field's value, least significant byte first (00_scope.md, Byte order). -/
def le : List Byte → Nat
  | [] => 0
  | b :: bs => b.toNat + 256 * le bs

/-- The `n` bytes of a value, least significant byte first. -/
def toLE : Nat → Nat → List Byte
  | 0, _ => []
  | n + 1, v => BitVec.ofNat 8 v :: toLE n (v / 256)

/-- The byte at an offset. -/
def byteAt (bs : List Byte) (off : Nat) : Byte := bs.getD off 0

/-- The field of `n` bytes at an offset. -/
def field (bs : List Byte) (off n : Nat) : Nat := le ((bs.drop off).take n)

/-- The first `k` groups of `n` bytes. -/
def groups (n : Nat) : Nat → List Byte → List (List Byte)
  | 0, _ => []
  | k + 1, bs => bs.take n :: groups n k (bs.drop n)

/-- A 16-bit counter's increment, saturating at 65535 (R180). -/
def satInc (n : Nat) : Nat := min (n + 1) 65535

/-- The XOR of bytes, the check byte of R184. -/
def xorAll : List Byte → Byte
  | [] => 0
  | b :: bs => b ^^^ xorAll bs

/-- One shift of the CRC-16 register, polynomial 0x1021 (R183). -/
def crcShift (c : Word16) : Word16 := if c.msb then (c <<< 1) ^^^ 0x1021#16 else c <<< 1

/-- One byte into the CRC-16 register, most significant bit first (R183). -/
def crcByte (c : Word16) (b : Byte) : Word16 :=
  let x := c ^^^ (b.setWidth 16 <<< 8)
  crcShift (crcShift (crcShift (crcShift (crcShift (crcShift (crcShift (crcShift x)))))))

/-- The running CRC-16 after further bytes. -/
def crcMore (c : Word16) (bs : List Byte) : Word16 := bs.foldl crcByte c

/-- The CRC-16 of R183: initial value 0xFFFF, no final inversion. -/
def crc16 (bs : List Byte) : Word16 := crcMore 0xFFFF#16 bs

end Sys2Proof.Machine
end

