-- ==== Sys2Proof/Config.lean ====
section
/-!
DEFINITION. What the device fixes, and the free values of the model. A free value has no body: nothing can be proved
of it, so a claim holds whatever it is. Where it takes a draw, that is the number of replies made before it.
-/

namespace Sys2Proof.Config

/-- Device code of the IDENTIFY reply (R172, layout 11.3). -/
def deviceCode : Nat := 0x3610

/-- Revision number of the parts the manual describes (layout 11.3). -/
def revision : Nat := 1

/-- What a byte of the flash holds after a program wrote `new` over `old` at an offset when `old` was not blank. The
manual gives no value: a FREE VALUE (log 10, DESIGN CHOICE, safe). -/
opaque reprogrammed (offset : Nat) (old new : Byte) : Byte

/-- The route identifier field of an IDENTIFY reply with no route: a FREE VALUE (log 17, DESIGN CHOICE, safe). -/
opaque absentRouteId (draw : Nat) : Nat

/-- The reading minute field of a ROSTER QUERY reply when it is absent: a FREE VALUE (log 17). -/
opaque absentReadingMinute (draw : Nat) : Nat

/-- The last reading sequence field of a ROSTER QUERY reply when it is absent: a FREE VALUE (log 17). -/
opaque absentSequence (draw : Nat) : Byte

/-- The transmitting serial field of a LEG STATUS reply for the open leg while the lane is IDLE: a FREE VALUE
(log 17). -/
opaque absentTransmitSerial (draw : Nat) : Nat

/-- The mismatch count field of an UPLOAD STOP reply when the engine was IDLE: a FREE VALUE (log 17). -/
opaque absentMismatchCount (draw : Nat) : Byte

end Sys2Proof.Config
end

