-- ==== Sys2Proof/Machine/State.lean ====
section
/-!
DEFINITION. Everything the spec gives the part to hold, as plain data, block by block (00_scope.md), and the state
right after reset (R142). INVENTORY.md lists each field with its rule.
-/

namespace Sys2Proof.Machine

/-! ## Lane intake -/

/-- The seven counters of a lane, in the order of R39. -/
structure LaneCounters where
  taken : Nat
  checkFail : Nat
  belowFloor : Nat
  foreign : Nat
  repeated : Nat
  stale : Nat
  unsupported : Nat
  deriving DecidableEq, Repr

/-- What a RECEIVING lane holds of the record being delivered (R25): the first 27 telegram bytes, and how many were
delivered, kept at 255. -/
structure PartialRecord where
  rssi : Option Byte
  count : Option Byte
  bytes : List Byte
  delivered : Nat
  deriving DecidableEq, Repr

/-- The three lane states of R25. -/
inductive LaneState where
  | disabled
  | idle
  | receiving (p : PartialRecord)
  deriving DecidableEq, Repr

/-- One receive lane: its state, its RSSI floor in dBm (R29) and its counters (R39). -/
structure Lane where
  st : LaneState
  floor : Int
  counters : LaneCounters
  deriving DecidableEq, Repr

/-- The lane intake's state: four lanes and foreign forwarding (R38). -/
structure Intake where
  lanes : Vector Lane 4
  forwarding : Bool
  deriving DecidableEq, Repr

/-! ## Roster -/

/-- A class of the class table (R1); `digits = 0` is an unset class. -/
structure ClassRec where
  digits : Nat
  mult : Nat
  tol : Nat
  rateLimit : Nat
  stopMinutes : Nat
  leakHours : Nat
  leakFloor : Nat
  watch : Byte
  alarm : Byte
  weights : Vector Nat 8
  threshold : Nat
  retries : Nat
  confirm : Bool
  deriving DecidableEq, Repr

/-- The three leg states of R3. -/
inductive LegState where
  | unvisited
  | opened
  | passed
  deriving DecidableEq, Repr

/-- The five counts of a leg (R21). -/
structure LegCounts where
  total : Nat
  read : Nat
  missed : Nat
  excluded : Nat
  outstanding : Nat
  deriving DecidableEq, Repr

/-- A leg of the leg table (R3). -/
structure Leg where
  passCode : Byte
  budget : Byte
  st : LegState
  counts : LegCounts
  deriving DecidableEq, Repr

/-- The attribute set of an entry (R5). -/
structure Attrs where
  wake : Bool
  wakeAllowed : Bool
  excluded : Bool
  deriving DecidableEq, Repr

/-- The loaded part of a roster entry (R5). -/
structure Loaded where
  serial : Nat
  leg : Byte
  cls : BitVec 4
  prevReg : Nat
  prevAge : Nat
  refStatus : Byte
  carried : Nat
  attrs : Attrs
  deriving DecidableEq, Repr

/-- The nine entry states of 1.5. -/
inductive EntryState where
  | pending
  | queued
  | sending
  | await
  | heard
  | read
  | verify
  | missed
  | excluded
  deriving DecidableEq, Repr

/-- The confirmation part of an entry in VERIFY (R90): the suspect set and the first status. -/
structure ConfirmPart where
  suspect : BitVec 8
  firstStatus : Byte
  deriving DecidableEq, Repr

/-- A live roster entry: what was loaded, and the live part (R6), with the reply window held with the entry (R110,
milliseconds left) and the confirmation part (R90). -/
structure Entry where
  loaded : Loaded
  st : EntryState
  attempts : Nat
  totalScore : Nat
  prevReg : Nat
  refStatus : Byte
  attrs : Attrs
  readingMinute : Option Nat
  lastSeq : Option Byte
  window : Option Nat
  confirm : Option ConfirmPart
  deriving DecidableEq, Repr

/-- The five route phases (R7). -/
inductive Phase where
  | none
  | loading
  | committing
  | active
  | closed
  deriving DecidableEq, Repr

/-- Where the commit rebuild scan stands (R11): waiting for the buffer and the seal list, at the index slot `slot`,
or walking records from `pos` to `stop` (`last` when these are the open batch's). -/
inductive RebuildStage where
  | waiting
  | slots
  | records (pos stop : Nat) (last : Bool)
  deriving DecidableEq, Repr

/-- The commit rebuild scan in progress: the batches total and the open batch's span taken at its start, the next
slot, the good slots visited and the number of the last of them. -/
structure Rebuild where
  stage : RebuildStage
  batches : Nat
  openSpan : Option (Nat × Nat)
  slot : Nat
  visited : Nat
  lastNumber : Nat
  deriving DecidableEq, Repr

/-- The roster block: class and leg tables, phase, identifier, staging and live entries in ascending serial, missed
chain (serials, oldest first), route clock in seconds with its running milliseconds, and the rebuild scan. -/
structure Roster where
  classes : Vector ClassRec 16
  legs : Vector Leg 256
  phase : Phase
  routeId : Option Nat
  announced : Nat
  staging : List Loaded
  entries : List Entry
  missed : List Nat
  routeClock : BitVec 32
  routeMs : Nat
  rebuild : Option Rebuild
  deriving DecidableEq, Repr

/-! ## Records -/

/-- The four movement cases of R64. -/
inductive MoveCase where
  | zero
  | backstep
  | forward
  | reverse
  deriving DecidableEq, Repr

/-- The fields of a READING record (R70). -/
structure ReadingRec where
  routeId : Nat
  serial : Nat
  leg : Byte
  cls : BitVec 4
  register : Nat
  amount : Nat
  consumption : Nat
  rate : Nat
  elapsed : Nat
  status : Byte
  conds : BitVec 8
  visit : Nat
  total : Nat
  copies : Nat
  lanes : BitVec 4
  late : Bool
  woken : Bool
  suspect : Bool
  case : MoveCase
  attempts : Nat
  rssi : Int
  seq : Byte
  routeTime : Nat
  intervals : List Nat
  deriving DecidableEq, Repr

/-- The reasons of a miss (R113). -/
inductive MissReason where
  | legClosed
  | retries
  | routeClosed
  deriving DecidableEq, Repr

/-- The fields of a MISS record (R113). -/
structure MissRec where
  routeId : Nat
  serial : Nat
  leg : Byte
  reason : MissReason
  attempts : Nat
  routeTime : Nat
  deriving DecidableEq, Repr

/-- The outcomes a TAMPER notice reports (R85). -/
inductive TamperOutcome where
  | flagged
  | suspect
  | confirmed
  | cleared
  | unconfirmed
  deriving DecidableEq, Repr

/-- The fields of a CONFIRM record (R96). -/
structure ConfirmRec where
  routeId : Nat
  serial : Nat
  register : Nat
  status : Byte
  conds : BitVec 8
  outcome : TamperOutcome
  routeTime : Nat
  rssi : Int
  deriving DecidableEq, Repr

/-- A journal record as made (R121). -/
inductive JournalRecord where
  | reading (r : ReadingRec)
  | miss (r : MissRec)
  | confirm (r : ConfirmRec)
  deriving DecidableEq, Repr

/-- What a close makes (R59, R69): the record, and what goes with it until its outcome is known: the disagreement
count, whether the reading is flagged and the route minute of the close, or the total score read at the close. -/
inductive Evaluated where
  | reading (r : ReadingRec) (disagreements : Nat) (flagged : Bool) (minute : Nat)
  | confirm (r : ConfirmRec) (total : Nat)
  deriving DecidableEq, Repr

/-! ## Candidate pool -/

/-- One received copy as the lane intake hands it over (R37). -/
structure Copy where
  serial : Nat
  register : Nat
  status : Byte
  seq : Byte
  answer : Bool
  intervals : List Nat
  rssi : Int
  lane : Fin 4
  stamp : BitVec 32
  deriving DecidableEq, Repr

/-- A candidate in an occupied slot (R43). It is HOLDING while `evaluated` is none, CLOSED once it is present. -/
structure Candidate where
  serial : Nat
  best : Copy
  copies : Nat
  lanes : BitVec 4
  woken : Bool
  late : Bool
  disagreements : Nat
  opened : BitVec 32
  holdLeft : Nat
  evaluated : Option Evaluated
  deriving DecidableEq, Repr

/-- The candidate pool: the occupied slots in opening order (R44) and the hold time setting (R53). -/
structure Pool where
  cands : List Candidate
  holdTime : Nat
  deriving DecidableEq, Repr

/-! ## Leg and wake scheduler -/

/-- The open-leg record (R97); `passLeft` is the pass timer in milliseconds. -/
structure OpenLeg where
  leg : Byte
  passLeft : Nat
  passExpired : Bool
  budget : Nat
  settled : Bool
  deriving DecidableEq, Repr

/-- What a wake request is for (R101). -/
inductive Purpose where
  | sweep
  | confirm
  deriving DecidableEq, Repr

/-- The transmission record (R107), with the timeout left and whether the route was discarded since (R17). -/
structure Transmission where
  serial : Nat
  purpose : Purpose
  wakeDur : Nat
  heard : Bool
  timeoutLeft : Nat
  discarded : Bool
  deriving DecidableEq, Repr

/-- The leg and wake scheduler: the wake queue is `confirms` followed by `sweeps` (R101). -/
structure Sched where
  openLeg : Option OpenLeg
  confirms : List Nat
  sweeps : List Nat
  tx : Option Transmission
  credit : Nat
  capacity : Nat
  refill : Nat
  refillLeft : Nat
  wakeDur : Nat
  replyWin : Nat
  deriving DecidableEq, Repr

/-! ## Journal controller -/

/-- The six journal states (R120). -/
inductive JournalState where
  | scanning
  | opened
  | full
  | fault
  | absent
  | erasing
  deriving DecidableEq, Repr

/-- The open batch while it holds a record (R125). -/
structure OpenBatch where
  number : Nat
  first : Nat
  leg : Byte
  count : Nat
  crc : Word16
  deriving DecidableEq, Repr

/-- A sealed batch on the seal list (R128); `requested` once its index program has been requested (R129). -/
structure SealedBatch where
  number : Nat
  first : Nat
  length : Nat
  count : Nat
  leg : Byte
  crc : Word16
  slot : Nat
  requested : Bool
  deriving DecidableEq, Repr

/-- An entry of the wait order (R124): a CLOSED slot by its meter's serial, a record the scheduler offered, or a
record moved out of a CLOSED slot by ROSTER DISCARD (R57). -/
inductive WaitEntry where
  | slot (serial : Nat)
  | held (r : JournalRecord)
  | moved (e : Evaluated)
  deriving DecidableEq, Repr

/-- The last long operation (R139). -/
inductive LongOp where
  | recovery
  | commit
  | clear
  deriving DecidableEq, Repr

/-- Its result (R139). -/
inductive OpResult where
  | running
  | good
  | readFailure
  | eraseFailure
  deriving DecidableEq, Repr

/-- The journal controller's state. `buffer` holds, record by record, the bytes not yet programmed good (R126);
`erasing` the sectors still to erase, the one requested in front (R138). -/
structure Journal where
  st : JournalState
  size : Nat
  recordEnd : Nat
  indexStart : Nat
  progEnd : Nat
  total : Nat
  delivered : Nat
  nextBatch : Nat
  pointer : Nat
  newestEnd : Nat
  openBatch : Option OpenBatch
  seals : List SealedBatch
  buffer : List (List Byte)
  waits : List WaitEntry
  capture : Option (Nat × Nat)
  lastOp : LongOp
  lastResult : OpResult
  erasing : List Nat
  deriving DecidableEq, Repr

/-! ## Flash and start-up -/

/-- The fields of an index record that a good slot gives (R122). -/
structure BatchInfo where
  number : Nat
  first : Nat
  length : Nat
  count : Nat
  leg : Byte
  recovered : Bool
  void : Bool
  crc : Word16
  mark : Byte
  deriving DecidableEq, Repr

/-- Who asked for a read (R135). An upload read is orphaned by UPLOAD STOP (R164). -/
inductive Reader where
  | recovery
  | rebuild
  | uploadSlot (orphan : Bool)
  | uploadData (orphan : Bool)
  deriving DecidableEq, Repr

/-- An operation of the flash port (R127), and the identification request of start-up (R143). -/
inductive FlashReq where
  | page (off : Nat) (bytes : List Byte)
  | index (off : Nat) (bytes : List Byte)
  | recoveryIndex (off : Nat) (bytes : List Byte)
  | mark (slot : Nat) (batch : BatchInfo)
  | erase (sector : Nat)
  | read (who : Reader) (off len : Nat)
  | identify
  deriving DecidableEq, Repr

/-- The flash and its port: the stored bytes, the operation in progress with the milliseconds of its limit left, the
requests waiting in the order they were made, and a program or erase the flash still finishes after a reset. -/
structure Flash where
  store : List Host.Cell
  port : Option FlashReq
  portLeft : Nat
  waiting : List FlashReq
  unfinished : Option FlashReq
  deriving DecidableEq, Repr

/-- A span of bytes that the recovery scan seals (R147). -/
structure Span where
  first : Nat
  stop : Nat
  count : Nat
  void : Bool
  deriving DecidableEq, Repr

/-- The stages of the recovery scan (8.3): the index walk, the record walk at a position, the search for a blank page
above a torn record, and the seals (the one being programmed in front). -/
inductive RecoveryStage where
  | indexWalk
  | recordWalk (pos : Nat) (recs : List (Nat × Nat))
  | blankSearch (torn page : Nat) (recs : List (Nat × Nat))
  | sealing (spans : List Span) (full : Bool)
  deriving DecidableEq, Repr

/-- The recovery scan in progress: store size, next slot of the walk, number of the nearest good slot above, end of
the newest batch, highest end of any batch found, lowest slot in use, batches found, the delivered run and whether it
still runs, the delivery pointer, and the record end so far. -/
structure Recovery where
  size : Nat
  slot : Nat
  lastNumber : Nat
  newestEnd : Nat
  maxEnd : Nat
  lowest : Nat
  total : Nat
  delivered : Nat
  runOpen : Bool
  pointer : Nat
  recordEnd : Nat
  nextBatch : Nat
  stage : RecoveryStage
  deriving DecidableEq, Repr

/-- The start-up long operation (R143). -/
inductive Startup where
  | readyWait (left : Nat)
  | identWait
  | scanning (r : Recovery)
  deriving DecidableEq, Repr

/-! ## Upload engine -/

/-- The five upload states (R152). -/
inductive UploadState where
  | idle
  | sending
  | awaitAck
  | stalled
  | done
  deriving DecidableEq, Repr

/-- The stages of SENDING (R152). -/
inductive UploadStage where
  | streaming
  | marking
  | waitingSeal
  deriving DecidableEq, Repr

/-- Why the engine stalled (R152). -/
inductive StallReason where
  | timeout
  | mismatch
  | readFailure
  | markFailure
  deriving DecidableEq, Repr

/-- An upload frame (R156, R157, R158). -/
inductive UploadFrame where
  | head (b : BatchInfo)
  | data (number off : Nat) (bytes : List Byte)
  | tail (number : Nat) (crc : Word16) (damaged : Bool)
  deriving DecidableEq, Repr

/-- The upload engine (R152); `tailOut` while the current batch's tail is being sent (R158). -/
structure Upload where
  st : UploadState
  stage : UploadStage
  stall : Option StallReason
  batch : Option BatchInfo
  slot : Nat
  sendOffset : Nat
  runCrc : Word16
  tailCrc : Option Word16
  mismatches : Nat
  ackLeft : Nat
  ready : Option UploadFrame
  tailOut : Bool
  deriving DecidableEq, Repr

/-! ## Van link controller -/

/-- The frame receiver (R166): the kind and body bytes and the CRC bytes stored so far. -/
inductive Receiver where
  | hunt
  | length
  | body (len : Nat) (got : List Byte)
  | check (frame : List Byte) (got : List Byte)
  deriving DecidableEq, Repr

/-- The outcomes of a reply (R169, R185). -/
inductive ReplyCode where
  | done
  | check
  | unknown
  | notNow
  | busy
  | param
  | order
  | full
  | notFound
  | incomplete
  | undelivered
  | mismatch
  deriving DecidableEq, Repr

/-- A reply (R170): its kind, the echoed kind, the outcome, the flag set when it was made, its own data, and whether
it answers a RESTART that was taken (R141). -/
structure Reply where
  kind : Byte
  echoed : Byte
  outcome : ReplyCode
  flags : BitVec 13
  data : List Byte
  restart : Bool
  deriving DecidableEq, Repr

/-- The occasions of a LEG notice (R117). -/
inductive Occasion where
  | settled
  | closed
  deriving DecidableEq, Repr

/-- The notices of the notice queue (R178). -/
inductive Notice where
  | reading (r : ReadingRec) (disagreements : Nat) (journalled : Bool)
  | tamper (serial : Nat) (outcome : TamperOutcome) (conds : BitVec 8) (total : Nat)
  | missed (serial : Nat) (leg : Byte) (reason : MissReason)
  | leg (leg : Byte) (occasion : Occasion) (st : LegState) (counts : LegCounts)
  | foreign (serial : Nat) (lane : Fin 4) (rssi : Int)
  deriving DecidableEq, Repr

/-- A frame of the outbound direction (R179). -/
inductive OutFrame where
  | reply (r : Reply)
  | upload (f : UploadFrame)
  | notice (n : Notice)
  deriving DecidableEq, Repr

/-- The ten global counters, in the order of R180. -/
structure GlobalCounters where
  outOfRange : Nat
  forcedClose : Nat
  refusal : Nat
  noticeDropped : Nat
  linkCheck : Nat
  overrun : Nat
  gapAbort : Nat
  transmitTimeout : Nat
  unknownSerial : Nat
  badRecord : Nat
  deriving DecidableEq, Repr

/-- The van link controller; `sending` is the arbiter (none is FREE, R179), `attention` the attention line (R176). -/
structure Link where
  rate : BitVec 2
  rx : Receiver
  gapLeft : Nat
  replies : List Reply
  sending : Option OutFrame
  restarting : Bool
  notices : List Notice
  flags : BitVec 13
  mask : BitVec 13
  attention : Bool
  counters : GlobalCounters
  deriving DecidableEq, Repr

/-! ## The whole part -/

/-- The state of the part. `pending`, the queue of waiting commands, and `draws`, the number of replies made so far,
which the free values of absent reply fields are drawn by (log 17), are the model's own; everything else is the
spec's. -/
structure State where
  asserted : Bool
  straps : BitVec 2
  runClock : BitVec 32
  intake : Intake
  roster : Roster
  pool : Pool
  sched : Sched
  journal : Journal
  flash : Flash
  startup : Option Startup
  upload : Upload
  link : Link
  indicator : BitVec 4
  pending : List Instr
  draws : Nat
  deriving DecidableEq, Repr

/-- Why the part's model stops with a fault. -/
inductive Fault where
  /-- Raised by REBUILD_READ_END and UPLOAD_DATA_READ_END when an index record puts the read outside the store, where
  R135 knows no bytes. Safe: the model stops where the part would do something unstated (log 18). -/
  | storeRange
  deriving DecidableEq, Repr

/-- Why a command has no meaning. -/
inductive Refusal where
  /-- Raised by an arm of exec whose command is not modelled. Safe: the model stops. No arm raises it now. -/
  | notModelled (mnemonic : String)
  deriving DecidableEq, Repr

/-! ## The state after reset -/

/-- Every lane counter at 0 (R39). -/
def LaneCounters.zero : LaneCounters := ⟨0, 0, 0, 0, 0, 0, 0⟩

/-- Every global counter at 0 (R180). -/
def GlobalCounters.zero : GlobalCounters := ⟨0, 0, 0, 0, 0, 0, 0, 0, 0, 0⟩

/-- A lane after reset: enabled, IDLE, floor -120 dBm, counters 0 (R25, R29, R39). -/
def Lane.reset : Lane := { st := .idle, floor := -120, counters := .zero }

/-- An unset class (R1). -/
def ClassRec.unset : ClassRec :=
  { digits := 0, mult := 0, tol := 0, rateLimit := 0, stopMinutes := 0, leakHours := 0, leakFloor := 0, watch := 0,
    alarm := 0, weights := Vector.replicate 8 0, threshold := 0, retries := 0, confirm := false }

/-- The five counts at 0 (R21). -/
def LegCounts.zero : LegCounts := ⟨0, 0, 0, 0, 0⟩

/-- A leg after reset (R3). -/
def Leg.reset : Leg := { passCode := 0, budget := 0, st := .unvisited, counts := .zero }

/-- The roster after reset (R1, R3, R7, R16, R19). -/
def Roster.reset : Roster :=
  { classes := Vector.replicate 16 .unset, legs := Vector.replicate 256 .reset, phase := .none, routeId := none,
    announced := 0, staging := [], entries := [], missed := [], routeClock := 0, routeMs := 0, rebuild := none }

/-- The scheduler after reset (R97, R101, R105, R106, R107). -/
def Sched.reset : Sched :=
  { openLeg := none, confirms := [], sweeps := [], tx := none, credit := 0, capacity := 36000, refill := 10,
    refillLeft := 1000, wakeDur := 40, replyWin := 20 }

/-- The journal controller after reset (R119, R120, R124 to R132, R139). -/
def Journal.reset : Journal :=
  { st := .scanning, size := 0, recordEnd := 0, indexStart := 0, progEnd := 0, total := 0, delivered := 0,
    nextBatch := 1, pointer := 0, newestEnd := 0, openBatch := none, seals := [], buffer := [], waits := [],
    capture := none, lastOp := .recovery, lastResult := .running, erasing := [] }

/-- The upload engine holding nothing (R152). -/
def Upload.idle : Upload :=
  { st := .idle, stage := .streaming, stall := none, batch := none, slot := 0, sendOffset := 0, runCrc := 0,
    tailCrc := none, mismatches := 0, ackLeft := 0, ready := none, tailOut := false }

/-- The link controller after reset at a link rate (R166, R168, R175 to R180): only RESTARTED set, every flag
enabled, so the attention line is asserted. -/
def Link.reset (rate : BitVec 2) : Link :=
  { rate := rate, rx := .hunt, gapLeft := 0, replies := [], sending := none, restarting := false, notices := [],
    flags := 1, mask := BitVec.allOnes 13, attention := true, counters := .zero }

/-- The part when a reset takes effect (R141, R142): every block at its reset value, the flash keeping its bytes and
finishing `unfinished`, the link rate taken from the straps, the ready wait begun, START on the indicator lines. -/
def State.atReset (straps : BitVec 2) (store : List Host.Cell) (unfinished : Option FlashReq)
    (pending : List Instr) (draws : Nat) : State :=
  { asserted := false, straps := straps, runClock := 0,
    intake := { lanes := Vector.replicate 4 .reset, forwarding := false },
    roster := .reset, pool := { cands := [], holdTime := 30 }, sched := .reset, journal := .reset,
    flash := { store := store, port := none, portLeft := 0, waiting := [], unfinished := unfinished },
    startup := some (.readyWait 4000), upload := .idle, link := .reset straps, indicator := 0, pending := pending,
    draws := draws }

/-- The part right after reset, its store blank and its straps low (log 8, 11: DESIGN CHOICE), no command waiting. -/
def State.reset : State := State.atReset 0 [] none [] 0

end Sys2Proof.Machine
end

