-- ==== Sys2Proof/Machine/Layout.lean ====
section
/-!
DEFINITION. The byte layouts of chapter 11: codes, journal and index records, replies, notices and upload frames.
-/

namespace Sys2Proof.Machine

/-! ## Codes (R185) -/

/-- Codes of the reply outcomes. -/
def ReplyCode.code : ReplyCode → Byte
  | .done => 0 | .check => 1 | .unknown => 2 | .notNow => 3 | .busy => 4 | .param => 5 | .order => 6 | .full => 7
  | .notFound => 8 | .incomplete => 9 | .undelivered => 10 | .mismatch => 11

/-- Codes of the route phases. -/
def Phase.code : Phase → Byte
  | .none => 0 | .loading => 1 | .committing => 2 | .active => 3 | .closed => 4

/-- Codes of the entry states. -/
def EntryState.code : EntryState → Byte
  | .pending => 0 | .queued => 1 | .sending => 2 | .await => 3 | .heard => 4 | .read => 5 | .verify => 6
  | .missed => 7 | .excluded => 8

/-- Codes of the leg states. -/
def LegState.code : LegState → Byte
  | .unvisited => 0 | .opened => 1 | .passed => 2

/-- Codes of the journal states. -/
def JournalState.code : JournalState → Byte
  | .scanning => 0 | .opened => 1 | .full => 2 | .fault => 3 | .absent => 4 | .erasing => 5

/-- Codes of the upload states. -/
def UploadState.code : UploadState → Byte
  | .idle => 0 | .sending => 1 | .awaitAck => 2 | .stalled => 3 | .done => 4

/-- Codes of the stall reasons; 0 is none. -/
def stallCode : Option StallReason → Byte
  | none => 0 | some .timeout => 1 | some .mismatch => 2 | some .readFailure => 3 | some .markFailure => 4

/-- Codes of the movement cases. -/
def MoveCase.code : MoveCase → Byte
  | .zero => 0 | .backstep => 1 | .forward => 2 | .reverse => 3

/-- Codes of the miss reasons. -/
def MissReason.code : MissReason → Byte
  | .legClosed => 1 | .retries => 2 | .routeClosed => 3

/-- Codes of the tamper outcomes. -/
def TamperOutcome.code : TamperOutcome → Byte
  | .flagged => 1 | .suspect => 2 | .confirmed => 3 | .cleared => 4 | .unconfirmed => 5

/-- Codes of the LEG notice occasions. -/
def Occasion.code : Occasion → Byte
  | .settled => 1 | .closed => 2

/-- Codes of the long operations. -/
def LongOp.code : LongOp → Byte
  | .recovery => 1 | .commit => 2 | .clear => 3

/-- Codes of the operation results. -/
def OpResult.code : OpResult → Byte
  | .running => 0 | .good => 1 | .readFailure => 2 | .eraseFailure => 3

/-- A Boolean as a byte, and as a bit at a place. -/
def flagByte (b : Bool) : Byte := if b then 1 else 0

/-- A Boolean at bit `n` of a byte. -/
def bitAt (n : Nat) (b : Bool) : Byte := if b then BitVec.twoPow 8 n else 0

/-- The attribute set as a byte. -/
def Attrs.byte (a : Attrs) : Byte := bitAt 0 a.wake ||| bitAt 1 a.wakeAllowed ||| bitAt 2 a.excluded

/-- An RSSI in dBm as its byte, in the encoding of R26. -/
def rssiByte (r : Int) : Byte := BitVec.ofInt 8 r

/-- An RSSI byte decoded (R26): 0x74..0xEC are -140..-20, every other value is taken as -20. -/
def rssiOf (b : Byte) : Int := if 0x74 ≤ b.toNat ∧ b.toNat ≤ 0xEC then (b.toNat : Int) - 256 else -20

/-- The five counts, 2 bytes each. -/
def LegCounts.bytes (c : LegCounts) : List Byte :=
  toLE 2 c.total ++ toLE 2 c.read ++ toLE 2 c.missed ++ toLE 2 c.excluded ++ toLE 2 c.outstanding

/-! ## Journal records (R70, R96, R113, R121, R184; layouts 11.5) -/

/-- A record from its kind and the bytes after the check byte, with the length and the check formed. -/
def sealRecord (kind : Byte) (rest : List Byte) : List Byte :=
  let len := BitVec.ofNat 8 (rest.length + 3)
  kind :: len :: xorAll (kind :: len :: rest) :: rest

/-- The bytes of a READING record. -/
def ReadingRec.bytes (r : ReadingRec) : List Byte :=
  sealRecord 0x52 <|
    toLE 4 r.routeId ++ toLE 4 r.serial ++ [r.leg, r.cls.setWidth 8] ++ toLE 4 r.register ++ toLE 4 r.amount
      ++ toLE 6 r.consumption ++ toLE 4 r.rate ++ toLE 3 r.elapsed
      ++ [r.status, r.conds, BitVec.ofNat 8 r.visit, BitVec.ofNat 8 r.total, BitVec.ofNat 8 r.copies,
          r.lanes.setWidth 8 ||| bitAt 4 r.late ||| bitAt 5 r.woken ||| bitAt 6 r.suspect,
          r.case.code ||| BitVec.ofNat 8 (4 * r.attempts), rssiByte r.rssi, r.seq]
      ++ toLE 4 r.routeTime ++ [BitVec.ofNat 8 r.intervals.length] ++ r.intervals.flatMap (toLE 2)

/-- The bytes of a MISS record. -/
def MissRec.bytes (r : MissRec) : List Byte :=
  sealRecord 0x4D <|
    toLE 4 r.routeId ++ toLE 4 r.serial ++ [r.leg, r.reason.code, BitVec.ofNat 8 r.attempts] ++ toLE 4 r.routeTime

/-- The bytes of a CONFIRM record. -/
def ConfirmRec.bytes (r : ConfirmRec) : List Byte :=
  sealRecord 0x43 <|
    toLE 4 r.routeId ++ toLE 4 r.serial ++ toLE 4 r.register ++ [r.status, r.conds, r.outcome.code]
      ++ toLE 4 r.routeTime ++ [rssiByte r.rssi]

/-- The bytes of a record, as the journal writes them (R121). -/
def JournalRecord.bytes : JournalRecord → List Byte
  | .reading r => r.bytes
  | .miss r => r.bytes
  | .confirm r => r.bytes

/-- The record that a close made. -/
def Evaluated.record : Evaluated → JournalRecord
  | .reading r _ _ _ => .reading r
  | .confirm r _ => .confirm r

/-- Whether a kind byte and a length byte are those of a record (the table of 7.3; a READING's length is even). -/
def recordSize (kind len : Byte) : Bool :=
  (kind == 0x52#8 && (48 ≤ len.toNat && len.toNat ≤ 60 && len.toNat % 2 == 0))
    || (kind == 0x4D#8 && len.toNat == 18) || (kind == 0x43#8 && len.toNat == 23)

/-- Whether the bytes begin with a well-formed record (R121): kind, length and check good. -/
def wellFormedRecord (bs : List Byte) : Bool :=
  recordSize (byteAt bs 0) (byteAt bs 1) && (byteAt bs 1).toNat ≤ bs.length
    && xorAll (bs.take (byteAt bs 1).toNat) == 0

/-! ## Index records (R122; layout 11.5) -/

/-- The 16 bytes of an index record with an undelivered mark. -/
def indexBytes (number first length count : Nat) (leg attrs : Byte) (crc : Word16) : List Byte :=
  let front := [0xB7#8] ++ toLE 2 number ++ toLE 4 first ++ toLE 2 length ++ [BitVec.ofNat 8 count, leg, attrs]
    ++ toLE 2 crc.toNat
  front ++ [xorAll front, 0xFF#8]

/-- The batch a good slot describes (R122): none when the signature or the index check is bad. -/
def parseIndex (bs : List Byte) : Option BatchInfo :=
  if byteAt bs 0 = 0xB7#8 ∧ xorAll (bs.take 14) = byteAt bs 14 then
    some { number := field bs 1 2, first := field bs 3 4, length := field bs 7 2, count := field bs 9 1,
           leg := byteAt bs 10, recovered := (byteAt bs 11).getLsbD 0, void := (byteAt bs 11).getLsbD 1,
           crc := BitVec.ofNat 16 (field bs 12 2), mark := byteAt bs 15 }
  else none

/-- The attribute byte of a batch. -/
def BatchInfo.attrByte (b : BatchInfo) : Byte := bitAt 0 b.recovered ||| bitAt 1 b.void

/-- The offset just past a batch's last byte. -/
def BatchInfo.stop (b : BatchInfo) : Nat := b.first + b.length

/-! ## Outbound frames (R170, R182; layouts 11.3) -/

/-- The body of a reply. -/
def Reply.body (r : Reply) : List Byte := [r.echoed, r.outcome.code] ++ toLE 2 r.flags.toNat ++ r.data

/-- The kind and body of a notice (R38, R72, R85, R113, R117). R90 has the READING and TAMPER notices of a suspect reading
report the first status, and R72, R85 and the layout give neither a field for it: none is sent (log 35). -/
def Notice.frame : Notice → Byte × List Byte
  | .reading r d j =>
    (0x40, toLE 4 r.serial ++ toLE 4 r.register ++ [r.case.code] ++ toLE 6 r.consumption ++ toLE 4 r.rate
      ++ [r.conds, BitVec.ofNat 8 r.visit, BitVec.ofNat 8 r.total, BitVec.ofNat 8 r.copies, r.lanes.setWidth 8,
          rssiByte r.rssi, BitVec.ofNat 8 d, bitAt 0 j ||| bitAt 1 r.late ||| bitAt 2 r.woken ||| bitAt 3 r.suspect])
  | .tamper serial o c t => (0x41, toLE 4 serial ++ [o.code, c, BitVec.ofNat 8 t])
  | .missed serial l r => (0x42, toLE 4 serial ++ [l, r.code])
  | .leg l o st c => (0x43, [l, o.code, st.code] ++ c.bytes)
  | .foreign serial lane rssi => (0x44, toLE 4 serial ++ [BitVec.ofNat 8 lane.val, rssiByte rssi])

/-- The kind and body of an upload frame (R156, R157, R158). -/
def UploadFrame.frame : UploadFrame → Byte × List Byte
  | .head b =>
    (0x50, toLE 2 b.number ++ [BitVec.ofNat 8 b.count] ++ toLE 2 b.length ++ [b.leg, b.attrByte] ++ toLE 2 b.crc.toNat)
  | .data n off bs => (0x51, toLE 2 n ++ toLE 2 off ++ bs)
  | .tail n crc damaged => (0x52, toLE 2 n ++ toLE 2 crc.toNat ++ [flagByte damaged])

/-- The kind and body of an outbound frame. -/
def OutFrame.frame : OutFrame → Byte × List Byte
  | .reply r => (r.kind, r.body)
  | .upload f => f.frame
  | .notice n => n.frame

/-- A frame on the wire (10.1): marker, length, kind, body and CRC-16, low byte first. -/
def wireBytes (kind : Byte) (body : List Byte) : List Byte :=
  let covered := BitVec.ofNat 8 (body.length + 1) :: kind :: body
  0xA5#8 :: covered ++ toLE 2 (crc16 covered).toNat

end Sys2Proof.Machine
end

