-- ==== Sys2Proof/Machine/Flags.lean ====
section
/-!
DEFINITION. The flags and the lines: the flag set and the attention line (R175, R176), the indicator code (R151), the
counters (R180) and the bit sets of conditions (R78).
-/

namespace Sys2Proof.Machine

/-- The 13 flags of R175. -/
inductive Flag where
  | restarted
  | commitDone
  | tamper
  | missed
  | legSettled
  | journalLow
  | journalFull
  | journalFault
  | uploadDone
  | uploadStalled
  | noticeLoss
  | operationFailed
  | transmitFault
  deriving DecidableEq, Repr

/-- The flag's number (R175). -/
def Flag.number : Flag → Nat
  | .restarted => 0 | .commitDone => 1 | .tamper => 2 | .missed => 3 | .legSettled => 4 | .journalLow => 5
  | .journalFull => 6 | .journalFault => 7 | .uploadDone => 8 | .uploadStalled => 9 | .noticeLoss => 10
  | .operationFailed => 11 | .transmitFault => 12

/-- A flag is set by an event, whatever the mask holds (R175). -/
def State.setFlag (f : Flag) (s : State) : State :=
  { s with link.flags := s.link.flags ||| BitVec.twoPow 13 f.number }

/-- Whether a flag is set. -/
def State.flag (s : State) (f : Flag) : Bool := s.link.flags.getLsbD f.number

/-- The named flags are cleared (R177). -/
def State.clearFlags (named : BitVec 13) (s : State) : State := { s with link.flags := s.link.flags &&& ~~~named }

/-- The level of the attention line (R176): asserted while an enabled flag is set and the reset input is not. -/
def State.attentionLevel (s : State) : Bool := !s.asserted && s.link.flags &&& s.link.mask != 0

/-- Code of a route phase on the indicator lines (R151). -/
def Phase.indicator : Phase → BitVec 4
  | .none => 2 | .loading => 3 | .committing => 4 | .active => 5 | .closed => 6

/-- The code that the other blocks decide once start-up is over (R151). -/
def State.runIndicator (s : State) : BitVec 4 :=
  match s.journal.st with
  | .fault => 9
  | .erasing => 8
  | _ =>
    match s.upload.st with
    | .sending => 7
    | .awaitAck => 7
    | _ => s.roster.phase.indicator

/-- The code on the indicator lines (R151). -/
def State.indicatorCode (s : State) : BitVec 4 :=
  if s.asserted then 0
  else
    match s.startup with
    | some (.scanning _) => 1
    | some _ => 0
    | none => s.runIndicator

/-- The two lines follow the state that decides them, at the end of every step (R151, R176). -/
def State.refreshLines (s : State) : State :=
  { s with link.attention := s.attentionLevel, indicator := s.indicatorCode }

/-! ## Counters -/

/-- The journal refusal counter rises by `n` refusals (R120, R130). -/
def State.countRefusals (n : Nat) (s : State) : State :=
  { s with link.counters.refusal := min (s.link.counters.refusal + n) 65535 }

/-- Out-of-range register (R46). -/
def State.countOutOfRange (s : State) : State :=
  { s with link.counters.outOfRange := satInc s.link.counters.outOfRange }

/-- Forced close (R49, R57). -/
def State.countForcedClose (s : State) : State :=
  { s with link.counters.forcedClose := satInc s.link.counters.forcedClose }

/-- Notice dropped (R178). -/
def State.countNoticeDropped (s : State) : State :=
  { s with link.counters.noticeDropped := satInc s.link.counters.noticeDropped }

/-- Link check error (R166, R169). -/
def State.countLinkCheck (s : State) : State :=
  { s with link.counters.linkCheck := satInc s.link.counters.linkCheck }

/-- Link overrun (R168). -/
def State.countOverrun (s : State) : State := { s with link.counters.overrun := satInc s.link.counters.overrun }

/-- Gap abort (R167). -/
def State.countGapAbort (s : State) : State := { s with link.counters.gapAbort := satInc s.link.counters.gapAbort }

/-- Transmit timeout (R108). -/
def State.countTransmitTimeout (s : State) : State :=
  { s with link.counters.transmitTimeout := satInc s.link.counters.transmitTimeout }

/-- Rebuild unknown serial (R11). -/
def State.countUnknownSerial (s : State) : State :=
  { s with link.counters.unknownSerial := satInc s.link.counters.unknownSerial }

/-- Rebuild bad record (R11). -/
def State.countBadRecord (s : State) : State :=
  { s with link.counters.badRecord := satInc s.link.counters.badRecord }

/-- A lane counter's update (R39). -/
def State.updLane (i : Fin 4) (f : Lane → Lane) (s : State) : State :=
  { s with intake.lanes := s.intake.lanes.set i.val (f s.intake.lanes[i]) }

/-- The seven counters of a lane in the order of R39. -/
def LaneCounters.values (c : LaneCounters) : List Nat :=
  [c.taken, c.checkFail, c.belowFloor, c.foreign, c.repeated, c.stale, c.unsupported]

/-- The ten global counters in the order of R180. -/
def GlobalCounters.values (c : GlobalCounters) : List Nat :=
  [c.outOfRange, c.forcedClose, c.refusal, c.noticeDropped, c.linkCheck, c.overrun, c.gapAbort, c.transmitTimeout,
   c.unknownSerial, c.badRecord]

/-- The 38 counters as COUNTERS READ reports them (R180). -/
def State.counterValues (s : State) : List Nat :=
  s.intake.lanes.toList.flatMap (fun l => l.counters.values) ++ s.link.counters.values

/-- Every counter at 0 (R180). -/
def State.clearCounters (s : State) : State :=
  { s with intake.lanes := s.intake.lanes.map (fun l => { l with counters := .zero }), link.counters := .zero }

/-! ## Condition sets (R78, R185) -/

/-- The set of the conditions, given present or absent in the order of their numbers. -/
def condSet (a b c d e f g h : Bool) : BitVec 8 :=
  bitAt 0 a ||| bitAt 1 b ||| bitAt 2 c ||| bitAt 3 d ||| bitAt 4 e ||| bitAt 5 f ||| bitAt 6 g ||| bitAt 7 h

/-- The conditions that a confirming reading checks again: STATUS_CHANGE, STATUS_ALARM, REVERSE (5.2). -/
def recheckable : BitVec 8 := 0x0B#8

end Sys2Proof.Machine
end

