-- ==== Sys2Proof/Machine/Memory.lean ====
section
/-!
DEFINITION. The journal store as address and byte pairs in one canonical form: addresses strictly rising, no pair
equal to 0xFF, the erased byte that an unlisted address reads as (R119; log 8).
-/

namespace Sys2Proof.Machine.Memory

/-- A byte of the erased flash (R119). -/
def blank : Byte := 0xFF#8

/-- The canonical form. -/
abbrev wf (m : List Host.Cell) : Prop := m.Pairwise (fun a b => a.1 < b.1) ∧ ∀ c ∈ m, c.2 ≠ blank

/-- The byte stored at an address. -/
def read1 : List Host.Cell → Nat → Byte
  | [], _ => blank
  | c :: m, a => if c.1 = a then c.2 else read1 m a

/-- The `n` bytes from an address upward (R135). -/
def readN (m : List Host.Cell) (a n : Nat) : List Byte := (List.range n).map fun i => read1 m (a + i)

/-- Puts a byte at an address, keeping the canonical form. -/
def write1 : List Host.Cell → Nat → Byte → List Host.Cell
  | [], a, v => if v = blank then [] else [(a, v)]
  | c :: m, a, v =>
    if a < c.1 then (if v = blank then c :: m else (a, v) :: c :: m)
    else if a = c.1 then (if v = blank then m else (a, v) :: m)
    else c :: write1 m a v

/-- What programming a byte over another leaves: the new byte on a blank one, else a free value (log 10). -/
def programmed (a : Nat) (old new : Byte) : Byte := if old = blank then new else Config.reprogrammed a old new

/-- The bytes of a program that ended good, from an address upward (R126, R129). -/
def program : List Host.Cell → Nat → List Byte → List Host.Cell
  | m, _, [] => m
  | m, a, b :: bs => program (write1 m a (programmed a (read1 m a) b)) (a + 1) bs

/-- Bytes laid over the store as they are: what a failed operation left (log 9), and a delivery mark (R134). -/
def overlay : List Host.Cell → Nat → List Byte → List Host.Cell
  | m, _, [] => m
  | m, a, b :: bs => overlay (write1 m a b) (a + 1) bs

/-- One sector of 65,536 bytes back to 0xFF (R119). -/
def eraseSector (m : List Host.Cell) (k : Nat) : List Host.Cell := m.filter fun c => c.1 / 65536 ≠ k

end Sys2Proof.Machine.Memory
end

