-- ==== Sys2Proof/Machine/Ops.lean ====
section
/-!
DEFINITION. The shared operations over the part's state: the roster and its chain and counts (R19, R21), notices
(R178), the flash port (R127), the outbound arbiter (R179), the end of a step, and a reset taking effect (R141).
-/

namespace Sys2Proof.Machine

/-! ## Roster -/

/-- The entry of a serial (R35). -/
def State.entry? (s : State) (serial : Nat) : Option Entry :=
  s.roster.entries.find? fun e => e.loaded.serial == serial

/-- Changes the entry of a serial. -/
def State.updEntry (serial : Nat) (f : Entry → Entry) (s : State) : State :=
  { s with roster.entries := s.roster.entries.map fun e => if e.loaded.serial = serial then f e else e }

/-- The class of an entry. -/
def State.classOf (s : State) (e : Entry) : ClassRec := s.roster.classes[e.loaded.cls.toNat]

/-- A leg of the leg table. -/
def State.leg (s : State) (l : Byte) : Leg := s.roster.legs[l.toNat]

/-- Changes a leg. -/
def State.updLeg (l : Byte) (f : Leg → Leg) (s : State) : State :=
  { s with roster.legs := s.roster.legs.set l.toNat (f (s.leg l)) }

/-- Whether a leg is OPEN. -/
def State.legIsOpen (s : State) (l : Byte) : Bool := (s.leg l).st == .opened

/-- The route clock as a number of seconds (R16). -/
def State.routeSeconds (s : State) : Nat := s.roster.routeClock.toNat

/-- The route minute (R16). -/
def State.routeMinute (s : State) : Nat := s.routeSeconds / 60

/-- The route identifier that a record carries (R7). -/
def State.recordRoute (s : State) : Nat := s.roster.routeId.getD 0

/-- The category of a state in the leg counts (R21). -/
inductive CountKind where
  | read
  | missed
  | excluded
  | outstanding
  deriving DecidableEq, Repr

/-- R21: which count an entry's state belongs to. -/
def EntryState.kind : EntryState → CountKind
  | .read => .read
  | .missed => .missed
  | .excluded => .excluded
  | _ => .outstanding

/-- Adds to one count of a leg. -/
def LegCounts.add (c : LegCounts) : CountKind → LegCounts
  | .read => { c with read := c.read + 1 }
  | .missed => { c with missed := c.missed + 1 }
  | .excluded => { c with excluded := c.excluded + 1 }
  | .outstanding => { c with outstanding := c.outstanding + 1 }

/-- Takes from one count of a leg. -/
def LegCounts.sub (c : LegCounts) : CountKind → LegCounts
  | .read => { c with read := c.read - 1 }
  | .missed => { c with missed := c.missed - 1 }
  | .excluded => { c with excluded := c.excluded - 1 }
  | .outstanding => { c with outstanding := c.outstanding - 1 }

/-- A transition's move of one count from the old category to the new (R21). -/
def LegCounts.move (c : LegCounts) (a b : CountKind) : LegCounts := if a = b then c else (c.sub a).add b

/-- The missed chain after an entry's move from a state to another (R19): unlinked on leaving MISSED, joined at the
back on entering it. -/
def chainMove (serial : Nat) (old new : EntryState) (chain : List Nat) : List Nat :=
  let out := if old = .missed then chain.erase serial else chain
  if new = .missed then out ++ [serial] else out

/-- Moves an entry to a state with its chain place, its leg's counts left alone (the rebuild, R12 to R14). -/
def State.placeEntry (serial : Nat) (st : EntryState) (s : State) : State :=
  match s.entry? serial with
  | none => s
  | some e =>
    { s.updEntry serial (fun e => { e with st := st }) with roster.missed := chainMove serial e.st st s.roster.missed }

/-- Moves an entry to a state: its chain place (R19) and its leg's counts (R21). -/
def State.moveTo (serial : Nat) (st : EntryState) (s : State) : State :=
  match s.entry? serial with
  | none => s
  | some e =>
    (s.placeEntry serial st).updLeg e.loaded.leg fun l => { l with counts := l.counts.move e.st.kind st.kind }

/-- The counts of a leg formed from its entries' states (R14, R21). -/
def countLeg (es : List Entry) (l : Byte) : LegCounts :=
  let mine := es.filter fun e => e.loaded.leg == l
  { total := mine.length, read := mine.countP (fun e => e.st.kind == .read),
    missed := mine.countP (fun e => e.st.kind == .missed),
    excluded := mine.countP (fun e => e.st.kind == .excluded),
    outstanding := mine.countP (fun e => e.st.kind == .outstanding) }

/-- Every leg's counts formed anew. -/
def State.recount (s : State) : State :=
  { s with roster.legs := Vector.ofFn fun i =>
      { s.roster.legs[i] with counts := countLeg s.roster.entries (BitVec.ofNat 8 i.val) } }

/-- Every leg back to UNVISITED with zero counts, its pass code and budget kept (R3, R15, R17). -/
def State.clearLegs (s : State) : State :=
  { s with roster.legs := s.roster.legs.map fun l => { l with st := .unvisited, counts := .zero } }

/-- The serials of the entries that a test picks, in ascending serial order. -/
def State.serialsWhere (s : State) (p : Entry → Bool) : List Nat :=
  (s.roster.entries.filter p).map fun e => e.loaded.serial

/-- The candidate of a meter: what its candidate link names (R42). -/
def State.candOf? (s : State) (serial : Nat) : Option Candidate :=
  s.pool.cands.find? fun c => c.serial == serial

/-- A candidate's slot becomes FREE and leaves the opening order (R44). -/
def State.freeSlot (serial : Nat) (s : State) : State :=
  { s with pool.cands := s.pool.cands.filter fun c => c.serial != serial }

/-- Changes a candidate. -/
def State.updCand (serial : Nat) (f : Candidate → Candidate) (s : State) : State :=
  { s with pool.cands := s.pool.cands.map fun c => if c.serial = serial then f c else c }

/-! ## Notices (R178) -/

/-- Whether the queue takes a notice: a FOREIGN notice at up to 32 queued, any other at up to 47. -/
def noticeFits (n : Notice) (queued : Nat) : Bool :=
  match n with
  | .foreign _ _ _ => queued ≤ 32
  | _ => queued ≤ 47

/-- A notice is requested: it joins the queue, or is dropped, counted, and sets NOTICE_LOSS. -/
def State.requestNotice (n : Notice) (s : State) : State :=
  if noticeFits n s.link.notices.length then { s with link.notices := s.link.notices ++ [n] }
  else (s.countNoticeDropped).setFlag .noticeLoss

/-! ## Flash port (R127) -/

/-- An operation is requested and waits at the port. -/
def State.requestFlash (r : FlashReq) (s : State) : State :=
  { s with flash.waiting := s.flash.waiting ++ [r] }

/-- The order of preference: page programs, index and mark programs, erases, reads. -/
def FlashReq.rank : FlashReq → Nat
  | .page _ _ => 0
  | .index _ _ => 1
  | .recoveryIndex _ _ => 1
  | .mark _ _ => 1
  | .erase _ => 2
  | .read _ _ _ => 3
  | .identify => 3

/-- The time limit of an operation in milliseconds (R127, R143). -/
def FlashReq.limit : FlashReq → Nat
  | .page _ _ => 10
  | .index _ _ => 10
  | .recoveryIndex _ _ => 10
  | .mark _ _ => 10
  | .erase _ => 4000
  | .read _ _ _ => 5
  | .identify => 5

/-- The waiting request that a free port issues next; reads are not issued while the journal is ERASING (R120). -/
def nextRequest (w : List FlashReq) (erasing : Bool) : Option FlashReq :=
  (w.find? fun r => r.rank == 0) <|> (w.find? fun r => r.rank == 1) <|> (w.find? fun r => r.rank == 2)
    <|> (if erasing then none else w.find? fun r => r.rank == 3)

/-- The free port issues the next waiting request. -/
def State.issue (s : State) : State :=
  match s.flash.port with
  | some _ => s
  | none =>
    match nextRequest s.flash.waiting (s.journal.st == .erasing) with
    | none => s
    | some r =>
      { s with flash.port := some r, flash.waiting := s.flash.waiting.erase r, flash.portLeft := r.limit }

/-- The operation in progress has ended and the port is free. -/
def State.freePort (s : State) : State := { s with flash.port := none, flash.portLeft := 0 }

/-- Whether an operation is a page program. -/
def FlashReq.isPage : FlashReq → Bool
  | .page _ _ => true
  | _ => false

/-- Whether the port holds or waits to issue an operation that a test picks. -/
def State.portHas (s : State) (p : FlashReq → Bool) : Bool := s.flash.port.any p || s.flash.waiting.any p

/-- The bytes the append buffer holds (R126). -/
def Journal.held (j : Journal) : List Byte := j.buffer.flatten

/-- A page program is requested while bytes are held and none of the buffer's programs waits or runs: the held bytes
up to the next page boundary (R126; log 7). -/
def State.requestPage (s : State) : State :=
  if s.journal.held = [] ∨ s.portHas FlashReq.isPage then s
  else s.requestFlash (.page s.journal.progEnd (s.journal.held.take (256 - s.journal.progEnd % 256)))

/-- The index record of a sealed batch (R129). -/
def SealedBatch.bytes (b : SealedBatch) : List Byte := indexBytes b.number b.first b.length b.count b.leg 0 b.crc

/-- The index program of the front sealed batch is requested once all its bytes are programmed (R129). -/
def State.requestIndex (s : State) : State :=
  match s.journal.seals with
  | [] => s
  | b :: rest =>
    if b.requested ∨ s.journal.progEnd < b.first + b.length then s
    else { s.requestFlash (.index b.slot b.bytes) with journal.seals := { b with requested := true } :: rest }

/-! ## Outbound arbiter (R179) -/

/-- The engine asks for the next data of the current batch (R157). -/
def State.requestData (s : State) : State :=
  match s.upload.batch with
  | none => s
  | some b =>
    s.requestFlash
      (.read (.uploadData false) (b.first + s.upload.sendOffset) (min 240 (b.length - s.upload.sendOffset)))

/-- The BATCH TAIL is built (R158): the running CRC, or for a VOID batch the stored one. -/
def State.buildTail (s : State) : State :=
  match s.upload.batch with
  | none => s
  | some b =>
    let crc := if b.void then b.crc else s.upload.runCrc
    { s with upload.tailCrc := some crc, upload.ready := some (.tail b.number crc (crc != b.crc)) }

/-- The engine goes on after the arbiter took one of its frames (R156, R157, R158). -/
def State.afterUploadTaken (f : UploadFrame) (s : State) : State :=
  match f with
  | .tail _ _ _ => { s with upload.tailOut := true }
  | _ =>
    match s.upload.batch with
    | none => s
    | some b => if b.void ∨ b.length ≤ s.upload.sendOffset then s.buildTail else s.requestData

/-- The free arbiter takes one frame: the front reply, the ready upload frame, then the front notice (R179). -/
def State.arbitrate (s : State) : State :=
  match s.link.sending with
  | some _ => s
  | none =>
    match s.link.replies with
    | r :: rs => { s with link.replies := rs, link.sending := some (.reply r) }
    | [] =>
      match s.upload.ready with
      | some f => ({ s with upload.ready := none, link.sending := some (.upload f) } : State).afterUploadTaken f
      | none =>
        match s.link.notices with
        | n :: ns => { s with link.notices := ns, link.sending := some (.notice n) }
        | [] => s

/-! ## The end of a step, and a reset -/

/-- The end of every step: the arbiter takes a frame, the buffer and the front seal ask for their programs, the port
issues, and the lines follow (log 6). -/
def State.finish (s : State) : State := s.arbitrate.requestPage.requestIndex.issue.refreshLines

/-- One whole step of the part. While the reset input is asserted nothing reaches it (R141). -/
def event (f : State → State) (s : State) : Host.Outcome State Fault Refusal :=
  if s.asserted then .next s else .next (f s).finish

/-- A program or erase that a reset leaves the flash to finish (R142). -/
def Flash.leftOver (f : Flash) : Option FlashReq :=
  match f.port with
  | none => f.unfinished
  | some .identify => f.unfinished
  | some (.read _ _ _) => f.unfinished
  | some r => some r

/-- A reset takes effect (R141, R142). -/
def State.resetEffect (s : State) : State :=
  State.atReset s.straps s.flash.store s.flash.leftOver s.pending s.draws

/-- Whether a long operation runs (R171): start-up, the commit rebuild scan, the journal erase. -/
def State.longOp (s : State) : Bool :=
  s.startup.isSome || s.roster.rebuild.isSome || s.journal.st == .erasing

end Sys2Proof.Machine
end

