-- ==== Sys2Proof/Machine/Evaluate.lean ====
section
/-!
DEFINITION. The reading evaluator: the stages of the reading arithmetic (R59 to R71), the tamper judgement (R78 to
R84) and the confirmation evaluation (R76, R92, R96).
-/

namespace Sys2Proof.Machine

/-- The modulus of a class's register (R1). -/
def ClassRec.modulus (c : ClassRec) : Nat := 10 ^ c.digits

/-- Stage 1: the forward difference (R - P) mod M (R63). -/
def forwardDiff (r p m : Nat) : Nat := (((r : Int) - (p : Int)) % (m : Int)).toNat

/-- Stage 2: the case of a movement (R64). -/
def moveCase (d m t : Nat) : MoveCase :=
  if d = 0 then .zero else if m - d ≤ t then .backstep else if d ≤ m / 2 then .forward else .reverse

/-- The delta of a case (R65). -/
def deltaOf (k : MoveCase) (d : Nat) : Nat :=
  match k with
  | .forward => d
  | _ => 0

/-- The recorded amount of a case (R65). -/
def amountOf (k : MoveCase) (d m : Nat) : Nat :=
  match k with
  | .zero => 0
  | .forward => d
  | .backstep => m - d
  | .reverse => m - d

/-- The elapsed minutes at a route minute (R62). -/
def Entry.elapsed (e : Entry) (minute : Nat) : Nat :=
  match e.readingMinute with
  | none => e.loaded.prevAge + minute
  | some m => minute - m

/-- Stage 4: the daily rate (R67). -/
def dailyRate (k : MoveCase) (consumption elapsed : Nat) : Nat :=
  match k with
  | .forward => min (consumption * 1440 / max elapsed 1) 4294967295
  | _ => 0

/-- What the arithmetic of a reading gives to the judgement and the record (R69). -/
structure Movement where
  case : MoveCase
  delta : Nat
  amount : Nat
  consumption : Nat
  rate : Nat
  elapsed : Nat
  deriving DecidableEq, Repr

/-- Stages 1 to 4 for a register of a meter (R63 to R67). -/
def movementOf (c : ClassRec) (e : Entry) (register minute : Nat) : Movement :=
  let d := forwardDiff register e.prevReg c.modulus
  let k := moveCase d c.modulus c.tol
  let consumption := deltaOf k d * c.mult
  { case := k, delta := deltaOf k d, amount := amountOf k d c.modulus, consumption := consumption,
    rate := dailyRate k consumption (e.elapsed minute), elapsed := e.elapsed minute }

/-- STATUS_CHANGE (R79). -/
def statusChange (c : ClassRec) (now ref : Byte) : Bool := (now ^^^ ref) &&& c.watch != 0

/-- STATUS_ALARM (R79). -/
def statusAlarm (c : ClassRec) (now : Byte) : Bool := now &&& c.alarm != 0

/-- HIGH_RATE (R80). -/
def highRate (c : ClassRec) (m : Movement) : Bool := c.rateLimit != 0 && decide (c.rateLimit < m.rate)

/-- STOPPED (R80). -/
def stopped (c : ClassRec) (m : Movement) : Bool :=
  c.stopMinutes != 0 && m.case == .zero && decide (c.stopMinutes ≤ m.elapsed)

/-- CONTINUOUS (R81). -/
def continuous (c : ClassRec) (intervals : List Nat) : Bool :=
  c.leakHours != 0 && decide (c.leakHours ≤ intervals.length)
    && (intervals.take c.leakHours).all fun i => decide (c.leakFloor ≤ i)

/-- PROFILE (R81), with the profile sum S of stage 5 (R68). -/
def profile (m : Movement) (intervals : List Nat) : Bool :=
  m.case == .forward && decide (1 ≤ intervals.length) && decide (60 * intervals.length ≤ m.elapsed)
    && decide (m.delta < intervals.sum)

/-- The conditions present in a reading (R78). -/
def conditionsOf (c : ClassRec) (m : Movement) (status ref : Byte) (intervals : List Nat) : BitVec 8 :=
  condSet (statusChange c status ref) (statusAlarm c status) (m.case == .backstep) (m.case == .reverse)
    (highRate c m) (stopped c m) (continuous c intervals) (profile m intervals)

/-- The visit score: the sum of the weights of the conditions present (R82). -/
def visitScore (c : ClassRec) (conds : BitVec 8) : Nat :=
  ((List.finRange 8).map fun i => if conds.getLsbD i.val then c.weights[i] else 0).sum

/-- The total score (R82). -/
def totalScore (carried visit : Nat) : Nat := min (carried + visit) 255

/-- Whether a total score flags the meter (R83). -/
def isFlagged (c : ClassRec) (total : Nat) : Bool := c.threshold != 0 && decide (c.threshold ≤ total)

/-- The confirmation applicability test of a flagged reading (R84). -/
def State.confirmApplies (s : State) (e : Entry) (conds : BitVec 8) (routeClosing : Bool) : Bool :=
  (s.classOf e).confirm && (e.attrs.wake || e.attrs.wakeAllowed) && (conds &&& recheckable != 0)
    && s.legIsOpen e.loaded.leg && !routeClosing

/-- The evaluation of a HEARD meter's candidate (R69 to R71): the READING record and what goes with it. -/
def State.evaluateReading (s : State) (e : Entry) (c : Candidate) (routeClosing : Bool) : Evaluated :=
  let k := s.classOf e
  let m := movementOf k e c.best.register s.routeMinute
  let conds := conditionsOf k m c.best.status e.refStatus c.best.intervals
  let visit := visitScore k conds
  let total := totalScore e.totalScore visit
  let flagged := isFlagged k total
  .reading
    { routeId := s.recordRoute, serial := e.loaded.serial, leg := e.loaded.leg, cls := e.loaded.cls,
      register := c.best.register, amount := m.amount, consumption := m.consumption, rate := m.rate,
      elapsed := min m.elapsed 16777215, status := c.best.status, conds := conds, visit := visit, total := total,
      copies := c.copies, lanes := c.lanes, late := c.late, woken := c.woken,
      suspect := flagged && s.confirmApplies e conds routeClosing, case := m.case, attempts := e.attempts,
      rssi := c.best.rssi, seq := c.best.seq, routeTime := s.routeSeconds, intervals := c.best.intervals }
    c.disagreements flagged s.routeMinute

/-- REVERSE of the confirmation evaluation (R76, R92): measured from the first reading. -/
def confirmReverse (c : ClassRec) (r2 r1 : Nat) : Bool :=
  let d := forwardDiff r2 r1 c.modulus
  decide (c.modulus / 2 < d) && decide (c.tol < c.modulus - d)

/-- The re-checked set (R92). -/
def recheckedSet (c : ClassRec) (e : Entry) (register : Nat) (status : Byte) : BitVec 8 :=
  condSet (statusChange c status e.refStatus) (statusAlarm c status) false (confirmReverse c register e.prevReg)
    false false false false

/-- The suspect set of an entry (R90). -/
def Entry.suspectSet (e : Entry) : BitVec 8 :=
  match e.confirm with
  | some p => p.suspect
  | none => 0

/-- The confirmation evaluation of a VERIFY meter's candidate (R92, R96). R112 has the CONFIRM record carry the meter's
wake attempts, and R96 and its layout give that record no field for them: none is carried (log 33). -/
def State.evaluateConfirm (s : State) (e : Entry) (c : Candidate) : Evaluated :=
  let set := recheckedSet (s.classOf e) e c.best.register c.best.status
  .confirm
    { routeId := s.recordRoute, serial := e.loaded.serial, register := c.best.register, status := c.best.status,
      conds := set, outcome := if set &&& e.suspectSet != 0 then .confirmed else .cleared,
      routeTime := s.routeSeconds, rssi := c.best.rssi }
    e.totalScore

/-- The evaluation that the meter's state calls for (R59). -/
def State.evaluate (s : State) (e : Entry) (c : Candidate) (routeClosing : Bool) : Evaluated :=
  if e.st = .verify then s.evaluateConfirm e c else s.evaluateReading e c routeClosing

/-- The first status of an entry in VERIFY (R90). -/
def Entry.firstStatus (e : Entry) : Byte :=
  match e.confirm with
  | some p => p.firstStatus
  | none => e.refStatus

/-- The CONFIRM record of an unanswered end (R96). -/
def State.unansweredRecord (s : State) (e : Entry) : ConfirmRec :=
  { routeId := s.recordRoute, serial := e.loaded.serial, register := e.prevReg, status := e.firstStatus, conds := 0,
    outcome := .unconfirmed, routeTime := s.routeSeconds, rssi := -140 }

end Sys2Proof.Machine
end

