-- ==== Sys2Proof/Machine/Journal.lean ====
section
/-!
DEFINITION. The journal controller: the space and buffer tests, appending, sealing, offering and the wait order
(R120 to R126, R128, R132, R133). What the report of an outcome does to a meter stands in Outcome.lean.
-/

namespace Sys2Proof.Machine

/-- The free space (R119). -/
def Journal.free (j : Journal) : Nat := j.indexStart - j.recordEnd

/-- JOURNAL_LOW is set when the free space is below S/16 (R133). -/
def State.testLow (s : State) : State :=
  if s.journal.free < s.journal.size / 16 then s.setFlag .journalLow else s

/-- What the space test and the buffer test say of a record of a length (steps 3 and 4 of R123). -/
inductive Room where
  | noSpace
  | noBuffer
  | fits
  deriving DecidableEq, Repr

/-- The two tests, the space test first (R123, R132). -/
def Journal.room (j : Journal) (len : Nat) : Room :=
  if j.indexStart < j.recordEnd + len + 16 ∨ (j.openBatch = none ∧ 65536 ≤ j.nextBatch) then .noSpace
  else if 1024 < j.held.length + len then .noBuffer
  else .fits

/-- The leg that a batch opened now records: the OPEN leg, or 255 (R125). -/
def State.batchLeg (s : State) : Byte :=
  match s.sched.openLeg with
  | some o => o.leg
  | none => 255

/-- The open batch that takes a record now: the one there is, or a new one with the next number (R125). -/
def State.batchFor (s : State) : OpenBatch :=
  match s.journal.openBatch with
  | some b => b
  | none => { number := s.journal.nextBatch, first := s.journal.recordEnd, leg := s.batchLeg, count := 0, crc := 0xFFFF }

/-- A seal trigger (R128): an open batch is sealed in OPEN and FULL, its slot reserved, JOURNAL_LOW tested. -/
def State.sealOpen (s : State) : State :=
  match s.journal.openBatch with
  | none => s
  | some b =>
    if s.journal.st = .opened ∨ s.journal.st = .full then
      let slot := s.journal.indexStart - 16
      ({ s with journal.openBatch := none, journal.indexStart := slot,
                journal.seals := s.journal.seals ++
                  [{ number := b.number, first := b.first, length := s.journal.recordEnd - b.first, count := b.count,
                     leg := b.leg, crc := b.crc, slot := slot, requested := false }] } : State).testLow
    else s

/-- The number a seal trigger gives: of the batch it seals, or 0 (R136). -/
def State.sealNumber (s : State) : Nat :=
  match s.journal.openBatch with
  | none => 0
  | some b => if s.journal.st = .opened ∨ s.journal.st = .full then b.number else 0

/-- Steps 1 to 3 of R125: the record joins the open batch and the append buffer. -/
def State.joinBuffer (bytes : List Byte) (s : State) : State :=
  let b := s.batchFor
  { s with
    journal.openBatch := some { b with count := b.count + 1, crc := crcMore b.crc bytes },
    journal.nextBatch := if s.journal.openBatch.isSome then s.journal.nextBatch else s.journal.nextBatch + 1,
    journal.buffer := s.journal.buffer ++ [bytes],
    journal.recordEnd := s.journal.recordEnd + bytes.length }

/-- The batch is sealed when it holds 255 records (R125, R128). -/
def State.sealFull (s : State) : State :=
  match s.journal.openBatch with
  | some b => if 255 ≤ b.count then s.sealOpen else s
  | none => s

/-- A record is appended (R125). -/
def State.append (bytes : List Byte) (s : State) : State := ((s.joinBuffer bytes).testLow).sealFull

/-- A record is refused because of the journal state (R120, R133). -/
def State.refuseByState (s : State) : State :=
  let t := s.countRefusals 1
  if s.journal.st = .full then t.setFlag .journalFull else t

/-- A record is refused for space or batch numbers: the journal becomes FULL (R123). -/
def State.refuseForSpace (s : State) : State :=
  ({ s.countRefusals 1 with journal.st := .full } : State).setFlag .journalFull

/-- The answer to an offer (R123): appended, refused, or not known yet. -/
inductive OfferOutcome where
  | appended
  | refused
  | waiting
  deriving DecidableEq, Repr

/-- Whether a wait entry is a record the scheduler offered (R124). -/
def WaitEntry.isHeld : WaitEntry → Bool
  | .held _ => true
  | _ => false

/-- A record joins the back of the wait order, or, from the scheduler with 4,096 of its records held, is refused
(R124). -/
def State.joinWait (w : WaitEntry) (s : State) : OfferOutcome × State :=
  if w.isHeld ∧ 4096 ≤ s.journal.waits.countP WaitEntry.isHeld then (.refused, s.countRefusals 1)
  else (.waiting, { s with journal.waits := s.journal.waits ++ [w] })

/-- A record is offered to the journal controller (R123); `w` is what it is in the wait order. -/
def State.offer (r : JournalRecord) (w : WaitEntry) (s : State) : OfferOutcome × State :=
  if s.journal.st ≠ .opened then (.refused, s.refuseByState)
  else if s.journal.waits ≠ [] then s.joinWait w
  else
    match s.journal.room r.bytes.length with
    | .noSpace => (.refused, s.refuseForSpace)
    | .noBuffer => s.joinWait w
    | .fits => (.appended, s.append r.bytes)

/-- A MISS record or an unanswered end's CONFIRM record is offered by the scheduler (R113, R94). -/
def State.offerHeld (r : JournalRecord) (s : State) : OfferOutcome × State := s.offer r (.held r)

/-- The record a wait entry stands for (R124). -/
def State.waitRecord (s : State) : WaitEntry → Option JournalRecord
  | .slot serial => (s.candOf? serial).bind fun c => c.evaluated.map Evaluated.record
  | .held r => some r
  | .moved e => some e.record

/-- The buffer after `n` bytes of it were programmed good (R126). -/
def dropHeld : Nat → List (List Byte) → List (List Byte)
  | _, [] => []
  | n, r :: rs => if n = 0 then r :: rs else if r.length ≤ n then dropHeld (n - r.length) rs else r.drop n :: rs

/-- A program or erase failure is captured (R131). -/
def State.captureFault (off : Nat) (s : State) : State :=
  { s with journal.capture :=
      match s.journal.capture with
      | none => some (off, 1)
      | some (o, n) => some (o, satInc n) }

end Sys2Proof.Machine
end

