-- ==== Sys2Proof/Machine/Wake.lean ====
section
/-!
DEFINITION. The leg and wake scheduler: admission scans, confirm offers, the transmit lane, reply windows, misses and
settling (R101 to R113, R117).
-/

namespace Sys2Proof.Machine

/-- The number of requests in the wake queue (R101). -/
def Sched.queued (q : Sched) : Nat := q.confirms.length + q.sweeps.length

/-- The budget counter of the open leg; with no leg OPEN there is none to spend (R97). -/
def Sched.budget (q : Sched) : Nat :=
  match q.openLeg with
  | some o => o.budget
  | none => 0

/-- Whether an entry is eligible for the open leg's admission scan (R102). -/
def State.eligible (s : State) (o : OpenLeg) (e : Entry) : Bool :=
  e.loaded.leg == o.leg && e.st == .pending && (e.attrs.wake || (o.passExpired && e.attrs.wakeAllowed))
    && !e.attrs.excluded && decide (e.attempts < (s.classOf e).retries + 1)

/-- The serials an admission scan takes into the queue: the eligible ones in ascending serial, within the queue's room
and the budget counter (R102). -/
def State.scanPick (s : State) : List Nat :=
  match s.sched.openLeg with
  | none => []
  | some o => (s.serialsWhere (s.eligible o)).take (min (32 - s.sched.queued) (o.budget - s.sched.sweeps.length))

/-- One meter joins the back of the sweep group and becomes QUEUED. -/
def State.joinSweep (serial : Nat) (s : State) : State :=
  (({ s with sched.sweeps := s.sched.sweeps ++ [serial] } : State)).moveTo serial .queued

/-- An admission scan (R102). -/
def State.scan (s : State) : State := s.scanPick.foldl (fun t serial => t.joinSweep serial) s

/-- The request at the head of the queue (R101). -/
def Sched.head (q : Sched) : Option (Nat × Purpose) :=
  match q.confirms, q.sweeps with
  | c :: _, _ => some (c, .confirm)
  | [], w :: _ => some (w, .sweep)
  | [], [] => none

/-- Whether the transmit lane takes the head it is offered (R107). -/
def Sched.mayStart (q : Sched) (p : Purpose) : Bool :=
  q.tx.isNone && decide (q.wakeDur ≤ q.credit) && (p == .confirm || decide (0 < q.budget))

/-- The transmit lane takes the head request (R107, steps 1 to 7). -/
def State.startTransmission (serial : Nat) (p : Purpose) (s : State) : State :=
  let t : State :=
    { s with
      sched.confirms := if p = .confirm then s.sched.confirms.tail else s.sched.confirms,
      sched.sweeps := if p = .sweep then s.sched.sweeps.tail else s.sched.sweeps,
      sched.credit := s.sched.credit - s.sched.wakeDur,
      sched.openLeg :=
        if p = .sweep then s.sched.openLeg.map fun o => { o with budget := o.budget - 1 } else s.sched.openLeg,
      sched.tx := some { serial := serial, purpose := p, wakeDur := s.sched.wakeDur, heard := false,
                         timeoutLeft := s.sched.wakeDur + 100, discarded := false } }
  let t := t.updEntry serial fun e => { e with attempts := e.attempts + 1 }
  if p = .sweep then t.moveTo serial .sending else t

/-- The transmit lane is offered the head of the queue (R107); a request it takes frees a slot, and an admission scan
follows (R104). -/
def State.offerLane (s : State) : State :=
  match s.sched.head with
  | none => s
  | some (serial, p) => if s.sched.mayStart p then (s.startTransmission serial p).scan else s

/-- A meter's request leaves the queue because it was heard: a scan, then the lane is offered the head (R104, R112). -/
def State.dropRequest (serial : Nat) (s : State) : State :=
  if serial ∈ s.sched.confirms ∨ serial ∈ s.sched.sweeps then
    (({ s with sched.confirms := s.sched.confirms.erase serial,
               sched.sweeps := s.sched.sweeps.erase serial } : State).scan).offerLane
  else s

/-- A confirm request is offered to the wake queue (R103): it joins, or joins by evicting the newest sweep request,
or, with 32 confirm requests queued, does not join. -/
def State.offerConfirm (serial : Nat) (s : State) : State :=
  if s.sched.queued < 32 then
    ({ s with sched.confirms := s.sched.confirms ++ [serial] } : State).offerLane
  else
    match s.sched.sweeps.getLast? with
    | none => s
    | some evicted =>
      (({ s with sched.sweeps := s.sched.sweeps.dropLast,
                 sched.confirms := s.sched.confirms ++ [serial] } : State).moveTo evicted .pending).offerLane

/-- The settled test (R117): the first time in an opening that the open leg has no outstanding meter. -/
def State.settleTest (s : State) : State :=
  match s.sched.openLeg with
  | none => s
  | some o =>
    if o.settled = false ∧ (s.leg o.leg).counts.outstanding = 0 then
      (({ s with sched.openLeg := some { o with settled := true } } : State).setFlag .legSettled).requestNotice
        (.leg o.leg .settled (s.leg o.leg).st (s.leg o.leg).counts)
    else s

/-- The reason of a miss after the leg has closed (R113). -/
def State.closedReason (s : State) : MissReason := if s.roster.phase = .closed then .routeClosed else .legClosed

/-- The MISS record of an entry (R113). -/
def State.missRecord (s : State) (e : Entry) (r : MissReason) : MissRec :=
  { routeId := s.recordRoute, serial := e.loaded.serial, leg := e.loaded.leg, reason := r, attempts := e.attempts,
    routeTime := s.routeSeconds }

/-- A meter becomes MISSED (R113): chain and counts, the MISS record offered, the MISSED notice, the MISSED flag. -/
def State.missMeter (serial : Nat) (r : MissReason) (s : State) : State :=
  match s.entry? serial with
  | none => s
  | some e =>
    let t := s.moveTo serial .missed
    let t := (t.offerHeld (.miss (s.missRecord e r))).2
    ((t.requestNotice (.missed serial e.loaded.leg r)).setFlag .missed).settleTest

/-- A reply window starts (R110). -/
def State.startWindow (serial : Nat) (s : State) : State :=
  s.updEntry serial fun e => { e with window := some (s.sched.replyWin * 100) }

/-- A reply window stops or has ended. -/
def State.stopWindow (serial : Nat) (s : State) : State := s.updEntry serial fun e => { e with window := none }

/-- What the end of a transmission does to its meter (R109). -/
def State.transmissionEffect (t : Transmission) (s : State) : State :=
  if t.discarded ∨ t.heard then s
  else
    match s.entry? t.serial with
    | none => s
    | some e =>
      match t.purpose with
      | .sweep =>
        if e.st = .sending then
          if s.legIsOpen e.loaded.leg then (s.moveTo t.serial .await).startWindow t.serial
          else s.missMeter t.serial s.closedReason
        else s
      | .confirm =>
        if e.st = .verify ∧ s.candOf? t.serial = none ∧ s.legIsOpen e.loaded.leg then s.startWindow t.serial else s

/-- A transmission in progress ends: the lane becomes IDLE, the meter is acted on, the head is offered (R108). -/
def State.endTransmission (t : Transmission) (s : State) : State :=
  ((({ s with sched.tx := none } : State)).transmissionEffect t).offerLane

/-- The transmission in progress for a meter is marked heard (R109, R112). -/
def State.markHeard (serial : Nat) (s : State) : State :=
  { s with sched.tx := s.sched.tx.map fun t => if t.serial = serial ∧ t.discarded = false then { t with heard := true } else t }

/-- Number of transmissions a class allows a meter (R91, R102). -/
def State.attemptLimit (s : State) (e : Entry) : Nat := (s.classOf e).retries + 1

/-- The end of a sweep meter's reply window (R111). -/
def State.sweepWindowEnded (serial : Nat) (s : State) : State :=
  match s.entry? serial with
  | none => s
  | some e =>
    if e.st = .await ∧ e.window.isSome then
      let t := s.stopWindow serial
      if s.legIsOpen e.loaded.leg then
        if e.attempts < s.attemptLimit e then
          if s.sched.queued < 32 ∧ s.sched.sweeps.length < s.sched.budget then (t.joinSweep serial).offerLane
          else t.moveTo serial .pending
        else t.missMeter serial .retries
      else t.missMeter serial s.closedReason
    else s

end Sys2Proof.Machine
end

