-- ==== Sys2Proof/Machine/Outcome.lean ====
section
/-!
DEFINITION. What the outcome of a record does (R18, R72, R73, R86 to R89, R93, R94), the retry of the wait order
(R124) and the close of a candidate (R55, R56).
-/

namespace Sys2Proof.Machine

/-- The entry after its READING record was appended (R73), the reference status apart. -/
def Entry.takeReading (e : Entry) (r : ReadingRec) (minute : Nat) : Entry :=
  { e with prevReg := r.register, readingMinute := some minute, totalScore := r.total, lastSeq := some r.seq }

/-- The meter enters VERIFY (steps 1 to 4 of R87). -/
def State.enterVerify (serial : Nat) (r : ReadingRec) (d minute : Nat) (s : State) : State :=
  let t := s.updEntry serial fun e =>
    { e.takeReading r minute with attempts := 0, confirm := some ⟨r.conds &&& recheckable, r.status⟩ }
  ((t.moveTo serial .verify).requestNotice (.reading r d true)).requestNotice
    (.tamper serial .suspect r.conds r.total)

/-- A TAMPER notice is requested, and the TAMPER flag with FLAGGED and CONFIRMED (R85). -/
def State.tamperNotice (serial : Nat) (o : TamperOutcome) (conds : BitVec 8) (total : Nat) (s : State) : State :=
  let t := s.requestNotice (.tamper serial o conds total)
  if o = .flagged ∨ o = .confirmed then t.setFlag .tamper else t

/-- A confirmation ends with an outcome (R93, R94): the meter becomes READ and loses its confirmation part. -/
def State.endConfirmation (serial : Nat) (o : TamperOutcome) (conds : BitVec 8) (ref : Byte) (s : State) : State :=
  match s.entry? serial with
  | none => s
  | some e =>
    let t := s.updEntry serial fun e => { e with refStatus := ref, confirm := none, window := none }
    ((t.moveTo serial .read).tamperNotice serial o conds e.totalScore).settleTest

/-- A confirmation ends unanswered, for a meter in VERIFY with no confirming candidate occupied (R94); `forced` when
the end takes effect whatever the journal answers. -/
def State.endUnanswered (serial : Nat) (forced : Bool) (s : State) : State :=
  match s.entry? serial with
  | none => s
  | some e =>
    if e.st = .verify ∧ s.candOf? serial = none then
      let t := (({ s with sched.confirms := s.sched.confirms.erase serial } : State).stopWindow serial).markHeard serial
      match t.offerHeld (.confirm (s.unansweredRecord e)) with
      | (.refused, t) => if forced then t.endConfirmation serial .unconfirmed 0 e.firstStatus else t
      | (_, t) => t.endConfirmation serial .unconfirmed 0 e.firstStatus
    else s

/-- A READING record was appended (R18, R72, R73, R86 to R88). -/
def State.readingAppended (r : ReadingRec) (d : Nat) (flagged : Bool) (minute : Nat) (s : State) : State :=
  if r.suspect then
    let t := s.enterVerify r.serial r d minute
    if s.roster.phase = .closed then t.endUnanswered r.serial true
    else if s.legIsOpen r.leg then t.offerConfirm r.serial
    else t.endUnanswered r.serial false
  else
    let t := s.updEntry r.serial fun e => { e.takeReading r minute with refStatus := r.status }
    let t := (t.moveTo r.serial .read).requestNotice (.reading r d true)
    let t := if flagged then t.tamperNotice r.serial .flagged r.conds r.total else t
    t.settleTest

/-- A READING record was refused (R18, R72, R74, R89). The READING notice is requested before the meter is missed, an
order no rule gives (log 16). -/
def State.readingRefused (r : ReadingRec) (d : Nat) (s : State) : State :=
  if (s.leg r.leg).st = .passed then
    (s.requestNotice (.reading r d false)).missMeter r.serial s.closedReason
  else (s.moveTo r.serial .pending).requestNotice (.reading r d false)

/-- The outcome of a CONFIRM record of a confirming candidate (R93). -/
def State.confirmOutcome (r : ConfirmRec) (appended : Bool) (s : State) : State :=
  if appended ∨ s.roster.phase = .closed then s.endConfirmation r.serial r.outcome r.conds r.status else s

/-- The outcome of a record whose route was discarded (R17, R72, R86, R88, R93): no entry is moved. -/
def State.orphanOutcome (ev : Evaluated) (appended : Bool) (s : State) : State :=
  match ev with
  | .reading r d flagged _ =>
    let t := s.requestNotice (.reading r d appended)
    if appended ∧ flagged then t.tamperNotice r.serial .flagged r.conds r.total else t
  | .confirm r total => s.tamperNotice r.serial r.outcome r.conds total

/-- The outcome of a closed candidate's record, its slot free (R56). -/
def State.outcome (ev : Evaluated) (appended : Bool) (s : State) : State :=
  match ev with
  | .reading r d flagged minute =>
    if (s.entry? r.serial).isNone then s.orphanOutcome ev appended
    else if appended then s.readingAppended r d flagged minute
    else s.readingRefused r d
  | .confirm r _ => if (s.entry? r.serial).isNone then s.orphanOutcome ev appended else s.confirmOutcome r appended

/-- The journal controller reports the outcome of a record of the wait order to the block that offered it (R123,
R124). A record of the scheduler moves nothing more (R94, R113). -/
def State.report (w : WaitEntry) (appended : Bool) (s : State) : State :=
  match w with
  | .held _ => s
  | .moved ev => s.orphanOutcome ev appended
  | .slot serial =>
    match (s.candOf? serial).bind Candidate.evaluated with
    | none => s
    | some ev => (s.freeSlot serial).outcome ev appended

/-- The front of the wait order leaves it. -/
def State.popWait (s : State) : State := { s with journal.waits := s.journal.waits.tail }

/-- The wait order is retried from the front until a record must keep waiting (R124). Each report adds at most one
record, so twice the records that wait is fuel enough. -/
def State.retryWaits : Nat → State → State
  | 0, s => s
  | n + 1, s =>
    match s.journal.waits with
    | [] => s
    | w :: _ =>
      match s.waitRecord w with
      | none => s.popWait.retryWaits n
      | some r =>
        if s.journal.st ≠ .opened then ((s.popWait.refuseByState).report w false).retryWaits n
        else
          match s.journal.room r.bytes.length with
          | .noBuffer => s
          | .noSpace => ((s.popWait.refuseForSpace).report w false).retryWaits n
          | .fits => ((s.popWait.append r.bytes).report w true).retryWaits n

/-- The wait order is retried (R124). -/
def State.retry (s : State) : State := s.retryWaits (2 * s.journal.waits.length)

/-- A HOLDING candidate closes (R55): it is evaluated and its record offered (R56). -/
def State.closeCand (serial : Nat) (routeClosing : Bool) (s : State) : State :=
  match s.candOf? serial, s.entry? serial with
  | some c, some e =>
    if c.evaluated.isSome then s
    else
      let ev := s.evaluate e c routeClosing
      match s.offer ev.record (.slot serial) with
      | (.waiting, t) => t.updCand serial fun c => { c with evaluated := some ev, holdLeft := 0 }
      | (.appended, t) => (t.freeSlot serial).outcome ev true
      | (.refused, t) => (t.freeSlot serial).outcome ev false
  | _, _ => s

/-- The end of a confirm meter's reply window (R91, R95). -/
def State.confirmWindowEnded (serial : Nat) (s : State) : State :=
  match s.entry? serial with
  | none => s
  | some e =>
    if e.st = .verify ∧ e.window.isSome then
      let t := s.stopWindow serial
      if (s.candOf? serial).isSome then t
      else if e.attempts < s.attemptLimit e ∧ s.legIsOpen e.loaded.leg then t.offerConfirm serial
      else t.endUnanswered serial (decide (s.roster.phase = .closed))
    else s

end Sys2Proof.Machine
end

