-- ==== Sys2Proof/Machine/Intake.lean ====
section
/-!
DEFINITION. The receive lanes, the intake tests and the candidate pool: LANE_START, LANE_BYTE_RECEIVED,
LANE_RECORD_TAKEN and HOLD_EXPIRY (R25 to R58).
-/

namespace Sys2Proof.Machine

/-! ## Telegrams (R30; layout 11.4) -/

/-- The length test (R31). -/
def lengthTest (p : PartialRecord) : Bool :=
  let count := (p.count.getD 0).toNat
  let n := (byteAt p.bytes 12).toNat
  p.rssi.isSome && p.count.isSome && p.delivered == count && decide (15 ≤ count) && decide (count ≤ 27)
    && (byteAt p.bytes 0).toNat == count && decide (n ≤ 6) && 15 + 2 * n == count

/-- The check test (R32). -/
def checkTest (bytes : List Byte) : Bool :=
  (crc16 (bytes.take (bytes.length - 2))).toNat == le (bytes.drop (bytes.length - 2))

/-- The type test (R33). -/
def typeTest (bytes : List Byte) : Bool := byteAt bytes 1 == 0x31#8 || byteAt bytes 1 == 0x32#8

/-- The RSSI that a partial record was delivered with, decoded (R26). -/
def PartialRecord.dbm (p : PartialRecord) : Int := rssiOf (p.rssi.getD 0)

/-- The copy that a telegram is (R37). -/
def copyOf (bytes : List Byte) (rssi : Int) (lane : Fin 4) (stamp : BitVec 32) : Copy :=
  { serial := field bytes 2 4, register := field bytes 6 4, status := byteAt bytes 10, seq := byteAt bytes 11,
    answer := byteAt bytes 1 == 0x32#8,
    intervals := (List.range (byteAt bytes 12).toNat).map fun i => field bytes (13 + 2 * i) 2,
    rssi := rssi, lane := lane, stamp := stamp }

/-! ## The candidate pool -/

/-- The lane as a set of one lane. -/
def laneBit (l : Fin 4) : BitVec 4 := BitVec.twoPow 4 l.val

/-- A candidate on its opening copy (R48, R52, R54). -/
def openedCandidate (c : Copy) (late : Bool) (holdTime : Nat) : Candidate :=
  { serial := c.serial, best := c, copies := 1, lanes := laneBit c.lane, woken := c.answer, late := late,
    disagreements := 0, opened := c.stamp, holdLeft := holdTime * 10, evaluated := none }

/-- A further copy taken into a HOLDING candidate (R50, R51, R52): newer, or of the same transmission. -/
def Candidate.join (k : Candidate) (c : Copy) : Candidate :=
  let same := c.seq = k.best.seq
  { k with
    best := if same ∧ ¬ k.best.rssi < c.rssi then k.best else c,
    copies := min (k.copies + 1) 255,
    lanes := k.lanes ||| laneBit c.lane,
    woken := k.woken || c.answer,
    disagreements :=
      if same ∧ c.register ≠ k.best.register then min (k.disagreements + 1) 255 else k.disagreements }

/-- Whether a copy is stale: of an older transmission than the best copy's (R50). -/
def Candidate.isStale (k : Candidate) (c : Copy) : Bool := decide (128 ≤ (c.seq - k.best.seq).toNat)

/-- One more on a lane counter. -/
def State.countLane (i : Fin 4) (f : LaneCounters → LaneCounters) (s : State) : State :=
  s.updLane i fun l => { l with counters := f l.counters }

/-- Stale copies (R39). -/
def LaneCounters.incStale (c : LaneCounters) : LaneCounters := { c with stale := satInc c.stale }
/-- Repeats (R39). -/
def LaneCounters.incRepeat (c : LaneCounters) : LaneCounters := { c with repeated := satInc c.repeated }
/-- Records taken (R39). -/
def LaneCounters.incTaken (c : LaneCounters) : LaneCounters := { c with taken := satInc c.taken }
/-- Check failures (R39). -/
def LaneCounters.incCheck (c : LaneCounters) : LaneCounters := { c with checkFail := satInc c.checkFail }
/-- Records below the floor (R39). -/
def LaneCounters.incFloor (c : LaneCounters) : LaneCounters := { c with belowFloor := satInc c.belowFloor }
/-- Foreign records (R39). -/
def LaneCounters.incForeign (c : LaneCounters) : LaneCounters := { c with foreign := satInc c.foreign }
/-- Unsupported types (R39). -/
def LaneCounters.incType (c : LaneCounters) : LaneCounters := { c with unsupported := satInc c.unsupported }

/-- A copy opens a candidate in a FREE slot (R48), and the wake path is acted on (R112). -/
def State.openCand (c : Copy) (s : State) : State :=
  match s.entry? c.serial with
  | none => s
  | some e =>
    let late := e.st == .missed || (s.leg e.loaded.leg).st == .passed
    let t : State := { s with pool.cands := s.pool.cands ++ [openedCandidate c late s.pool.holdTime] }
    let t := if e.st = .verify then t else t.moveTo c.serial .heard
    ((t.markHeard c.serial).stopWindow c.serial).dropRequest c.serial

/-- The oldest-opened HOLDING candidate (R49). -/
def Pool.oldestHolding (p : Pool) : Option Candidate := p.cands.find? fun c => c.evaluated.isNone

/-- A copy is to open a candidate: in a FREE slot, or after a forced close when none is FREE (R48, R49). -/
def State.admitCopy (c : Copy) (s : State) : State :=
  if s.pool.cands.length < 64 then s.openCand c
  else
    match s.pool.oldestHolding with
    | none => s
    | some old =>
      let t := (s.countForcedClose).closeCand old.serial false
      if t.pool.cands.length < 64 then t.openCand c else t

/-- Whether a copy is a late copy of the first reading of a VERIFY meter (R47). -/
def Entry.isLateCopy (e : Entry) (c : Copy) : Bool := e.st == .verify && e.lastSeq == some c.seq

/-- A copy reaches the pool (R45): the register test (R46), then the late-copy test and opening, or the sequence
comparison; a copy of a CLOSED candidate is dropped. -/
def State.takeCopy (e : Entry) (c : Copy) (s : State) : State :=
  match s.candOf? c.serial with
  | none =>
    if (s.classOf e).modulus ≤ c.register then s.countOutOfRange
    else if e.isLateCopy c then s.countLane c.lane LaneCounters.incRepeat
    else s.admitCopy c
  | some k =>
    if k.evaluated.isSome then s
    else if (s.classOf e).modulus ≤ c.register then s.countOutOfRange
    else if k.isStale c then s.countLane c.lane LaneCounters.incStale
    else s.updCand c.serial fun k => k.join c

/-! ## The intake tests and the lookup -/

/-- A record whose serial is not found, or that comes in a phase without lookup (R36, R38). -/
def State.foreignRecord (c : Copy) (s : State) : State :=
  let t := s.countLane c.lane LaneCounters.incForeign
  if s.intake.forwarding then t.requestNotice (.foreign c.serial c.lane c.rssi) else t

/-- The roster lookup decides the record's fate (R35, R36). -/
def State.lookupRecord (c : Copy) (s : State) : State :=
  if s.roster.phase ≠ .active then s.foreignRecord c
  else
    match s.entry? c.serial with
    | none => s.foreignRecord c
    | some e =>
      match e.st with
      | .excluded => s.countLane c.lane LaneCounters.incForeign
      | .read => s.countLane c.lane LaneCounters.incRepeat
      | _ => s.takeCopy e c

/-- The four intake tests in order (R31 to R34), then the lookup. -/
def State.intakeTests (i : Fin 4) (p : PartialRecord) (s : State) : State :=
  if !lengthTest p then s.countLane i LaneCounters.incCheck
  else if !checkTest p.bytes then s.countLane i LaneCounters.incCheck
  else if !typeTest p.bytes then s.countLane i LaneCounters.incType
  else if p.dbm < s.intake.lanes[i].floor then s.countLane i LaneCounters.incFloor
  else s.lookupRecord (copyOf p.bytes p.dbm i s.runClock)

/-! ## The events of a lane -/

/-- A partial record just begun (R25). -/
def PartialRecord.begun : PartialRecord := ⟨none, none, [], 0⟩

/-- One delivered byte added to a partial record: the RSSI, then the byte count, then the telegram (R25). -/
def PartialRecord.push (p : PartialRecord) (b : Byte) : PartialRecord :=
  match p.rssi, p.count with
  | none, _ => { p with rssi := some b }
  | some _, none => { p with count := some b }
  | some _, some _ =>
    { p with bytes := if p.bytes.length < 27 then p.bytes ++ [b] else p.bytes, delivered := min (p.delivered + 1) 255 }

/-- A start on a lane (R25). -/
def State.laneStarts (i : Fin 4) (s : State) : State :=
  match s.intake.lanes[i].st with
  | .disabled => s
  | .idle => s.updLane i fun l => { l with st := .receiving .begun }
  | .receiving _ => s.updLane i fun l => { l with st := .receiving .begun, counters := l.counters.incCheck }

/-- A byte on a lane (R25). -/
def State.laneByte (i : Fin 4) (b : Byte) (s : State) : State :=
  match s.intake.lanes[i].st with
  | .receiving p => s.updLane i fun l => { l with st := .receiving (p.push b) }
  | _ => s

/-- An end on a lane: the record of a RECEIVING lane is taken, counted and tested (R25, R27). -/
def State.laneEnds (i : Fin 4) (s : State) : State :=
  match s.intake.lanes[i].st with
  | .receiving p =>
    (s.updLane i fun l => { l with st := .idle, counters := l.counters.incTaken }).intakeTests i p
  | _ => s

/-- LANE_START (R25). -/
def execLaneStart (i : Fin 4) (s : State) : Host.Outcome State Fault Refusal := event (State.laneStarts i) s

/-- LANE_BYTE_RECEIVED (R25). -/
def execLaneByteReceived (i : Fin 4) (b : Byte) (s : State) : Host.Outcome State Fault Refusal :=
  event (State.laneByte i b) s

/-- LANE_RECORD_TAKEN (R27). -/
def execLaneRecordTaken (i : Fin 4) (s : State) : Host.Outcome State Fault Refusal := event (State.laneEnds i) s

/-- HOLD_EXPIRY: the meter's HOLDING candidate closes (R54, R55); there is none otherwise to expire (log 3). -/
def execHoldExpiry (serial : Nat) (s : State) : Host.Outcome State Fault Refusal :=
  event (State.closeCand serial false) s

end Sys2Proof.Machine
end

