-- ==== Sys2Proof/Machine/Upload.lean ====
section
/-!
DEFINITION. The upload engine (R152 to R164): the choice of a batch, heads, the ends of its reads, stalls and the
acknowledgement timer. Frames taken by the arbiter stand in Ops.lean.
-/

namespace Sys2Proof.Machine

/-- The batch of a mark program, by the operation (R155). -/
def FlashReq.marking : FlashReq → Option (Nat × BatchInfo)
  | .mark slot b => some (slot, b)
  | _ => none

/-- The mark program that runs or waits at the port (R155). -/
def State.markInHand (s : State) : Option (Nat × BatchInfo) :=
  (s.flash.port.bind FlashReq.marking) <|> (s.flash.waiting.findSome? FlashReq.marking)

/-- The engine asks for an index slot (R153). -/
def State.requestSlot (s : State) : State := s.requestFlash (.read (.uploadSlot false) s.upload.slot 16)

/-- The engine goes to DONE and UPLOAD_DONE is set (R155). -/
def State.uploadDone (s : State) : State := ({ s with upload.st := .done } : State).setFlag .uploadDone

/-- The engine chooses its next batch (R155). While it waits for a seal it holds no current batch, and the mismatch count
stays that of the batch before (log 32). -/
def State.chooseBatch (s : State) : State :=
  match s.markInHand with
  | some (slot, b) => { s with upload.st := .sending, upload.stage := .marking, upload.batch := some b, upload.slot := slot }
  | none =>
    if s.journal.delivered < s.journal.total then
      ({ s with upload.st := .sending, upload.stage := .streaming, upload.mismatches := 0,
                upload.slot := s.journal.pointer } : State).requestSlot
    else if s.journal.seals ≠ [] then
      { s with upload.st := .sending, upload.stage := .waitingSeal, upload.batch := none }
    else s.uploadDone

/-- The engine chooses again when it waits for a seal and a batch joins, or the seal list is emptied (R155). -/
def State.sealsChanged (s : State) : State :=
  if s.upload.st = .sending ∧ s.upload.stage = .waitingSeal then s.chooseBatch else s

/-- The BATCH HEAD of the current batch becomes the ready frame (R156). -/
def State.buildHead (b : BatchInfo) (s : State) : State :=
  { s with upload.batch := some b, upload.sendOffset := 0, upload.runCrc := 0xFFFF, upload.tailCrc := none,
           upload.tailOut := false, upload.ready := some (.head b) }

/-- The engine stalls (R159, R161, R162, R163). What it knows of the current batch stays held, after a failed read too
(R152; log 31). -/
def State.stallUpload (why : StallReason) (s : State) : State :=
  ({ s with upload.st := .stalled, upload.stall := some why, upload.ready := none, upload.tailOut := false,
            upload.ackLeft := 0 } : State).setFlag .uploadStalled

/-- Whether the engine is streaming (R152). -/
def State.streaming (s : State) : Bool := s.upload.st == .sending && s.upload.stage == .streaming

/-- A read of an index slot ended good (R153, R155). -/
def State.slotRead (s : State) : State :=
  match parseIndex (Memory.readN s.flash.store s.upload.slot 16) with
  | some b => s.buildHead b
  | none => ({ s with upload.slot := s.upload.slot - 16 } : State).requestSlot

/-- UPLOAD_SLOT_READ_END on the operation in progress. -/
def State.uploadSlotEnded (s : State) : State :=
  match s.flash.port with
  | some (.read (.uploadSlot orphan) _ _) =>
    if orphan = false ∧ s.streaming then s.freePort.slotRead else s.freePort
  | _ => s

/-- A read of batch data ended good (R157). -/
def State.dataRead (off len : Nat) (s : State) : State :=
  match s.upload.batch with
  | none => s
  | some b =>
    let bs := Memory.readN s.flash.store off len
    { s with upload.runCrc := crcMore s.upload.runCrc bs,
             upload.ready := some (.data b.number s.upload.sendOffset bs),
             upload.sendOffset := s.upload.sendOffset + len }

/-- Whether the engine takes the data read in progress. -/
def State.takesData (s : State) : Bool :=
  match s.flash.port with
  | some (.read (.uploadData orphan) _ _) => !orphan && s.streaming
  | _ => false

/-- UPLOAD_DATA_READ_END on the operation in progress. -/
def State.uploadDataEnded (s : State) : State :=
  match s.flash.port with
  | some (.read (.uploadData _) off len) => if s.takesData then s.freePort.dataRead off len else s.freePort
  | _ => s

/-- Whether the data read in progress lies outside the store (log 18). -/
def State.dataOutside (s : State) : Bool :=
  match s.flash.port with
  | some (.read (.uploadData _) off len) => s.takesData && decide (s.journal.size < off + len)
  | _ => false

/-- UPLOAD_READ_FAILURE on the operation in progress (R159). -/
def State.uploadReadFailed (s : State) : State :=
  match s.flash.port with
  | some (.read (.uploadSlot orphan) _ _) =>
    if orphan = false ∧ s.streaming then s.freePort.stallUpload .readFailure else s.freePort
  | some (.read (.uploadData orphan) _ _) =>
    if orphan = false ∧ s.streaming then s.freePort.stallUpload .readFailure else s.freePort
  | _ => s

/-- The acknowledgement timer expires (R163). -/
def State.ackExpired (s : State) : State := if s.upload.st = .awaitAck then s.stallUpload .timeout else s

/-- The tail's last byte has been sent (R158). -/
def State.tailSent (s : State) : State :=
  if s.upload.tailOut ∧ s.streaming then
    { s with upload.st := .awaitAck, upload.ackLeft := 20000, upload.tailOut := false }
  else s

/-- An upload read of the former engine is orphaned (R164). -/
def FlashReq.orphan : FlashReq → FlashReq
  | .read (.uploadSlot _) off len => .read (.uploadSlot true) off len
  | .read (.uploadData _) off len => .read (.uploadData true) off len
  | r => r

/-- UPLOAD STOP's effect (R164). -/
def State.stopUpload (s : State) : State :=
  { s with upload := .idle, flash.port := s.flash.port.map FlashReq.orphan,
           flash.waiting := s.flash.waiting.map FlashReq.orphan }

/-- UPLOAD_SLOT_READ_END (R153). -/
def execUploadSlotReadEnd (s : State) : Host.Outcome State Fault Refusal := event State.uploadSlotEnded s

/-- UPLOAD_DATA_READ_END (R157); a read outside the store faults (log 18). -/
def execUploadDataReadEnd (s : State) : Host.Outcome State Fault Refusal :=
  if !s.asserted && s.dataOutside then .fault .storeRange else event State.uploadDataEnded s

/-- UPLOAD_READ_FAILURE (R159). -/
def execUploadReadFailure (s : State) : Host.Outcome State Fault Refusal := event State.uploadReadFailed s

/-- ACK_TIMER_EXPIRY (R163). -/
def execAckTimerExpiry (s : State) : Host.Outcome State Fault Refusal := event State.ackExpired s

end Sys2Proof.Machine
end

