-- ==== Sys2Proof/Machine/FlashEvents.lean ====
section
/-!
DEFINITION. The ends of programs and erases at the flash port: PAGE_PROGRAM_END, INDEX_PROGRAM_END, PROGRAM_FAILURE,
MARK_PROGRAM_END and SECTOR_ERASE_END (R126, R129, R130, R134, R138, R162). The recovery scan's index programs stand
in Recovery.lean.
-/

namespace Sys2Proof.Machine

/-- What a good program or erase leaves in the store. -/
def FlashReq.goodEffect (r : FlashReq) (m : List Host.Cell) : List Host.Cell :=
  match r with
  | .page off bs => Memory.program m off bs
  | .index off bs => Memory.program m off bs
  | .recoveryIndex off bs => Memory.program m off bs
  | .mark slot _ => Memory.overlay m (slot + 15) [0#8]
  | .erase k => Memory.eraseSector m k
  | .read _ _ _ => m
  | .identify => m

/-- The first byte and the number of bytes a program or erase covers (R131). -/
def FlashReq.span : FlashReq → Nat × Nat
  | .page off bs => (off, bs.length)
  | .index off bs => (off, bs.length)
  | .recoveryIndex off bs => (off, bs.length)
  | .mark slot _ => (slot + 15, 1)
  | .erase k => (k * 65536, 65536)
  | .read _ _ _ => (0, 0)
  | .identify => (0, 0)

/-- What an operation leaves in the store by the way it ended (log 9). -/
def FlashReq.effect (r : FlashReq) (e : FlashEnd) (m : List Host.Cell) : List Host.Cell :=
  match e with
  | .good => r.goodEffect m
  | .failed left => Memory.overlay m r.span.1 (left.take r.span.2)

/-- The operation ends: the port is free and the store holds what it left. -/
def State.endOp (r : FlashReq) (e : FlashEnd) (s : State) : State :=
  { s.freePort with flash.store := r.effect e s.flash.store }

/-- A page program ended good (R126): the bytes leave the buffer and the wait order is retried. -/
def State.pageProgrammed (n : Nat) (s : State) : State :=
  ({ s with journal.progEnd := s.journal.progEnd + n,
            journal.buffer := dropHeld n s.journal.buffer } : State).retry

/-- PAGE_PROGRAM_END on the operation in progress; any other completion is ignored (R127; log 3). -/
def State.pageEnded (s : State) : State :=
  match s.flash.port with
  | some (.page off bs) => (s.endOp (.page off bs) .good).pageProgrammed bs.length
  | _ => s

/-- The front sealed batch becomes one of the journal's batches (R129). -/
def State.batchJoins (s : State) : State :=
  match s.journal.seals with
  | [] => s
  | b :: rest =>
    ({ s with journal.seals := rest, journal.total := s.journal.total + 1,
              journal.newestEnd := b.first + b.length } : State).sealsChanged

/-- INDEX_PROGRAM_END on the operation in progress. -/
def State.indexEnded (s : State) : State :=
  match s.flash.port with
  | some (.index off bs) => (s.endOp (.index off bs) .good).batchJoins
  | _ => s

/-- Whether a request at the port belongs to what a fault abandons (R130). -/
def FlashReq.abandoned : FlashReq → Bool
  | .page _ _ => true
  | .index _ _ => true
  | _ => false

/-- The index start after a fault: the lowest slot whose index program was issued (R130). -/
def Journal.faultStart (j : Journal) (indexIssued : Bool) : Nat :=
  match j.seals with
  | [] => j.indexStart
  | b :: _ => if indexIssued then b.slot else b.slot + 16

/-- Steps 2 to 5 of R130 from OPEN or FULL. -/
def State.dropForFault (indexIssued : Bool) (s : State) : State :=
  let t := s.countRefusals s.journal.buffer.length
  { t with journal.st := .fault, journal.buffer := [], journal.recordEnd := s.journal.progEnd,
           journal.indexStart := s.journal.faultStart indexIssued, journal.seals := [], journal.openBatch := none,
           flash.waiting := s.flash.waiting.filter fun r => !r.abandoned }

/-- A program of the run failed at an offset (R130). -/
def State.journalFault (off : Nat) (indexIssued : Bool) (s : State) : State :=
  let t := (s.setFlag .journalFault).captureFault off
  if s.journal.st = .opened ∨ s.journal.st = .full then ((t.dropForFault indexIssued).retry).sealsChanged else t

/-- A mark program ended good (R134, R162). -/
def State.markGood (slot : Nat) (s : State) : State :=
  let t : State := { s with journal.delivered := s.journal.delivered + 1, journal.pointer := slot - 16 }
  if t.upload.st = .sending ∧ t.upload.stage = .marking then t.chooseBatch else t

/-- A mark program ended failed (R130, R162). -/
def State.markFailed (slot : Nat) (s : State) : State :=
  let t := s.journalFault (slot + 15) false
  if t.upload.st = .sending ∧ t.upload.stage = .marking then t.stallUpload .markFailure else t

/-- MARK_PROGRAM_END on the operation in progress. -/
def State.markEnded (e : FlashEnd) (s : State) : State :=
  match s.flash.port with
  | some (.mark slot b) =>
    match e with
    | .good => (s.endOp (.mark slot b) .good).markGood slot
    | .failed left => (s.endOp (.mark slot b) (.failed left)).markFailed slot
  | _ => s

/-- PROGRAM_FAILURE of a page, index or mark program of the run. -/
def State.programFailed (left : List Byte) (s : State) : State :=
  match s.flash.port with
  | some (.page off bs) => (s.endOp (.page off bs) (.failed left)).journalFault off false
  | some (.index off bs) => (s.endOp (.index off bs) (.failed left)).journalFault off true
  | some (.mark slot b) => (s.endOp (.mark slot b) (.failed left)).markFailed slot
  | _ => s

/-! ## The journal erase (R138) -/

/-- The sectors that JOURNAL CLEAR erases, in order (R138). -/
def Journal.clearSectors (j : Journal) : List Nat :=
  let low :=
    if j.st = .fault ∧ j.recordEnd < j.indexStart then List.range (j.recordEnd / 65536 + 1)
    else if j.recordEnd = 0 then [] else List.range ((j.recordEnd - 1) / 65536 + 1)
  let high := (List.range (j.size / 65536)).filter fun k => decide (j.indexStart / 65536 ≤ k)
  low ++ (if j.indexStart = j.size then [] else high.filter fun k => !low.contains k)

/-- The clear ends good (R138, R153). -/
def State.clearDone (s : State) : State :=
  { s with journal.recordEnd := 0, journal.progEnd := 0, journal.indexStart := s.journal.size, journal.total := 0,
           journal.delivered := 0, journal.newestEnd := 0, journal.nextBatch := 1,
           journal.pointer := s.journal.size - 16, journal.st := .opened, journal.lastResult := .good,
           journal.erasing := [] }

/-- The next erase is requested, or with none left the clear ends good. -/
def State.nextErase (s : State) : State :=
  match s.journal.erasing with
  | [] => s.clearDone
  | k :: _ => s.requestFlash (.erase k)

/-- The clear ends with a failed erase (R138). -/
def State.clearFailed (k : Nat) (s : State) : State :=
  ({ ((s.setFlag .operationFailed).setFlag .journalFault).captureFault (k * 65536) with
      journal.st := .fault, journal.erasing := [], journal.lastResult := .eraseFailure } : State)

/-- SECTOR_ERASE_END on the operation in progress. -/
def State.eraseEnded (e : FlashEnd) (s : State) : State :=
  match s.flash.port with
  | some (.erase k) =>
    match e with
    | .good =>
      ({ s.endOp (.erase k) .good with journal.erasing := s.journal.erasing.tail } : State).nextErase
    | .failed left => (s.endOp (.erase k) (.failed left)).clearFailed k
  | _ => s

/-- PAGE_PROGRAM_END (R126). -/
def execPageProgramEnd (s : State) : Host.Outcome State Fault Refusal := event State.pageEnded s

/-- INDEX_PROGRAM_END (R129). -/
def execIndexProgramEnd (s : State) : Host.Outcome State Fault Refusal := event State.indexEnded s

/-- MARK_PROGRAM_END (R162). -/
def execMarkProgramEnd (e : FlashEnd) (s : State) : Host.Outcome State Fault Refusal := event (State.markEnded e) s

/-- SECTOR_ERASE_END (R138). -/
def execSectorEraseEnd (e : FlashEnd) (s : State) : Host.Outcome State Fault Refusal := event (State.eraseEnded e) s

end Sys2Proof.Machine
end

