-- ==== Sys2Proof/Machine/Operands.lean ====
section
/-!
DEFINITION. The operand forms: what a command body must be (step 5 of R169) and what it says. A body out of range is
`none`, which the command answers with PARAM.
-/

namespace Sys2Proof.Machine

/-- The settings of a RADIO SET body (R174); `floors` in ascending lane order of the lanes enabled. -/
structure RadioSettings where
  mask : BitVec 4
  hold : Nat
  wakeDur : Nat
  replyWin : Nat
  capacity : Nat
  refill : Nat
  forwarding : Bool
  floors : List Byte
  deriving DecidableEq, Repr

/-- How many of the first `n` lanes a mask enables. -/
def lanesBelow (mask : BitVec 4) (n : Nat) : Nat := (List.range n).countP fun i => mask.getLsbD i

/-- A RADIO SET body (R174, R28, R29, R53, R106). -/
def parseRadio (b : List Byte) : Option RadioSettings :=
  if b.length < 8 ∨ 16 ≤ (byteAt b 0).toNat ∨ byteAt b 1 = 0
      ∨ ¬ (5 ≤ field b 2 1 ∧ field b 2 1 ≤ 250) ∨ ¬ (1 ≤ field b 3 1 ∧ field b 3 1 ≤ 50)
      ∨ ¬ (1000 ≤ field b 4 2 ∧ field b 4 2 ≤ 60000) ∨ ¬ (1 ≤ field b 6 1 ∧ field b 6 1 ≤ 100)
      ∨ 2 ≤ (byteAt b 7).toNat
      ∨ b.length ≠ 8 + lanesBelow ((byteAt b 0).setWidth 4) 4
      ∨ ¬ (b.drop 8).all (fun f => 0x74 ≤ f.toNat && f.toNat ≤ 0xEC) then none
  else some
    { mask := (byteAt b 0).setWidth 4, hold := field b 1 1, wakeDur := field b 2 1, replyWin := field b 3 1,
      capacity := field b 4 2, refill := field b 6 1, forwarding := byteAt b 7 == 1#8, floors := b.drop 8 }

/-- A set of flags (R176, R177): two bytes with the three spare positions clear. -/
def parseFlags (b : List Byte) : Option (BitVec 13) :=
  if b.length = 2 ∧ le b < 8192 then some (BitVec.ofNat 13 (le b)) else none

/-- A single byte (COUNTERS READ, LEG OPEN, LEG CLOSE, LEG STATUS). -/
def parseByte : List Byte → Option Byte
  | [b] => some b
  | _ => none

/-- One class set of 28 bytes (R1, R2): the class index and the class it writes. -/
def parseClassSet (b : List Byte) : Option (Fin 16 × ClassRec) :=
  let digits := field b 1 1
  if h : (byteAt b 0).toNat < 16 then
    if (1 ≤ digits ∧ digits ≤ 3) ∨ 9 < digits ∨ (digits ≠ 0 ∧ field b 2 2 = 0) ∨ 1048575 < field b 9 3
        ∨ 6 < field b 12 1 ∨ field b 13 2 = 0 ∨ ¬ ((b.drop 17).take 8).all (fun w => w.toNat ≤ 15)
        ∨ 3 < field b 26 1 ∨ 1 < field b 27 1 then none
    else if digits = 0 then some (⟨(byteAt b 0).toNat, h⟩, .unset)
    else some (⟨(byteAt b 0).toNat, h⟩,
      { digits := digits, mult := field b 2 2, tol := field b 4 1, rateLimit := field b 5 4,
        stopMinutes := field b 9 3, leakHours := field b 12 1, leakFloor := field b 13 2, watch := byteAt b 15,
        alarm := byteAt b 16, weights := Vector.ofFn fun i => field b (17 + i.val) 1, threshold := field b 25 1,
        retries := field b 26 1, confirm := byteAt b 27 == 1#8 })
  else none

/-- The groups of a body that is a run of one or more sets of `n` bytes. -/
def parseGroups (n : Nat) (b : List Byte) : Option (List (List Byte)) :=
  if b = [] ∨ b.length % n ≠ 0 then none else some (groups n (b.length / n) b)

/-- A CLASS WRITE body (R2). -/
def parseClassWrite (b : List Byte) : Option (List (Fin 16 × ClassRec)) :=
  (parseGroups 28 b).bind fun gs => gs.mapM parseClassSet

/-- A LEG WRITE body (R4): leg, pass code, poll budget. -/
def parseLegWrite (b : List Byte) : Option (List (Byte × Byte × Byte)) :=
  (parseGroups 3 b).map fun gs => gs.map fun g => (byteAt g 0, byteAt g 1, byteAt g 2)

/-- A ROSTER BEGIN body (R8): route identifier and announced count. -/
def parseBegin (b : List Byte) : Option (Nat × Nat) :=
  if b.length = 6 ∧ 1 ≤ field b 4 2 ∧ field b 4 2 ≤ 4096 then some (field b 0 4, field b 4 2) else none

/-- The attribute set of a byte whose spare bits are clear (R185). -/
def parseAttrs (b : Byte) : Option Attrs :=
  if b.toNat < 8 then some { wake := b.getLsbD 0, wakeAllowed := b.getLsbD 1, excluded := b.getLsbD 2 } else none

/-- One entry set of 16 bytes, checked against the class table (R5). -/
def parseEntry (classes : Vector ClassRec 16) (b : List Byte) : Option Loaded :=
  let cls : BitVec 4 := (byteAt b 5).setWidth 4
  let c := classes[cls.toNat]
  if 1 ≤ field b 0 4 ∧ field b 0 4 ≤ 0xFFFFFFFE ∧ field b 4 1 ≤ 254 ∧ (byteAt b 5).toNat < 16 ∧ c.digits ≠ 0
      ∧ field b 6 4 < 10 ^ c.digits ∧ field b 10 3 ≤ 1048575 then
    (parseAttrs (byteAt b 15)).map fun a =>
      { serial := field b 0 4, leg := byteAt b 4, cls := cls, prevReg := field b 6 4, prevAge := field b 10 3,
        refStatus := byteAt b 13, carried := field b 14 1, attrs := a }
  else none

/-- A ROSTER LOAD body (R9). -/
def parseLoad (classes : Vector ClassRec 16) (b : List Byte) : Option (List Loaded) :=
  (parseGroups 16 b).bind fun gs => gs.mapM (parseEntry classes)

/-- The modes of ROSTER EDIT (R22). -/
inductive EditMode where
  | write
  | set
  | clear
  deriving DecidableEq, Repr

/-- A ROSTER EDIT mode byte (R185). -/
def parseMode (b : Byte) : Option EditMode :=
  if b = 1 then some .write else if b = 2 then some .set else if b = 3 then some .clear else none

/-- A ROSTER EDIT body (R22): the mode, and serial and attributes of each set. -/
def parseEdit (b : List Byte) : Option (EditMode × List (Nat × Attrs)) :=
  match b with
  | [] => none
  | m :: rest =>
    (parseMode m).bind fun mode =>
      (parseGroups 5 rest).bind fun gs =>
        (gs.mapM fun g => (parseAttrs (byteAt g 4)).map fun a => (field g 0 4, a)).map fun sets => (mode, sets)

/-- The attribute set that an edit gives (R22). -/
def EditMode.apply (m : EditMode) (old new : Attrs) : Attrs :=
  match m with
  | .write => new
  | .set => ⟨old.wake || new.wake, old.wakeAllowed || new.wakeAllowed, old.excluded || new.excluded⟩
  | .clear => ⟨old.wake && !new.wake, old.wakeAllowed && !new.wakeAllowed, old.excluded && !new.excluded⟩

/-- A serial (ROSTER QUERY, R24). -/
def parseSerial (b : List Byte) : Option Nat := if b.length = 4 then some (le b) else none

/-- A position on the missed chain (R20). -/
def parsePosition (b : List Byte) : Option Nat := if b.length = 2 ∧ le b ≤ 4095 then some (le b) else none

/-- A leg that may be opened (R98). -/
def parseOpenLeg (b : List Byte) : Option Byte := (parseByte b).filter fun l => l ≠ 255#8

/-- The clear option of COUNTERS READ (R180). -/
def parseClearOption (b : List Byte) : Option Bool :=
  match b with
  | [x] => if x = 0 then some false else if x = 1 then some true else none
  | _ => none

/-- A BATCH RECEIVED body (R160): batch number and CRC. -/
def parseAck (b : List Byte) : Option (Nat × Word16) :=
  if b.length = 4 then some (field b 0 2, BitVec.ofNat 16 (field b 2 2)) else none

end Sys2Proof.Machine
end

