-- ==== Sys2Proof/Machine/RosterCommands.lean ====
section
/-!
DEFINITION. The effects of the roster's commands (R2, R4, R8 to R10, R17, R20, R22 to R24): the checks from step 5 of
R169 on, the effect and the reply's own data. The checks before stand in Commands.lean.
-/

namespace Sys2Proof.Machine

/-- What carrying out a command gives: the outcome, the reply's own data, and the part after it (R169, R170). -/
abbrev Effect := ReplyCode × List Byte × State

/-- A refused command has no effect and no data (R169, R170). -/
def refuse (o : ReplyCode) (s : State) : Effect := (o, [], s)

/-! ## Tables -/

/-- CLASS WRITE (R2): the sets are applied in body order. -/
def State.doClassWrite (b : List Byte) (s : State) : Effect :=
  match parseClassWrite b with
  | none => refuse .param s
  | some sets =>
    (.done, [], { s with roster.classes := sets.foldl (fun t w => t.set w.1.val w.2 w.1.isLt) s.roster.classes })

/-- LEG WRITE (R4): pass code and budget of each set, state and counts untouched. -/
def State.doLegWrite (b : List Byte) (s : State) : Effect :=
  match parseLegWrite b with
  | none => refuse .param s
  | some sets =>
    (.done, [], sets.foldl (fun t w => t.updLeg w.1 fun l => { l with passCode := w.2.1, budget := w.2.2 }) s)

/-! ## Loading -/

/-- ROSTER BEGIN (R8). -/
def State.doRosterBegin (b : List Byte) (s : State) : Effect :=
  match parseBegin b with
  | none => refuse .param s
  | some (route, count) =>
    (.done, [], { s.clearLegs with roster.routeId := some route, roster.announced := count, roster.staging := [],
                                   roster.phase := .loading })

/-- Whether serials ascend strictly, from above a given one (R9, ORDER). -/
def ascendingFrom : Nat → List Loaded → Bool
  | _, [] => true
  | n, l :: ls => decide (n < l.serial) && ascendingFrom l.serial ls

/-- The serial of the last entry loaded, 0 when there is none: every serial is above it. -/
def lastSerial (es : List Loaded) : Nat :=
  match es.getLast? with
  | some l => l.serial
  | none => 0

/-- ROSTER LOAD (R9). -/
def State.doRosterLoad (b : List Byte) (s : State) : Effect :=
  match parseLoad s.roster.classes b with
  | none => refuse .param s
  | some sets =>
    if !ascendingFrom (lastSerial s.roster.staging) sets then refuse .order s
    else if s.roster.announced < s.roster.staging.length + sets.length then refuse .full s
    else
      (.done, toLE 2 (s.roster.staging.length + sets.length),
       { s with roster.staging := s.roster.staging ++ sets })

/-- A loaded entry with its live part before any record is applied (R6). -/
def Loaded.fresh (l : Loaded) : Entry :=
  { loaded := l, st := if l.attrs.excluded then .excluded else .pending, attempts := 0, totalScore := l.carried,
    prevReg := l.prevReg, refStatus := l.refStatus, attrs := l.attrs, readingMinute := none, lastSeq := none,
    window := none, confirm := none }

/-- Whether an upload is SENDING or AWAIT_ACK (R10, R137, R154). -/
def State.uploadBusy (s : State) : Bool := s.upload.st == .sending || s.upload.st == .awaitAck

/-- The commit rebuild scan before it has begun (R11). -/
def Rebuild.asked : Rebuild :=
  { stage := .waiting, batches := 0, openSpan := none, slot := 0, visited := 0, lastNumber := 0 }

/-- ROSTER COMMIT (R10). -/
def State.doRosterCommit (b : List Byte) (s : State) : Effect :=
  if s.uploadBusy then refuse .notNow s
  else if b ≠ [] then refuse .param s
  else if s.roster.staging.length < s.roster.announced then refuse .incomplete s
  else
    (.done, [],
     { s with roster.phase := .committing, roster.entries := s.roster.staging.map Loaded.fresh, roster.staging := [],
              roster.legs := s.roster.legs.map fun l => { l with counts := .zero },
              roster.rebuild := some .asked, journal.lastOp := .commit, journal.lastResult := .running })

/-! ## The live roster -/

/-- What adding or removing EXCLUDED does to an entry's state (R23). -/
def State.moveExcluded (e : Entry) (now : Attrs) (s : State) : State :=
  let serial := e.loaded.serial
  if now.excluded && !e.attrs.excluded then
    match e.st with
    | .pending => (s.moveTo serial .excluded).settleTest
    | .missed => s.moveTo serial .excluded
    | _ => s
  else if !now.excluded && e.attrs.excluded && e.st == .excluded then
    if (s.leg e.loaded.leg).st = .passed then s.moveTo serial .missed else s.moveTo serial .pending
  else s

/-- One set of ROSTER EDIT (R22). -/
def State.editOne (mode : EditMode) (serial : Nat) (a : Attrs) (s : State) : State :=
  match s.entry? serial with
  | none => s
  | some e =>
    (s.updEntry serial fun e => { e with attrs := mode.apply e.attrs a }).moveExcluded e (mode.apply e.attrs a)

/-- ROSTER EDIT (R22, R23). -/
def State.doRosterEdit (b : List Byte) (s : State) : Effect :=
  match parseEdit b with
  | none => refuse .param s
  | some (mode, sets) =>
    if sets.all fun w => (s.entry? w.1).isSome then
      (.done, [], sets.foldl (fun t w => t.editOne mode w.1 w.2) s)
    else refuse .notFound s

/-- The presence byte of ROSTER QUERY (layout 11.3). -/
def State.presence (s : State) (e : Entry) : Byte :=
  bitAt 0 e.readingMinute.isSome ||| bitAt 1 e.lastSeq.isSome ||| bitAt 2 (s.candOf? e.loaded.serial).isSome

/-- The live record of a meter (R24, layout 11.3). -/
def State.queryData (s : State) (e : Entry) : List Byte :=
  toLE 4 e.loaded.serial
    ++ [e.loaded.leg, e.loaded.cls.setWidth 8, BitVec.ofNat 8 e.loaded.carried, e.attrs.byte, e.st.code]
    ++ toLE 4 e.prevReg ++ toLE 3 e.loaded.prevAge ++ toLE 4 (e.readingMinute.getD (Config.absentReadingMinute s.draws))
    ++ [e.refStatus, BitVec.ofNat 8 e.totalScore, BitVec.ofNat 8 e.attempts,
        e.lastSeq.getD (Config.absentSequence s.draws), s.presence e]

/-- ROSTER QUERY (R24). -/
def State.doRosterQuery (b : List Byte) (s : State) : Effect :=
  match parseSerial b with
  | none => refuse .param s
  | some serial =>
    match s.entry? serial with
    | none => refuse .notFound s
    | some e => (.done, s.queryData e, s)

/-- MISSED READ (R20). -/
def State.doMissedRead (b : List Byte) (s : State) : Effect :=
  match parsePosition b with
  | none => refuse .param s
  | some pos =>
    let part := (s.roster.missed.drop pos).take 40
    (.done, toLE 2 s.roster.missed.length ++ [BitVec.ofNat 8 part.length] ++ part.flatMap (toLE 4), s)

/-- The records of the CLOSED slots move into the held-record list, their places in the wait order kept (R57). -/
def State.moveWait (s : State) : WaitEntry → WaitEntry
  | .slot serial =>
    match (s.candOf? serial).bind Candidate.evaluated with
    | some ev => .moved ev
    | none => .slot serial
  | w => w

/-- The route's end (R17, R57). -/
def State.discardRoute (s : State) : State :=
  let t := s.clearLegs
  { t with roster.phase := .none, roster.routeId := none, roster.announced := 0, roster.staging := [],
           roster.entries := [], roster.missed := [], roster.routeClock := 0, roster.routeMs := 0,
           pool.cands := [], journal.waits := s.journal.waits.map s.moveWait,
           sched.tx := s.sched.tx.map fun t => { t with discarded := true } }

/-- ROSTER DISCARD (R17). -/
def State.doRosterDiscard (b : List Byte) (s : State) : Effect :=
  if b ≠ [] then refuse .param s else (.done, [], s.discardRoute)

end Sys2Proof.Machine
end

