-- ==== Sys2Proof/Machine/JournalCommands.lean ====
section
/-!
DEFINITION. The effects of the journal's commands (R136, R137, R139) and of the upload's (R154, R160, R164).
-/

namespace Sys2Proof.Machine

/-! ## Journal -/

/-- The data of JOURNAL STATUS (R139, layout 11.3). -/
def Journal.statusData (j : Journal) : List Byte :=
  [j.st.code] ++ toLE 4 j.size ++ toLE 4 j.recordEnd ++ toLE 4 j.indexStart ++ toLE 4 j.free
    ++ toLE 2 j.total ++ toLE 2 j.delivered
    ++ (match j.openBatch with
        | some b => toLE 2 b.number ++ [BitVec.ofNat 8 b.count]
        | none => toLE 2 0 ++ [(0 : Byte)])
    ++ toLE 2 j.seals.length ++ toLE 2 j.held.length ++ toLE 2 j.waits.length ++ toLE 4 j.nextBatch
    ++ (match j.capture with
        | some (off, n) => toLE 4 off ++ toLE 2 n
        | none => toLE 4 0xFFFFFFFF ++ toLE 2 0)
    ++ [j.lastOp.code, j.lastResult.code]

/-- JOURNAL STATUS (R139). -/
def State.doJournalStatus (b : List Byte) (s : State) : Effect :=
  if b ≠ [] then refuse .param s else (.done, s.journal.statusData, s)

/-- BATCH SEAL (R136). -/
def State.doBatchSeal (b : List Byte) (s : State) : Effect :=
  if b ≠ [] then refuse .param s else (.done, toLE 2 s.sealNumber, s.sealOpen)

/-- Whether no record in the store or in the part is undelivered (R137). -/
def Journal.allDelivered (j : Journal) : Bool :=
  j.delivered == j.total && j.seals.isEmpty && j.recordEnd == j.newestEnd && j.waits.isEmpty

/-- The erase starts (R137, R138). -/
def State.startClear (s : State) : State :=
  ({ s with journal.st := .erasing, journal.lastOp := .clear, journal.lastResult := .running,
            journal.erasing := s.journal.clearSectors } : State).nextErase

/-- JOURNAL CLEAR (R137). -/
def State.doJournalClear (b : List Byte) (s : State) : Effect :=
  if s.uploadBusy || s.journal.st == .absent then refuse .notNow s
  else if b ≠ [] then refuse .param s
  else if s.journal.allDelivered then (.done, [], s.startClear)
  else refuse .undelivered s

/-! ## Upload -/

/-- Steps 1 to 3 of R154. -/
def State.startUpload (s : State) : State := ({ s.sealOpen with upload := .idle } : State).chooseBatch

/-- UPLOAD START (R154): the reply carries the undelivered batches at the taking and the engine's state after. -/
def State.doUploadStart (b : List Byte) (s : State) : Effect :=
  if s.uploadBusy then refuse .notNow s
  else if b ≠ [] then refuse .param s
  else (.done, toLE 2 (s.journal.total - s.journal.delivered) ++ [s.startUpload.upload.st.code], s.startUpload)

/-- A matching acknowledgement (R160): the mark program is requested. -/
def State.acknowledged (k : BatchInfo) (s : State) : State :=
  ({ s with upload.st := .sending, upload.stage := .marking, upload.ackLeft := 0 } : State).requestFlash
    (.mark s.upload.slot k)

/-- An acknowledgement answered MISMATCH (R161). -/
def State.mismatched (k : BatchInfo) (s : State) : State :=
  let t : State := { s with upload.mismatches := s.upload.mismatches + 1, upload.ackLeft := 0 }
  if s.upload.mismatches + 1 < 3 then
    ({ t with upload.st := .sending, upload.stage := .streaming } : State).buildHead k
  else t.stallUpload .mismatch

/-- BATCH RECEIVED (R160, R161). -/
def State.doBatchReceived (b : List Byte) (s : State) : Effect :=
  match s.upload.st, s.upload.batch with
  | .awaitAck, some k =>
    match parseAck b with
    | none => refuse .param s
    | some (number, crc) =>
      if number ≠ k.number then refuse .param s
      else if s.upload.tailCrc = some crc then (.done, [], s.acknowledged k)
      else (.mismatch, [], s.mismatched k)
  | _, _ => refuse .notNow s

/-- The data of UPLOAD STOP (R164, layout 11.3). -/
def State.stopData (s : State) : List Byte :=
  [s.upload.st.code] ++ toLE 2 (match s.upload.batch with | some k => k.number | none => 0)
    ++ [if s.upload.st = .idle then Config.absentMismatchCount s.draws else BitVec.ofNat 8 s.upload.mismatches,
        stallCode s.upload.stall]

/-- UPLOAD STOP (R164). -/
def State.doUploadStop (b : List Byte) (s : State) : Effect :=
  if b ≠ [] then refuse .param s else (.done, s.stopData, s.stopUpload)

end Sys2Proof.Machine
end

