-- ==== Sys2Proof/Machine/LegCommands.lean ====
section
/-!
DEFINITION. The effects of the leg commands and of ROUTE CLOSE (R98, R100, R114, R116).
-/

namespace Sys2Proof.Machine

/-! ## LEG OPEN (R98) -/

/-- The pass time of a code in milliseconds (R3). -/
def passTime (code : Byte) : Nat := if code = 0 then 256000 else code.toNat * 1000

/-- Steps 1, 4 and 5 of R98: the leg is OPEN and the open-leg record filled. -/
def State.openRecord (l : Byte) (s : State) : State :=
  { s.updLeg l (fun k => { k with st := .opened }) with
    sched.openLeg := some { leg := l, passLeft := passTime (s.leg l).passCode, passExpired := false,
                            budget := (s.leg l).budget.toNat, settled := false } }

/-- Step 2 of R98: the leg's MISSED meters become PENDING. -/
def State.returnMissed (l : Byte) (s : State) : State :=
  (s.serialsWhere fun e => e.loaded.leg == l && e.st == .missed).foldl (fun t serial => t.moveTo serial .pending) s

/-- Whether step 3 of R98 sets an entry's wake attempts to 0. DESIGN CHOICE: R71 counts only the attempts of the present
opening, and a HEARD, SENDING or AWAIT entry, which step 3 does not name, keeps those of an earlier one (log 36). -/
def EntryState.attemptsReset : EntryState → Bool
  | .pending => true
  | .missed => true
  | .excluded => true
  | _ => false

/-- Step 3 of R98. -/
def State.resetAttempts (l : Byte) (s : State) : State :=
  { s with roster.entries := s.roster.entries.map fun e =>
      if e.loaded.leg = l ∧ e.st.attemptsReset then { e with attempts := 0 } else e }

/-- Steps 1 to 5 of R98. -/
def State.openedLeg (l : Byte) (s : State) : State := ((s.openRecord l).returnMissed l).resetAttempts l

/-- Steps 6 to 8 of R98. -/
def State.afterOpening (s : State) : State := s.scan.settleTest.offerLane

/-- LEG OPEN (R98): the reply carries the number admitted and the counts after step 2. -/
def State.doLegOpen (b : List Byte) (s : State) : Effect :=
  match parseOpenLeg b with
  | none => refuse .param s
  | some l =>
    if s.sched.openLeg.isSome then refuse .notNow s
    else
      (.done, [BitVec.ofNat 8 (s.openedLeg l).scanPick.length] ++ ((s.openedLeg l).leg l).counts.bytes,
       (s.openedLeg l).afterOpening)

/-! ## LEG CLOSE (R114) -/

/-- Step 1 of R114. -/
def State.passOpenLeg (l : Byte) (s : State) : State :=
  { s.updLeg l (fun k => { k with st := .passed }) with sched.openLeg := none }

/-- A PENDING or QUEUED meter is missed; its sweep request leaves the queue (step 2 of R114, step 3 of R116). -/
def State.missWaiting (serial : Nat) (r : MissReason) (s : State) : State :=
  ({ s with sched.sweeps := s.sched.sweeps.erase serial } : State).missMeter serial r

/-- Whether an entry is PENDING or QUEUED. -/
def Entry.waiting (e : Entry) : Bool := e.st == .pending || e.st == .queued

/-- Step 2 of R114. -/
def State.missLeg (l : Byte) (s : State) : State :=
  (s.serialsWhere fun e => e.loaded.leg == l && e.waiting).foldl (fun t serial => t.missWaiting serial .legClosed) s

/-- Step 3 of R114, and step 4 of R116: the confirmations of the meters in VERIFY that a test picks end unanswered. -/
def State.endConfirmations (p : Entry → Bool) (forced : Bool) (s : State) : State :=
  (s.serialsWhere fun e => p e && e.st == .verify).foldl (fun t serial => t.endUnanswered serial forced) s

/-- Steps 1 to 3 of R114. -/
def State.closedLeg (l : Byte) (forced : Bool) (s : State) : State :=
  ((s.passOpenLeg l).missLeg l).endConfirmations (fun e => e.loaded.leg == l) forced

/-- Steps 4 and 5 of R114. -/
def State.afterClosing (l : Byte) (s : State) : State :=
  let t := s.sealOpen
  t.requestNotice (.leg l .closed (t.leg l).st (t.leg l).counts)

/-- LEG CLOSE (R114): the reply carries the counts after step 3. -/
def State.doLegClose (b : List Byte) (s : State) : Effect :=
  match parseByte b with
  | none => refuse .param s
  | some l =>
    if s.sched.openLeg.map OpenLeg.leg = some l then
      (.done, ((s.closedLeg l false).leg l).counts.bytes, (s.closedLeg l false).afterClosing l)
    else refuse .notNow s

/-! ## LEG STATUS (R100) -/

/-- The fields that LEG STATUS gives for the open leg, all 0 for any other (R100, R185, layout 11.3). -/
def State.openLegData (s : State) (l : Byte) : List Byte :=
  match s.sched.openLeg.filter fun o => o.leg == l with
  | none => List.replicate 14 (0 : Byte)
  | some o =>
    [(1 : Byte)] ++ toLE 2 (if o.passExpired then 0xFFFF else o.passLeft / 1000)
      ++ [BitVec.ofNat 8 o.budget, flagByte o.settled, BitVec.ofNat 8 s.sched.confirms.length,
          BitVec.ofNat 8 s.sched.sweeps.length, flagByte s.sched.tx.isSome]
      ++ toLE 4 (match s.sched.tx with | some t => t.serial | none => Config.absentTransmitSerial s.draws)
      ++ toLE 2 s.sched.credit

/-- LEG STATUS (R100). -/
def State.doLegStatus (b : List Byte) (s : State) : Effect :=
  match parseByte b with
  | none => refuse .param s
  | some l =>
    let k := s.leg l
    (.done, [l, k.st.code, k.passCode, k.budget] ++ k.counts.bytes ++ s.openLegData l, s)

/-! ## ROUTE CLOSE (R116) -/

/-- Step 1 of R116: the HOLDING candidates are force-closed in opening order (R57). -/
def State.forceCloseAll (s : State) : State :=
  ((s.pool.cands.filter fun c => c.evaluated.isNone).map Candidate.serial).foldl
    (fun t serial => t.countForcedClose.closeCand serial true) s

/-- Step 2 of R116: the OPEN leg is closed. -/
def State.closeOpenLeg (s : State) : State :=
  match s.sched.openLeg with
  | none => s
  | some o => (s.closedLeg o.leg true).afterClosing o.leg

/-- Step 3 of R116. -/
def State.missRoute (s : State) : State :=
  (s.serialsWhere Entry.waiting).foldl (fun t serial => t.missWaiting serial .routeClosed) s

/-- Steps 5 to 7 of R116. -/
def State.passRoute (s : State) : State :=
  let t : State := { s with roster.legs := s.roster.legs.map fun k => { k with st := .passed } }
  { t.sealOpen with roster.phase := .closed }

/-- ROUTE CLOSE (R116). -/
def State.doRouteClose (b : List Byte) (s : State) : Effect :=
  if b ≠ [] then refuse .param s
  else
    (.done, [], ((s.forceCloseAll.closeOpenLeg.missRoute).endConfirmations (fun _ => true) true).passRoute)

end Sys2Proof.Machine
end

