-- ==== Sys2Proof/Machine/LinkCommands.lean ====
section
/-!
DEFINITION. The effects of the van link controller's own commands (R172 to R174, R176, R177, R180).
-/

namespace Sys2Proof.Machine

/-- The data of IDENTIFY (R172, layout 11.3). -/
def State.identifyData (s : State) : List Byte :=
  toLE 2 Config.deviceCode
    ++ [BitVec.ofNat 8 Config.revision, s.link.rate.setWidth 8, s.roster.phase.code, flagByte s.roster.routeId.isSome]
    ++ toLE 4 (s.roster.routeId.getD (Config.absentRouteId s.draws)) ++ [s.journal.st.code, s.upload.st.code]
    ++ toLE 4 s.runClock.toNat

/-- IDENTIFY (R172). -/
def State.doIdentify (b : List Byte) (s : State) : Effect :=
  if b ≠ [] then refuse .param s else (.done, s.identifyData, s)

/-- RESTART (R173): taken now, in effect when its reply has been sent (R141). -/
def State.doRestart (b : List Byte) (s : State) : Effect :=
  if b ≠ [] then refuse .param s else (.done, [], { s with link.restarting := true })

/-- A lane under a new enable mask (R28). -/
def LaneState.masked (st : LaneState) (enabled : Bool) : LaneState :=
  if enabled then (match st with | .disabled => .idle | k => k) else .disabled

/-- The lanes after RADIO SET (R28, R29). -/
def RadioSettings.lanes (r : RadioSettings) (old : Vector Lane 4) : Vector Lane 4 :=
  Vector.ofFn fun i =>
    { old[i] with
      st := old[i].st.masked (r.mask.getLsbD i.val),
      floor :=
        if r.mask.getLsbD i.val then rssiOf (byteAt r.floors (lanesBelow r.mask i.val)) else old[i].floor }

/-- Every setting of RADIO SET applied (R174). -/
def State.applyRadio (r : RadioSettings) (s : State) : State :=
  { s with
    intake := { lanes := r.lanes s.intake.lanes, forwarding := r.forwarding },
    pool.holdTime := r.hold, sched.wakeDur := r.wakeDur, sched.replyWin := r.replyWin,
    sched.capacity := r.capacity, sched.credit := min s.sched.credit r.capacity, sched.refill := r.refill }

/-- RADIO SET (R174): the reply carries the credit after the command, the head's offer included. -/
def State.doRadioSet (b : List Byte) (s : State) : Effect :=
  match parseRadio b with
  | none => refuse .param s
  | some r => (.done, toLE 2 (s.applyRadio r).offerLane.sched.credit, (s.applyRadio r).offerLane)

/-- FLAGS READ (R177). -/
def State.doFlagsRead (b : List Byte) (s : State) : Effect :=
  if b ≠ [] then refuse .param s else (.done, toLE 2 s.link.mask.toNat, s)

/-- FLAGS CLEAR (R177): clearing JOURNAL_FAULT empties the first-fault capture (R131). -/
def State.doFlagsClear (b : List Byte) (s : State) : Effect :=
  match parseFlags b with
  | none => refuse .param s
  | some named =>
    if named = 0 then refuse .param s
    else
      (.done, [],
       { s.clearFlags named with
         journal.capture := if named.getLsbD Flag.journalFault.number then none else s.journal.capture })

/-- FLAGS MASK (R176). -/
def State.doFlagsMask (b : List Byte) (s : State) : Effect :=
  match parseFlags b with
  | none => refuse .param s
  | some mask => (.done, toLE 2 mask.toNat, { s with link.mask := mask })

/-- COUNTERS READ (R180). -/
def State.doCountersRead (b : List Byte) (s : State) : Effect :=
  match parseClearOption b with
  | none => refuse .param s
  | some clear => (.done, s.counterValues.flatMap (toLE 2), if clear then s.clearCounters else s)

end Sys2Proof.Machine
end

