-- ==== Sys2Proof/Machine/Commands.lean ====
section
/-!
DEFINITION. Taking a command frame (R168 to R171): the command kinds, the six checks, the reply, and the meaning of
each command row, which is the completion of a good frame with the row's body (log 4).
-/

namespace Sys2Proof.Machine

/-! ## The command kinds (layout 11.3) -/

/-- The commands of the van link. -/
inductive Cmd where
  | identify
  | restart
  | radioSet
  | flagsRead
  | flagsClear
  | flagsMask
  | countersRead
  | classWrite
  | legWrite
  | rosterBegin
  | rosterLoad
  | rosterCommit
  | rosterEdit
  | rosterQuery
  | rosterDiscard
  | missedRead
  | legOpen
  | legClose
  | legStatus
  | routeClose
  | journalStatus
  | batchSeal
  | journalClear
  | uploadStart
  | batchReceived
  | uploadStop
  deriving DecidableEq, Repr

/-- Every command. -/
def Cmd.all : List Cmd :=
  [.identify, .restart, .radioSet, .flagsRead, .flagsClear, .flagsMask, .countersRead, .classWrite, .legWrite,
   .rosterBegin, .rosterLoad, .rosterCommit, .rosterEdit, .rosterQuery, .rosterDiscard, .missedRead, .legOpen,
   .legClose, .legStatus, .routeClose, .journalStatus, .batchSeal, .journalClear, .uploadStart, .batchReceived,
   .uploadStop]

/-- The kind code of a command (layout 11.3). -/
def Cmd.kind : Cmd → Byte
  | .identify => 0x01 | .restart => 0x02 | .radioSet => 0x03 | .flagsRead => 0x04 | .flagsClear => 0x05
  | .flagsMask => 0x06 | .countersRead => 0x07 | .classWrite => 0x10 | .legWrite => 0x11 | .rosterBegin => 0x12
  | .rosterLoad => 0x13 | .rosterCommit => 0x14 | .rosterEdit => 0x15 | .rosterQuery => 0x16
  | .rosterDiscard => 0x17 | .missedRead => 0x18 | .legOpen => 0x20 | .legClose => 0x21 | .legStatus => 0x22
  | .routeClose => 0x23 | .journalStatus => 0x28 | .batchSeal => 0x29 | .journalClear => 0x2A
  | .uploadStart => 0x30 | .batchReceived => 0x31 | .uploadStop => 0x32

/-- The command of a kind, if it is a command kind (step 2 of R169). -/
def Cmd.ofKind (k : Byte) : Option Cmd := Cmd.all.find? fun c => c.kind == k

/-- The route phases in which a command passes step 3 (R171). -/
def Cmd.inPhase (c : Cmd) (p : Phase) : Bool :=
  match c with
  | .classWrite => p == .none
  | .rosterBegin => p == .none
  | .legWrite => p == .none || p == .loading
  | .rosterLoad => p == .loading
  | .rosterCommit => p == .loading
  | .rosterDiscard => p == .loading || p == .closed
  | .rosterEdit => p == .active
  | .routeClose => p == .active
  | .rosterQuery => p == .active || p == .closed
  | .missedRead => p == .active || p == .closed
  | .legOpen => p == .active
  | .legClose => p == .active
  | .legStatus => p == .active || p == .closed
  | .journalClear => p == .none
  | .uploadStart => p == .none || p == .closed
  | _ => true

/-- The commands taken while a long operation runs (R171). -/
def Cmd.duringLong : Cmd → Bool
  | .identify => true
  | .flagsRead => true
  | .flagsClear => true
  | .flagsMask => true
  | .countersRead => true
  | .journalStatus => true
  | .restart => true
  | _ => false

/-- Step 5 and step 6 of R169, the test between steps 4 and 5 where a rule has one, and the effect. -/
def State.carryOut (c : Cmd) (body : List Byte) (s : State) : Effect :=
  match c with
  | .identify => s.doIdentify body
  | .restart => s.doRestart body
  | .radioSet => s.doRadioSet body
  | .flagsRead => s.doFlagsRead body
  | .flagsClear => s.doFlagsClear body
  | .flagsMask => s.doFlagsMask body
  | .countersRead => s.doCountersRead body
  | .classWrite => s.doClassWrite body
  | .legWrite => s.doLegWrite body
  | .rosterBegin => s.doRosterBegin body
  | .rosterLoad => s.doRosterLoad body
  | .rosterCommit => s.doRosterCommit body
  | .rosterEdit => s.doRosterEdit body
  | .rosterQuery => s.doRosterQuery body
  | .rosterDiscard => s.doRosterDiscard body
  | .missedRead => s.doMissedRead body
  | .legOpen => s.doLegOpen body
  | .legClose => s.doLegClose body
  | .legStatus => s.doLegStatus body
  | .routeClose => s.doRouteClose body
  | .journalStatus => s.doJournalStatus body
  | .batchSeal => s.doBatchSeal body
  | .journalClear => s.doJournalClear body
  | .uploadStart => s.doUploadStart body
  | .batchReceived => s.doBatchReceived body
  | .uploadStop => s.doUploadStop body

/-- Steps 3 to 6 of R169. -/
def State.checkCommand (c : Cmd) (body : List Byte) (s : State) : Effect :=
  if !c.inPhase s.roster.phase then refuse .notNow s
  else if s.longOp && !c.duringLong then refuse .busy s
  else s.carryOut c body

/-! ## Replies (R170) -/

/-- A reply joins the queue, with the flags as they stand after the command's effect (R168, R170). -/
def State.pushReply (kind echoed : Byte) (o : ReplyCode) (data : List Byte) (restart : Bool) (s : State) : State :=
  { s with
    link.replies := s.link.replies ++
      [{ kind := kind, echoed := echoed, outcome := o, flags := s.link.flags, data := data, restart := restart }],
    draws := s.draws + 1 }

/-- The reply kind of a frame refused UNKNOWN (R170). -/
def unknownReplyKind (k : Byte) : Byte := if 1 ≤ k.toNat ∧ k.toNat ≤ 0x3F then k + 0x80 else 0x80

/-- A command that passed steps 1 and 2 is checked further, carried out and answered (R169, R170). -/
def State.takeCommand (c : Cmd) (body : List Byte) (s : State) : State :=
  let r := s.checkCommand c body
  r.2.2.pushReply (c.kind + 0x80) c.kind r.1 r.2.1 (c == .restart && r.1 == .done)

/-- A frame is taken (R169). -/
def State.takeFrame (kind : Byte) (body : List Byte) (crcGood : Bool) (s : State) : State :=
  if !crcGood then s.countLinkCheck.pushReply 0x80 0 .check [] false
  else
    match Cmd.ofKind kind with
    | none => s.pushReply (unknownReplyKind kind) kind .unknown [] false
    | some c => s.takeCommand c body

/-- A frame completes (R166, R168): the receiver hunts; after RESTART it is discarded uncounted (R141), with 2 replies
waiting it is discarded as an overrun, else it is taken. -/
def State.frameArrives (kind : Byte) (body : List Byte) (crcGood : Bool) (s : State) : State :=
  let t : State := { s with link.rx := .hunt, link.gapLeft := 0 }
  if s.link.restarting then t
  else if 2 ≤ s.link.replies.length then t.countOverrun
  else t.takeFrame kind body crcGood

/-! ## The command rows -/

/-- IDENTIFY (R172). -/
def execIdentify (body : List Byte) (s : State) : Host.Outcome State Fault Refusal :=
  event (State.frameArrives 0x01 body true) s

/-- RESTART (R173). -/
def execRestart (body : List Byte) (s : State) : Host.Outcome State Fault Refusal :=
  event (State.frameArrives 0x02 body true) s

/-- RADIO SET (R174). -/
def execRadioSet (body : List Byte) (s : State) : Host.Outcome State Fault Refusal :=
  event (State.frameArrives 0x03 body true) s

/-- FLAGS READ (R177). -/
def execFlagsRead (body : List Byte) (s : State) : Host.Outcome State Fault Refusal :=
  event (State.frameArrives 0x04 body true) s

/-- FLAGS CLEAR (R177). -/
def execFlagsClear (body : List Byte) (s : State) : Host.Outcome State Fault Refusal :=
  event (State.frameArrives 0x05 body true) s

/-- FLAGS MASK (R176). -/
def execFlagsMask (body : List Byte) (s : State) : Host.Outcome State Fault Refusal :=
  event (State.frameArrives 0x06 body true) s

/-- COUNTERS READ (R180). -/
def execCountersRead (body : List Byte) (s : State) : Host.Outcome State Fault Refusal :=
  event (State.frameArrives 0x07 body true) s

/-- CLASS WRITE (R2). -/
def execClassWrite (body : List Byte) (s : State) : Host.Outcome State Fault Refusal :=
  event (State.frameArrives 0x10 body true) s

/-- LEG WRITE (R4). -/
def execLegWrite (body : List Byte) (s : State) : Host.Outcome State Fault Refusal :=
  event (State.frameArrives 0x11 body true) s

/-- ROSTER BEGIN (R8). -/
def execRosterBegin (body : List Byte) (s : State) : Host.Outcome State Fault Refusal :=
  event (State.frameArrives 0x12 body true) s

/-- ROSTER LOAD (R9). -/
def execRosterLoad (body : List Byte) (s : State) : Host.Outcome State Fault Refusal :=
  event (State.frameArrives 0x13 body true) s

/-- ROSTER COMMIT (R10). -/
def execRosterCommit (body : List Byte) (s : State) : Host.Outcome State Fault Refusal :=
  event (State.frameArrives 0x14 body true) s

/-- ROSTER EDIT (R22). -/
def execRosterEdit (body : List Byte) (s : State) : Host.Outcome State Fault Refusal :=
  event (State.frameArrives 0x15 body true) s

/-- ROSTER QUERY (R24). -/
def execRosterQuery (body : List Byte) (s : State) : Host.Outcome State Fault Refusal :=
  event (State.frameArrives 0x16 body true) s

/-- ROSTER DISCARD (R17). -/
def execRosterDiscard (body : List Byte) (s : State) : Host.Outcome State Fault Refusal :=
  event (State.frameArrives 0x17 body true) s

/-- MISSED READ (R20). -/
def execMissedRead (body : List Byte) (s : State) : Host.Outcome State Fault Refusal :=
  event (State.frameArrives 0x18 body true) s

/-- LEG OPEN (R98). -/
def execLegOpen (body : List Byte) (s : State) : Host.Outcome State Fault Refusal :=
  event (State.frameArrives 0x20 body true) s

/-- LEG CLOSE (R114). -/
def execLegClose (body : List Byte) (s : State) : Host.Outcome State Fault Refusal :=
  event (State.frameArrives 0x21 body true) s

/-- LEG STATUS (R100). -/
def execLegStatus (body : List Byte) (s : State) : Host.Outcome State Fault Refusal :=
  event (State.frameArrives 0x22 body true) s

/-- ROUTE CLOSE (R116). -/
def execRouteClose (body : List Byte) (s : State) : Host.Outcome State Fault Refusal :=
  event (State.frameArrives 0x23 body true) s

/-- JOURNAL STATUS (R139). -/
def execJournalStatus (body : List Byte) (s : State) : Host.Outcome State Fault Refusal :=
  event (State.frameArrives 0x28 body true) s

/-- BATCH SEAL (R136). -/
def execBatchSeal (body : List Byte) (s : State) : Host.Outcome State Fault Refusal :=
  event (State.frameArrives 0x29 body true) s

/-- JOURNAL CLEAR (R137). -/
def execJournalClear (body : List Byte) (s : State) : Host.Outcome State Fault Refusal :=
  event (State.frameArrives 0x2A body true) s

/-- UPLOAD START (R154). -/
def execUploadStart (body : List Byte) (s : State) : Host.Outcome State Fault Refusal :=
  event (State.frameArrives 0x30 body true) s

/-- BATCH RECEIVED (R160). -/
def execBatchReceived (body : List Byte) (s : State) : Host.Outcome State Fault Refusal :=
  event (State.frameArrives 0x31 body true) s

/-- UPLOAD STOP (R164). -/
def execUploadStop (body : List Byte) (s : State) : Host.Outcome State Fault Refusal :=
  event (State.frameArrives 0x32 body true) s

end Sys2Proof.Machine
end

