-- ==== Sys2Proof/Machine/Link.lean ====
section
/-!
DEFINITION. The van link's bytes and frames outside the command rows, and the reset input: LINK_FRAME_REFUSED,
LINK_OVERRUN, LINK_BYTE_RECEIVED, LINK_FRAMING_ERROR, GAP_TIMER_EXPIRY, OUTBOUND_FRAME_SENT, RESET_ASSERT,
RESET_RELEASE (R141, R166 to R169, R179).
-/

namespace Sys2Proof.Machine

/-! ## The frame receiver (R166, R167) -/

/-- The CRC-16 of a frame: over its length, kind and body (10.1). -/
def frameCrc (kind : Byte) (body : List Byte) : Word16 :=
  crc16 (BitVec.ofNat 8 (body.length + 1) :: kind :: body)

/-- The receiver takes a byte and its gap timer starts anew, or it hunts and none runs (R167). -/
def State.setRx (r : Receiver) (s : State) : State :=
  { s with link.rx := r, link.gapLeft := if r = .hunt then 0 else 5 }

/-- A byte arrives (R166); the second CRC byte completes the frame. -/
def State.linkByte (b : Byte) (s : State) : State :=
  match s.link.rx with
  | .hunt => if b = 0xA5#8 then s.setRx .length else s
  | .length => if 1 ≤ b.toNat ∧ b.toNat ≤ 251 then s.setRx (.body b.toNat []) else s.setRx .hunt
  | .body len got =>
    if got.length + 1 < len then s.setRx (.body len (got ++ [b])) else s.setRx (.check (got ++ [b]) [])
  | .check frame got =>
    match got with
    | [] => s.setRx (.check frame [b])
    | lo :: _ =>
      s.frameArrives (byteAt frame 0) frame.tail (frameCrc (byteAt frame 0) frame.tail == BitVec.ofNat 16 (le [lo, b]))

/-- A framing error (R166). -/
def State.framingError (s : State) : State :=
  match s.link.rx with
  | .hunt => s
  | _ => s.countLinkCheck.setRx .hunt

/-- The gap timer expires (R167). -/
def State.gapExpires (s : State) : State :=
  match s.link.rx with
  | .hunt => s
  | _ => s.countGapAbort.setRx .hunt

/-! ## The outbound direction (R179) -/

/-- The last byte of the frame being sent has been sent (R179, R158, R141). -/
def State.frameSent (straps : BitVec 2) (s : State) : State :=
  match s.link.sending with
  | none => s
  | some (.reply r) => if r.restart then ({ s with straps := straps } : State).resetEffect else { s with link.sending := none }
  | some (.upload (.tail _ _ _)) => ({ s with link.sending := none } : State).tailSent
  | some (.upload _) => { s with link.sending := none }
  | some (.notice _) => { s with link.sending := none }

/-! ## The reset input (R141) -/

/-- The reset input is asserted: the part sends nothing, drives no wake request, issues nothing to the flash, and its
lines are released and at code 0 (R141, R176). -/
def State.resetAsserted (s : State) : State :=
  ({ s with asserted := true, link.sending := none, sched.tx := none, flash.unfinished := s.flash.leftOver,
            flash.port := none, flash.portLeft := 0, flash.waiting := [] } : State).refreshLines

/-! ## The rows -/

/-- RESET_ASSERT (R141). -/
def execResetAssert (s : State) : Host.Outcome State Fault Refusal := .next s.resetAsserted

/-- RESET_RELEASE (R141): the reset takes effect with the straps as they stand. -/
def execResetRelease (straps : BitVec 2) (s : State) : Host.Outcome State Fault Refusal :=
  .next ({ s with straps := straps } : State).resetEffect

/-- LINK_FRAME_REFUSED (R169). -/
def execLinkFrameRefused (kind : Byte) (body : List Byte) (crc : Word16) (s : State) :
    Host.Outcome State Fault Refusal :=
  event (State.frameArrives kind body (frameCrc kind body == crc)) s

/-- LINK_OVERRUN (R168). -/
def execLinkOverrun (kind : Byte) (body : List Byte) (crc : Word16) (s : State) : Host.Outcome State Fault Refusal :=
  event (State.frameArrives kind body (frameCrc kind body == crc)) s

/-- LINK_BYTE_RECEIVED (R166). -/
def execLinkByteReceived (b : Byte) (s : State) : Host.Outcome State Fault Refusal := event (State.linkByte b) s

/-- LINK_FRAMING_ERROR (R166). -/
def execLinkFramingError (s : State) : Host.Outcome State Fault Refusal := event State.framingError s

/-- GAP_TIMER_EXPIRY (R167). -/
def execGapTimerExpiry (s : State) : Host.Outcome State Fault Refusal := event State.gapExpires s

/-- OUTBOUND_FRAME_SENT (R179). -/
def execOutboundFrameSent (straps : BitVec 2) (s : State) : Host.Outcome State Fault Refusal :=
  event (State.frameSent straps) s

end Sys2Proof.Machine
end

