-- ==== Sys2Proof/Machine/Rebuild.lean ====
section
/-!
DEFINITION. The commit rebuild scan (R11 to R15): REBUILD_SCAN_START and REBUILD_READ_END. The scan reads one index
slot or one record at a time (log 13).
-/

namespace Sys2Proof.Machine

/-! ## Applying a record (R12, R13) -/

/-- A READING record of this route makes its entry READ and restores its reading state (R12). -/
def State.applyReading (serial : Nat) (bs : List Byte) (s : State) : State :=
  (s.updEntry serial fun e =>
    { e with prevReg := field bs 13 4, refStatus := byteAt bs 34, totalScore := field bs 37 1,
             lastSeq := some (byteAt bs 42), readingMinute := some 0 }).placeEntry serial .read

/-- Whether a MISS record's reason passes its leg: LEG_CLOSED or ROUTE_CLOSED (R13). -/
def passesLeg (reason : Byte) : Bool := reason == 1#8 || reason == 3#8

/-- A MISS record of this route (R13). -/
def State.applyMiss (serial : Nat) (bs : List Byte) (s : State) : State :=
  let t :=
    match s.entry? serial with
    | some e => if e.st = .pending ∨ e.st = .missed then s.placeEntry serial .missed else s
    | none => s
  if passesLeg (byteAt bs 12) then t.updLeg (byteAt bs 11) fun l => { l with st := .passed } else t

/-- A good record of this route is applied to its entry, or counted when its serial is unknown (R11). -/
def State.applyRecord (bs : List Byte) (s : State) : State :=
  let serial := field bs 7 4
  if (s.entry? serial).isNone then s.countUnknownSerial
  else if byteAt bs 0 = 0x52#8 then s.applyReading serial bs
  else if byteAt bs 0 = 0x4D#8 then s.applyMiss serial bs
  else s

/-- A record reached by the walk (R11, Records considered). -/
def State.offerRecord (bs : List Byte) (s : State) : State :=
  if xorAll bs ≠ 0 then s.countBadRecord
  else if some (field bs 3 4) ≠ s.roster.routeId then s
  else s.applyRecord bs

/-! ## The end of the scan (R14, R15) -/

/-- The rebuild completes and the route becomes ACTIVE (R14). -/
def State.rebuildEnds (s : State) : State :=
  let late := s.serialsWhere fun e => e.st == .pending && (s.leg e.loaded.leg).st == .passed
  let t := (late.foldl (fun t serial => t.placeEntry serial .missed) s).recount
  ({ t with roster.phase := .active, roster.routeClock := 0, roster.routeMs := 0, roster.rebuild := none,
            journal.lastResult := .good } : State).setFlag .commitDone

/-- A read failed and the commit with it (R15). -/
def State.rebuildFails (s : State) : State :=
  let t := s.clearLegs
  ({ t with roster.staging := s.roster.entries.map Entry.loaded, roster.entries := [], roster.missed := [],
            roster.phase := .loading, roster.rebuild := none, journal.lastResult := .readFailure } : State).setFlag
    .operationFailed

/-! ## The walk (R11, Journal order) -/

/-- The scan goes on with a new scan state and a read. -/
def State.rebuildRead (rb : Rebuild) (off len : Nat) (s : State) : State :=
  ({ s with roster.rebuild := some rb } : State).requestFlash (.read .rebuild off len)

/-- The open batch's records come after the batches (R11). -/
def State.rebuildOpen (rb : Rebuild) (s : State) : State :=
  match rb.openSpan with
  | some (a, z) =>
    if a < z then s.rebuildRead { rb with stage := .records a z true } a (min 60 (s.journal.size - a))
    else s.rebuildEnds
  | none => s.rebuildEnds

/-- The next index slot is read, or the batches taken at the start are all visited. -/
def State.rebuildSlots (rb : Rebuild) (s : State) : State :=
  if rb.visited < rb.batches ∧ s.journal.indexStart ≤ rb.slot then
    s.rebuildRead { rb with stage := .slots } rb.slot 16
  else s.rebuildOpen rb

/-- The scan moves below a slot; below offset 0 there is none left to visit. -/
def Rebuild.below (rb : Rebuild) : Rebuild :=
  if rb.slot < 16 then { rb with batches := rb.visited } else { rb with slot := rb.slot - 16 }

/-- A batch's walk is over. -/
def State.rebuildBatchDone (rb : Rebuild) (last : Bool) (s : State) : State :=
  if last then s.rebuildEnds else s.rebuildSlots rb

/-- The record at a position of a batch is read, or the batch's walk is over. -/
def State.rebuildAt (rb : Rebuild) (pos stop : Nat) (last : Bool) (s : State) : State :=
  if pos < stop then
    s.rebuildRead { rb with stage := .records pos stop last } pos (min 60 (s.journal.size - pos))
  else s.rebuildBatchDone rb last

/-- The 16 bytes of a slot were read: a good slot's records are walked unless it is VOID, a dead one is passed. -/
def State.rebuildSlotRead (rb : Rebuild) (bs : List Byte) (s : State) : State :=
  match (parseIndex bs).filter fun b => decide (rb.lastNumber < b.number) with
  | none => s.rebuildSlots rb.below
  | some b =>
    let rb := { rb with visited := rb.visited + 1, lastNumber := b.number }.below
    if b.void then s.rebuildSlots rb else s.rebuildAt rb b.first b.stop false

/-- The bytes at a position of a batch were read (R11). -/
def State.rebuildRecordRead (rb : Rebuild) (pos stop : Nat) (last : Bool) (bs : List Byte) (s : State) : State :=
  let len := (byteAt bs 1).toNat
  if recordSize (byteAt bs 0) (byteAt bs 1) ∧ len ≤ bs.length then
    (s.offerRecord (bs.take len)).rebuildAt rb (pos + len) stop last
  else s.countBadRecord.rebuildBatchDone rb last

/-- A read of the scan ended good, over these bytes. -/
def State.rebuildReadGood (rb : Rebuild) (bs : List Byte) (s : State) : State :=
  match rb.stage with
  | .waiting => s
  | .slots => s.rebuildSlotRead rb bs
  | .records pos stop last => s.rebuildRecordRead rb pos stop last bs

/-- REBUILD_READ_END on the operation in progress. -/
def State.rebuildReadEnded (good : Bool) (s : State) : State :=
  match s.flash.port, s.roster.rebuild with
  | some (.read .rebuild off len), some rb =>
    if good then s.freePort.rebuildReadGood rb (Memory.readN s.flash.store off len) else s.freePort.rebuildFails
  | _, _ => s

/-- Whether the read in progress lies outside the store (log 18). -/
def State.rebuildOutside (s : State) : Bool :=
  match s.flash.port, s.roster.rebuild with
  | some (.read .rebuild off _), some _ => decide (s.journal.size ≤ off)
  | _, _ => false

/-- The scan begins once the buffer has drained and the seal list is empty (R11). -/
def State.rebuildBegins (s : State) : State :=
  match s.roster.rebuild with
  | some rb =>
    if rb.stage = .waiting ∧ s.journal.held = [] ∧ s.journal.seals = [] then
      s.rebuildSlots
        { stage := .slots, batches := s.journal.total,
          openSpan := s.journal.openBatch.map fun b => (b.first, s.journal.recordEnd),
          slot := s.journal.size - 16, visited := 0, lastNumber := 0 }
    else s
  | none => s

/-- REBUILD_SCAN_START (R11); before the buffer has drained there is no start (log 3). -/
def execRebuildScanStart (s : State) : Host.Outcome State Fault Refusal := event State.rebuildBegins s

/-- REBUILD_READ_END (R11, R15); a good read outside the store faults (log 18). -/
def execRebuildReadEnd (good : Bool) (s : State) : Host.Outcome State Fault Refusal :=
  if !s.asserted && good && s.rebuildOutside then .fault .storeRange else event (State.rebuildReadEnded good) s

end Sys2Proof.Machine
end

