-- ==== Sys2Proof/Machine/Recovery.lean ====
section
/-!
DEFINITION. Start-up and the recovery scan (R143 to R150): FLASH_READY, FLASH_READY_TIMEOUT, IDENTIFICATION_RESPONSE,
IDENTIFICATION_TIMEOUT, RECOVERY_READ_END, RECOVERY_INDEX_PROGRAM_END, and PROGRAM_FAILURE, which a recovery seal's
index program may also be.
-/

namespace Sys2Proof.Machine

/-! ## Identification (R143) -/

/-- The journal becomes ABSENT and the start-up operation ends (R143). -/
def State.journalAbsent (s : State) : State :=
  { s with startup := none, journal.st := .absent, journal.lastResult := .good }

/-- The flash is ready: what it was finishing has ended, and the identification is requested (R143). -/
def State.flashIsReady (e : FlashEnd) (s : State) : State :=
  match s.startup with
  | some (.readyWait _) =>
    ({ s with
        startup := some .identWait,
        flash.store := (match s.flash.unfinished with | some r => r.effect e s.flash.store | none => s.flash.store),
        flash.unfinished := none } : State).requestFlash .identify
  | _ => s

/-- The flash does not report ready (R143). -/
def State.readyTimedOut (s : State) : State :=
  match s.startup with
  | some (.readyWait _) => s.journalAbsent
  | _ => s

/-- The recovery scan at its start for a store of `size` bytes: slot 1 is read first (R144). -/
def Recovery.start (size : Nat) : Recovery :=
  { size := size, slot := size - 16, lastNumber := 0, newestEnd := 0, maxEnd := 0, lowest := size, total := 0,
    delivered := 0, runOpen := true, pointer := size - 16, recordEnd := 0, nextBatch := 1, stage := .indexWalk }

/-- The scan goes on from a new scan state. -/
def State.withScan (r : Recovery) (s : State) : State := { s with startup := some (.scanning r) }

/-- The scan asks for a read. -/
def State.scanRead (off len : Nat) (s : State) : State := s.requestFlash (.read .recovery off len)

/-- The identification response arrives (R143). -/
def State.identified (capacity : Byte) (s : State) : State :=
  match s.startup with
  | some .identWait =>
    if 21 ≤ capacity.toNat ∧ capacity.toNat ≤ 27 then
      (s.freePort.withScan (.start (2 ^ capacity.toNat))).scanRead (2 ^ capacity.toNat - 16) 16
    else s.freePort.journalAbsent
  | _ => s

/-- The identification response does not arrive (R143). -/
def State.identTimedOut (s : State) : State :=
  match s.startup with
  | some .identWait => s.freePort.journalAbsent
  | _ => s

/-! ## The end of the scan (R149, R150, R153) -/

/-- The journal controller takes its running values from the scan and the long operation ends (R149). -/
def State.recoveryEnds (r : Recovery) (st : JournalState) (result : OpResult) (s : State) : State :=
  let t : State :=
    { s with
      startup := none, journal.st := st, journal.size := r.size, journal.recordEnd := r.recordEnd,
      journal.progEnd := r.recordEnd, journal.indexStart := r.lowest, journal.total := r.total,
      journal.delivered := r.delivered, journal.nextBatch := r.nextBatch, journal.pointer := r.pointer,
      journal.newestEnd := r.newestEnd, journal.lastResult := result }
  let t := if st = .full then t.setFlag .journalFull else t
  t.testLow

/-- A failed read ends the scan (R150). -/
def State.recoveryReadFailed (r : Recovery) (s : State) : State :=
  (s.recoveryEnds { r with recordEnd := r.lowest } .fault .readFailure).setFlag .operationFailed

/-! ## Seals (R147, R148) -/

/-- The index record of a recovery seal (R147): leg 255, the CRC of the span as the store holds it. -/
def Span.bytes (p : Span) (number : Nat) (store : List Host.Cell) : List Byte :=
  indexBytes number p.first (p.stop - p.first) p.count 255 (if p.void then 2 else 1)
    (crc16 (Memory.readN store p.first (p.stop - p.first)))

/-- The next seal is made, or the sealing is over (R147, R148). -/
def State.nextSeal (r : Recovery) (spans : List Span) (full : Bool) (s : State) : State :=
  match spans with
  | [] => s.recoveryEnds r (if full then .full else .opened) .good
  | p :: rest =>
    if 65536 ≤ r.nextBatch ∨ r.lowest < 16 ∨ r.lowest - 16 < p.stop then
      s.recoveryEnds { r with recordEnd := r.lowest } .full .good
    else
      (s.withScan { r with lowest := r.lowest - 16, nextBatch := r.nextBatch + 1,
                           stage := .sealing (p :: rest) full }).requestFlash
        (.recoveryIndex (r.lowest - 16) (p.bytes r.nextBatch s.flash.store))

/-- The recovered records cut into runs of at most 255, one RECOVERED span each (R147). -/
def runSpans (recs : List (Nat × Nat)) : List Span :=
  (List.range ((recs.length + 254) / 255)).filterMap fun k =>
    let run := (recs.drop (255 * k)).take 255
    match run.head?, run.getLast? with
    | some a, some z => some { first := a.1, stop := z.1 + z.2, count := run.length, void := false }
    | _, _ => none

/-- The last span runs on to an end (R147, no slot above T). An end below the span's own records is not taken: the span
keeps its own, and its seal cannot be made (R148; log 34). -/
def extendLast (stop : Nat) : List Span → List Span
  | [] => []
  | [p] => [{ p with stop := max p.stop stop }]
  | p :: q :: rest => p :: extendLast stop (q :: rest)

/-- The seals for a record torn at `torn`, with the blank page found above it, and whether the journal ends FULL
(R147). With no slot above it and no run to join, the VOID span stands alone, and its seal cannot be made (R148;
log 34). -/
def sealPlan (runs : List Span) (lowest torn : Nat) (page : Option Nat) : List Span × Bool :=
  let stop := page.getD (torn + 65535)
  let own := lowest - 16 * runs.length
  let slot := own - 16
  if 16 * (runs.length + 1) ≤ lowest ∧ torn < slot then
    (runs ++ [{ first := torn, stop := min stop slot, count := 0, void := true }], page.isNone || decide (slot < stop))
  else if runs = [] then ([{ first := torn, stop := stop, count := 0, void := true }], true)
  else (extendLast (min stop own) runs, true)

/-- The walk ended with no torn record: the runs are sealed (R147). -/
def State.sealWalked (r : Recovery) (recs : List (Nat × Nat)) (s : State) : State :=
  s.nextSeal r (runSpans recs) false

/-- The walk ended at a torn record: the runs and the VOID span are sealed (R147). -/
def State.sealTorn (r : Recovery) (recs : List (Nat × Nat)) (torn : Nat) (page : Option Nat) (s : State) : State :=
  let plan := sealPlan (runSpans recs) r.lowest torn page
  s.nextSeal r plan.1 plan.2

/-! ## The record walk (R146) -/

/-- The search for a blank page goes on at a page, or has none left within its limits (R147). -/
def State.searchPage (r : Recovery) (torn page : Nat) (recs : List (Nat × Nat)) (s : State) : State :=
  if page - torn ≤ 65535 ∧ page < r.size then
    (s.withScan { r with stage := .blankSearch torn page recs }).scanRead page 256
  else s.sealTorn r recs torn none

/-- The record at a position is torn (R146): the search begins at the first page that begins above it. -/
def State.tornAt (r : Recovery) (p : Nat) (recs : List (Nat × Nat)) (s : State) : State :=
  s.searchPage { r with recordEnd := p } p ((p / 256 + 1) * 256) recs

/-- The record walk stands at a position: it ends at the index start, else the bytes there are read (R146); past the
store there are none, and the record is torn (log 14). -/
def State.walkTo (r : Recovery) (p : Nat) (recs : List (Nat × Nat)) (s : State) : State :=
  if p = r.lowest then s.sealWalked { r with recordEnd := p } recs
  else if r.lowest < p ∧ r.size ≤ p then s.tornAt r p recs
  else (s.withScan { r with recordEnd := p, stage := .recordWalk p recs }).scanRead p (min 256 (r.size - p))

/-- The bytes at a position of the record walk were read (R146). -/
def State.walkRead (r : Recovery) (p : Nat) (recs : List (Nat × Nat)) (bs : List Byte) (s : State) : State :=
  if byteAt bs 0 = Memory.blank then
    if (bs.take (256 - p % 256)).all (fun b => b == Memory.blank) then s.sealWalked r recs else s.tornAt r p recs
  else if wellFormedRecord bs ∧ p + (byteAt bs 1).toNat ≤ r.lowest then
    s.walkTo r (p + (byteAt bs 1).toNat) (recs ++ [(p, (byteAt bs 1).toNat)])
  else s.tornAt r p recs

/-! ## The index walk (R144, R145) -/

/-- The scan after a good slot (R144, R145, R153). -/
def Recovery.goodSlot (r : Recovery) (b : BatchInfo) : Recovery :=
  let marked := r.runOpen && b.mark != 0xFF#8
  { r with lastNumber := b.number, newestEnd := b.stop, maxEnd := max r.maxEnd b.stop, lowest := r.slot,
           total := r.total + 1, delivered := if marked then r.delivered + 1 else r.delivered, runOpen := marked,
           pointer := if marked then r.slot - 16 else r.pointer, nextBatch := b.number + 1 }

/-- Whether a slot describes a batch for the index walk (R144): good, and numbered above the good slot above it. -/
def goodIndex (lastNumber : Nat) (bs : List Byte) : Option BatchInfo :=
  (parseIndex bs).filter fun b => decide (lastNumber < b.number)

/-- The walk ends and the record walk starts at the end of the newest batch (R144, R146). -/
def State.indexWalkEnds (r : Recovery) (s : State) : State := s.walkTo r r.newestEnd []

/-- The walk goes on below a slot that was good or dead, or ends (R144). -/
def State.nextSlot (r : Recovery) (s : State) : State :=
  if r.slot < 16 ∨ r.slot - 16 < r.maxEnd then s.indexWalkEnds r
  else (s.withScan { r with slot := r.slot - 16 }).scanRead (r.slot - 16) 16

/-- The 16 bytes of the walk's slot were read (R144). -/
def State.slotWalked (r : Recovery) (bs : List Byte) (s : State) : State :=
  if bs.all (fun b => b == Memory.blank) then s.indexWalkEnds r
  else
    match goodIndex r.lastNumber bs with
    | some b => s.nextSlot (r.goodSlot b)
    | none => s.nextSlot { r with lowest := r.slot }

/-! ## The events -/

/-- A read of the scan ended good, over these bytes. -/
def State.scanReadGood (r : Recovery) (bs : List Byte) (s : State) : State :=
  match r.stage with
  | .indexWalk => s.slotWalked r bs
  | .recordWalk p recs => s.walkRead r p recs bs
  | .blankSearch torn page recs =>
    if bs.all (fun b => b == Memory.blank) then s.sealTorn r recs torn (some page)
    else s.searchPage r torn (page + 256) recs
  | .sealing _ _ => s

/-- RECOVERY_READ_END on the operation in progress. -/
def State.recoveryReadEnded (good : Bool) (s : State) : State :=
  match s.flash.port, s.startup with
  | some (.read .recovery off len), some (.scanning r) =>
    if good then s.freePort.scanReadGood r (Memory.readN s.flash.store off len)
    else s.freePort.recoveryReadFailed r
  | _, _ => s

/-- A recovery seal's index program ended good (R147): the batch counts, the record end is the span's end. -/
def State.sealProgrammed (r : Recovery) (s : State) : State :=
  match r.stage with
  | .sealing (p :: rest) full =>
    s.nextSeal { r with total := r.total + 1, newestEnd := p.stop, recordEnd := p.stop } rest full
  | _ => s

/-- A recovery seal's index program failed (R150). -/
def State.sealProgramFailed (off : Nat) (r : Recovery) (s : State) : State :=
  ((s.recoveryEnds { r with recordEnd := r.lowest } .fault .good).setFlag .journalFault).captureFault off

/-- RECOVERY_INDEX_PROGRAM_END on the operation in progress. -/
def State.recoveryIndexEnded (e : FlashEnd) (s : State) : State :=
  match s.flash.port, s.startup with
  | some (.recoveryIndex off bs), some (.scanning r) =>
    match e with
    | .good => (s.endOp (.recoveryIndex off bs) .good).sealProgrammed r
    | .failed left => (s.endOp (.recoveryIndex off bs) (.failed left)).sealProgramFailed off r
  | _, _ => s

/-- PROGRAM_FAILURE on the operation in progress: of the run (R130) or of a recovery seal (R150). -/
def State.anyProgramFailed (left : List Byte) (s : State) : State :=
  match s.flash.port with
  | some (.recoveryIndex _ _) => s.recoveryIndexEnded (.failed left)
  | _ => s.programFailed left

/-- FLASH_READY (R143). -/
def execFlashReady (e : FlashEnd) (s : State) : Host.Outcome State Fault Refusal := event (State.flashIsReady e) s

/-- FLASH_READY_TIMEOUT (R143). -/
def execFlashReadyTimeout (s : State) : Host.Outcome State Fault Refusal := event State.readyTimedOut s

/-- IDENTIFICATION_RESPONSE (R143): the third byte is the capacity code. -/
def execIdentificationResponse (_b0 _b1 capacity : Byte) (s : State) : Host.Outcome State Fault Refusal :=
  event (State.identified capacity) s

/-- IDENTIFICATION_TIMEOUT (R143). -/
def execIdentificationTimeout (s : State) : Host.Outcome State Fault Refusal := event State.identTimedOut s

/-- RECOVERY_READ_END (R144, R150). -/
def execRecoveryReadEnd (good : Bool) (s : State) : Host.Outcome State Fault Refusal :=
  event (State.recoveryReadEnded good) s

/-- RECOVERY_INDEX_PROGRAM_END (R147, R150). -/
def execRecoveryIndexProgramEnd (e : FlashEnd) (s : State) : Host.Outcome State Fault Refusal :=
  event (State.recoveryIndexEnded e) s

/-- PROGRAM_FAILURE (R130). -/
def execProgramFailure (left : List Byte) (s : State) : Host.Outcome State Fault Refusal :=
  event (State.anyProgramFailed left) s

end Sys2Proof.Machine
end

