-- ==== Sys2Proof/Machine/Timers.lean ====
section
/-!
DEFINITION. The scheduler's own events (PASS_TIMER_EXPIRY, DUTY_REFILL, TRANSMIT_DONE, TRANSMIT_TIMEOUT,
SWEEP_WINDOW_END, CONFIRM_WINDOW_END) and the millisecond that passes when no command waits (log 1).
-/

namespace Sys2Proof.Machine

/-- The open leg's pass timer expires (R99). -/
def State.passExpires (s : State) : State :=
  match s.sched.openLeg with
  | none => s
  | some o =>
    if o.passExpired then s
    else
      (({ s with sched.openLeg := some { o with passLeft := 0, passExpired := true } } : State).scan).offerLane

/-- The refill event (R105). -/
def State.refills (s : State) : State :=
  ({ s with sched.credit := min (s.sched.credit + s.sched.refill) s.sched.capacity,
            sched.refillLeft := 1000 } : State).offerLane

/-- The transmitter's done input (R108): ignored while the lane is IDLE. -/
def State.transmitDone (s : State) : State :=
  match s.sched.tx with
  | none => s
  | some t => s.endTransmission t

/-- The timeout of the transmission in progress expires (R108). -/
def State.transmitTimesOut (s : State) : State :=
  match s.sched.tx with
  | none => s
  | some t => ((s.countTransmitTimeout).setFlag .transmitFault).endTransmission t

/-- PASS_TIMER_EXPIRY (R99). -/
def execPassTimerExpiry (s : State) : Host.Outcome State Fault Refusal := event State.passExpires s

/-- DUTY_REFILL (R105). -/
def execDutyRefill (s : State) : Host.Outcome State Fault Refusal := event State.refills s

/-- TRANSMIT_DONE (R108). -/
def execTransmitDone (s : State) : Host.Outcome State Fault Refusal := event State.transmitDone s

/-- TRANSMIT_TIMEOUT (R108). -/
def execTransmitTimeout (s : State) : Host.Outcome State Fault Refusal := event State.transmitTimesOut s

/-- SWEEP_WINDOW_END (R111). -/
def execSweepWindowEnd (serial : Nat) (s : State) : Host.Outcome State Fault Refusal :=
  event (State.sweepWindowEnded serial) s

/-- CONFIRM_WINDOW_END (R91). -/
def execConfirmWindowEnd (serial : Nat) (s : State) : Host.Outcome State Fault Refusal :=
  event (State.confirmWindowEnded serial) s

/-! ## A millisecond passes (log 1) -/

/-- The route clock runs while the phase is ACTIVE or CLOSED (R16). -/
def Roster.tick (r : Roster) : Roster :=
  let es := r.entries.map fun e => { e with window := e.window.map fun w => w - 1 }
  if r.phase = .active ∨ r.phase = .closed then
    if r.routeMs < 999 then { r with entries := es, routeMs := r.routeMs + 1 }
    else { r with entries := es, routeMs := 0, routeClock := r.routeClock + 1 }
  else { r with entries := es }

/-- The scheduler's timers run down. -/
def Sched.tick (q : Sched) : Sched :=
  { q with openLeg := q.openLeg.map fun o => { o with passLeft := o.passLeft - 1 },
           tx := q.tx.map fun t => { t with timeoutLeft := t.timeoutLeft - 1 },
           refillLeft := q.refillLeft - 1 }

/-- The ready wait of start-up runs down (R143). -/
def Startup.tick : Startup → Startup
  | .readyWait left => .readyWait (left - 1)
  | u => u

/-- One millisecond with no command: the run clock (R27), the route clock (R16) and every running timer. -/
def State.tick (s : State) : State :=
  if s.asserted then s
  else
    { s with
      runClock := s.runClock + 1, roster := s.roster.tick,
      pool.cands := s.pool.cands.map fun c => { c with holdLeft := c.holdLeft - 1 },
      sched := s.sched.tick, flash.portLeft := s.flash.portLeft - 1, startup := s.startup.map Startup.tick,
      upload.ackLeft := s.upload.ackLeft - 1, link.gapLeft := s.link.gapLeft - 1 }

end Sys2Proof.Machine
end

