-- ==== Sys2Proof/Machine/Dispatch.lean ====
section
/-!
DEFINITION. The meaning of each command, one arm a row.
-/

namespace Sys2Proof.Machine

/-- The command's effect on everything but the queue. -/
def exec (i : Instr) (s : State) : Host.Outcome State Fault Refusal :=
  match i with
  | .resetAssert => Sys2Proof.Machine.execResetAssert s
  | .resetRelease straps => Sys2Proof.Machine.execResetRelease straps s
  | .identify body => Sys2Proof.Machine.execIdentify body s
  | .restart body => Sys2Proof.Machine.execRestart body s
  | .radioSet body => Sys2Proof.Machine.execRadioSet body s
  | .flagsRead body => Sys2Proof.Machine.execFlagsRead body s
  | .flagsClear body => Sys2Proof.Machine.execFlagsClear body s
  | .flagsMask body => Sys2Proof.Machine.execFlagsMask body s
  | .countersRead body => Sys2Proof.Machine.execCountersRead body s
  | .classWrite body => Sys2Proof.Machine.execClassWrite body s
  | .legWrite body => Sys2Proof.Machine.execLegWrite body s
  | .rosterBegin body => Sys2Proof.Machine.execRosterBegin body s
  | .rosterLoad body => Sys2Proof.Machine.execRosterLoad body s
  | .rosterCommit body => Sys2Proof.Machine.execRosterCommit body s
  | .rosterEdit body => Sys2Proof.Machine.execRosterEdit body s
  | .rosterQuery body => Sys2Proof.Machine.execRosterQuery body s
  | .missedRead body => Sys2Proof.Machine.execMissedRead body s
  | .rosterDiscard body => Sys2Proof.Machine.execRosterDiscard body s
  | .legOpen body => Sys2Proof.Machine.execLegOpen body s
  | .legClose body => Sys2Proof.Machine.execLegClose body s
  | .legStatus body => Sys2Proof.Machine.execLegStatus body s
  | .routeClose body => Sys2Proof.Machine.execRouteClose body s
  | .journalStatus body => Sys2Proof.Machine.execJournalStatus body s
  | .batchSeal body => Sys2Proof.Machine.execBatchSeal body s
  | .journalClear body => Sys2Proof.Machine.execJournalClear body s
  | .uploadStart body => Sys2Proof.Machine.execUploadStart body s
  | .batchReceived body => Sys2Proof.Machine.execBatchReceived body s
  | .uploadStop body => Sys2Proof.Machine.execUploadStop body s
  | .linkFrameRefused kind body crc => Sys2Proof.Machine.execLinkFrameRefused kind body crc s
  | .linkOverrun kind body crc => Sys2Proof.Machine.execLinkOverrun kind body crc s
  | .linkByteReceived b => Sys2Proof.Machine.execLinkByteReceived b s
  | .linkFramingError => Sys2Proof.Machine.execLinkFramingError s
  | .gapTimerExpiry => Sys2Proof.Machine.execGapTimerExpiry s
  | .outboundFrameSent straps => Sys2Proof.Machine.execOutboundFrameSent straps s
  | .laneStart lane => Sys2Proof.Machine.execLaneStart lane s
  | .laneRecordTaken lane => Sys2Proof.Machine.execLaneRecordTaken lane s
  | .holdExpiry serial => Sys2Proof.Machine.execHoldExpiry serial s
  | .passTimerExpiry => Sys2Proof.Machine.execPassTimerExpiry s
  | .dutyRefill => Sys2Proof.Machine.execDutyRefill s
  | .transmitDone => Sys2Proof.Machine.execTransmitDone s
  | .transmitTimeout => Sys2Proof.Machine.execTransmitTimeout s
  | .sweepWindowEnd serial => Sys2Proof.Machine.execSweepWindowEnd serial s
  | .confirmWindowEnd serial => Sys2Proof.Machine.execConfirmWindowEnd serial s
  | .pageProgramEnd => Sys2Proof.Machine.execPageProgramEnd s
  | .indexProgramEnd => Sys2Proof.Machine.execIndexProgramEnd s
  | .programFailure left => Sys2Proof.Machine.execProgramFailure left s
  | .markProgramEnd e => Sys2Proof.Machine.execMarkProgramEnd e s
  | .sectorEraseEnd e => Sys2Proof.Machine.execSectorEraseEnd e s
  | .rebuildScanStart => Sys2Proof.Machine.execRebuildScanStart s
  | .rebuildReadEnd good => Sys2Proof.Machine.execRebuildReadEnd good s
  | .flashReady e => Sys2Proof.Machine.execFlashReady e s
  | .flashReadyTimeout => Sys2Proof.Machine.execFlashReadyTimeout s
  | .identificationResponse b0 b1 capacity => Sys2Proof.Machine.execIdentificationResponse b0 b1 capacity s
  | .identificationTimeout => Sys2Proof.Machine.execIdentificationTimeout s
  | .recoveryReadEnd good => Sys2Proof.Machine.execRecoveryReadEnd good s
  | .recoveryIndexProgramEnd e => Sys2Proof.Machine.execRecoveryIndexProgramEnd e s
  | .uploadSlotReadEnd => Sys2Proof.Machine.execUploadSlotReadEnd s
  | .uploadDataReadEnd => Sys2Proof.Machine.execUploadDataReadEnd s
  | .uploadReadFailure => Sys2Proof.Machine.execUploadReadFailure s
  | .ackTimerExpiry => Sys2Proof.Machine.execAckTimerExpiry s
  | .laneByteReceived lane b => Sys2Proof.Machine.execLaneByteReceived lane b s

end Sys2Proof.Machine
end

