-- ==== Sys2Proof/Safety.lean ====
section
/-!
DEFINITION. What a safe run is: the views of the state and the invariants that the statements speak of.
-/

namespace Sys2Proof.Machine

/-! ## Views -/

/-- The replies that wait or are being sent, oldest first. -/
def State.repliesOut (s : State) : List Reply :=
  (match s.link.sending with | some (.reply r) => [r] | _ => []) ++ s.link.replies

/-- The notices that wait or are being sent, oldest first. -/
def State.noticesOut (s : State) : List Notice :=
  (match s.link.sending with | some (.notice n) => [n] | _ => []) ++ s.link.notices

/-- A sealed batch apart from whether its index program was asked for. -/
def SealedBatch.plain (b : SealedBatch) : SealedBatch := { b with requested := false }

/-- An entry apart from its reply window. -/
def Entry.unwindowed (e : Entry) : Entry := { e with window := none }

/-- What the end of a step keeps of the part: all but the outbound frame, the engine's ready frame, the port's queue,
the marks of the seal list and the two lines. -/
structure Kept where
  asserted : Bool
  straps : BitVec 2
  runClock : BitVec 32
  intake : Intake
  roster : Roster
  pool : Pool
  sched : Sched
  journal : Journal
  seals : List SealedBatch
  store : List Host.Cell
  unfinished : Option FlashReq
  startup : Option Startup
  upload : Upload
  rate : BitVec 2
  rx : Receiver
  gapLeft : Nat
  replies : List Reply
  restarting : Bool
  notices : List Notice
  flags : BitVec 13
  mask : BitVec 13
  counters : GlobalCounters
  pending : List Instr
  draws : Nat

/-- The kept part of a state. -/
def State.kept (s : State) : Kept :=
  { asserted := s.asserted, straps := s.straps, runClock := s.runClock, intake := s.intake, roster := s.roster,
    pool := s.pool, sched := s.sched, journal := { s.journal with seals := [] },
    seals := s.journal.seals.map SealedBatch.plain, store := s.flash.store, unfinished := s.flash.unfinished,
    startup := s.startup, upload := { s.upload with ready := none, tailCrc := none, tailOut := false },
    rate := s.link.rate, rx := s.link.rx, gapLeft := s.link.gapLeft, replies := s.repliesOut,
    restarting := s.link.restarting, notices := s.noticesOut, flags := s.link.flags, mask := s.link.mask,
    counters := s.link.counters, pending := s.pending, draws := s.draws }


/-! ## Commands, frames and resets -/

/-- The row of a command of the van link. -/
def Cmd.row (c : Cmd) (b : List Byte) : Instr :=
  match c with
  | .identify => .identify b
  | .restart => .restart b
  | .radioSet => .radioSet b
  | .flagsRead => .flagsRead b
  | .flagsClear => .flagsClear b
  | .flagsMask => .flagsMask b
  | .countersRead => .countersRead b
  | .classWrite => .classWrite b
  | .legWrite => .legWrite b
  | .rosterBegin => .rosterBegin b
  | .rosterLoad => .rosterLoad b
  | .rosterCommit => .rosterCommit b
  | .rosterEdit => .rosterEdit b
  | .rosterQuery => .rosterQuery b
  | .rosterDiscard => .rosterDiscard b
  | .missedRead => .missedRead b
  | .legOpen => .legOpen b
  | .legClose => .legClose b
  | .legStatus => .legStatus b
  | .routeClose => .routeClose b
  | .journalStatus => .journalStatus b
  | .batchSeal => .batchSeal b
  | .journalClear => .journalClear b
  | .uploadStart => .uploadStart b
  | .batchReceived => .batchReceived b
  | .uploadStop => .uploadStop b

/-- The part takes the next frame that completes: the reset input is not asserted, no RESTART has been taken, and fewer
than 2 replies wait (R141, R168). -/
structure Listening (s : State) : Prop where
  awake : s.asserted = false
  running : s.link.restarting = false
  room : s.link.replies.length < 2

/-- The receiver after a frame has completed: it hunts, and no gap timer runs (R166, R167). -/
def State.received (s : State) : State := { s with link.rx := .hunt, link.gapLeft := 0 }

/-- A command's reply joins the queue with an outcome and data (R170). -/
def State.replied (c : Cmd) (o : ReplyCode) (data : List Byte) (s : State) : State :=
  s.pushReply (c.kind + 0x80) c.kind o data false

/-- The frame that completes with a row, if one does: kind, body and whether its CRC is good. -/
def State.frameOf (s : State) (i : Instr) : Option (Byte × List Byte × Bool) :=
  match i with
  | .identify b => some (Cmd.identify.kind, b, true)
  | .restart b => some (Cmd.restart.kind, b, true)
  | .radioSet b => some (Cmd.radioSet.kind, b, true)
  | .flagsRead b => some (Cmd.flagsRead.kind, b, true)
  | .flagsClear b => some (Cmd.flagsClear.kind, b, true)
  | .flagsMask b => some (Cmd.flagsMask.kind, b, true)
  | .countersRead b => some (Cmd.countersRead.kind, b, true)
  | .classWrite b => some (Cmd.classWrite.kind, b, true)
  | .legWrite b => some (Cmd.legWrite.kind, b, true)
  | .rosterBegin b => some (Cmd.rosterBegin.kind, b, true)
  | .rosterLoad b => some (Cmd.rosterLoad.kind, b, true)
  | .rosterCommit b => some (Cmd.rosterCommit.kind, b, true)
  | .rosterEdit b => some (Cmd.rosterEdit.kind, b, true)
  | .rosterQuery b => some (Cmd.rosterQuery.kind, b, true)
  | .rosterDiscard b => some (Cmd.rosterDiscard.kind, b, true)
  | .missedRead b => some (Cmd.missedRead.kind, b, true)
  | .legOpen b => some (Cmd.legOpen.kind, b, true)
  | .legClose b => some (Cmd.legClose.kind, b, true)
  | .legStatus b => some (Cmd.legStatus.kind, b, true)
  | .routeClose b => some (Cmd.routeClose.kind, b, true)
  | .journalStatus b => some (Cmd.journalStatus.kind, b, true)
  | .batchSeal b => some (Cmd.batchSeal.kind, b, true)
  | .journalClear b => some (Cmd.journalClear.kind, b, true)
  | .uploadStart b => some (Cmd.uploadStart.kind, b, true)
  | .batchReceived b => some (Cmd.batchReceived.kind, b, true)
  | .uploadStop b => some (Cmd.uploadStop.kind, b, true)
  | .linkFrameRefused k b crc => some (k, b, frameCrc k b == crc)
  | .linkOverrun k b crc => some (k, b, frameCrc k b == crc)
  | .linkByteReceived x =>
    match s.link.rx with
    | .check frame (lo :: _) =>
      some (byteAt frame 0, frame.tail, frameCrc (byteAt frame 0) frame.tail == BitVec.ofNat 16 (le [lo, x]))
    | _ => none
  | _ => none

/-- A row completes a good frame of a command. -/
def State.carries (s : State) (c : Cmd) (i : Instr) : Prop := ∃ b, s.frameOf i = some (c.kind, b, true)

/-- A row makes a reset take effect: the reset input is released, or the reply of a RESTART has been sent (R141). -/
def State.resets (s : State) (i : Instr) : Prop :=
  (∃ straps, i = .resetRelease straps) ∨
    ((∃ straps, i = .outboundFrameSent straps) ∧ ∃ r : Reply, s.link.sending = some (.reply r) ∧ r.restart = true)

/-- The part runs these rows one after another, if none stops it. -/
def runRows : List Instr → State → Option State
  | [], s => some s
  | i :: is, s =>
    match exec i s with
    | .next t => runRows is t
    | _ => none

/-! ## Bodies as the van's computer writes them (layout 11.3) -/

/-- The values that a class set may carry (R1, R2); `digits = 0` unsets the class. -/
structure ClassRec.InRange (c : ClassRec) : Prop where
  digits : c.digits = 0 ∨ (4 ≤ c.digits ∧ c.digits ≤ 9)
  mult : (c.digits ≠ 0 → 1 ≤ c.mult) ∧ c.mult < 65536
  tol : c.tol < 256
  rateLimit : c.rateLimit < 4294967296
  stopMinutes : c.stopMinutes ≤ 1048575
  leakHours : c.leakHours ≤ 6
  leakFloor : 1 ≤ c.leakFloor ∧ c.leakFloor < 65536
  weights : ∀ i : Fin 8, c.weights[i] ≤ 15
  threshold : c.threshold < 256
  retries : c.retries ≤ 3

/-- One class set of CLASS WRITE (layout 11.3). -/
def ClassRec.bytes (i : Fin 16) (c : ClassRec) : List Byte :=
  [BitVec.ofNat 8 i.val, BitVec.ofNat 8 c.digits] ++ toLE 2 c.mult ++ [BitVec.ofNat 8 c.tol] ++ toLE 4 c.rateLimit
    ++ toLE 3 c.stopMinutes ++ [BitVec.ofNat 8 c.leakHours] ++ toLE 2 c.leakFloor ++ [c.watch, c.alarm]
    ++ c.weights.toList.map (BitVec.ofNat 8)
    ++ [BitVec.ofNat 8 c.threshold, BitVec.ofNat 8 c.retries, if c.confirm then 1 else 0]

/-- The class a class set leaves: the unset class when its digits are 0 (R1). -/
def ClassRec.written (c : ClassRec) : ClassRec := if c.digits = 0 then .unset else c

/-- The values that an entry set may carry under a class table (R5). -/
structure Loaded.InRange (classes : Vector ClassRec 16) (l : Loaded) : Prop where
  serial : 1 ≤ l.serial ∧ l.serial ≤ 0xFFFFFFFE
  leg : l.leg ≠ 255#8
  cls : classes[l.cls.toNat].digits ≠ 0
  prevReg : l.prevReg < 10 ^ classes[l.cls.toNat].digits ∧ l.prevReg < 4294967296
  prevAge : l.prevAge ≤ 1048575
  carried : l.carried < 256

/-- One entry set of ROSTER LOAD (layout 11.3). -/
def Loaded.bytes (l : Loaded) : List Byte :=
  toLE 4 l.serial ++ [l.leg, l.cls.setWidth 8] ++ toLE 4 l.prevReg ++ toLE 3 l.prevAge
    ++ [l.refStatus, BitVec.ofNat 8 l.carried, l.attrs.byte]

/-- The mode byte of ROSTER EDIT (R185). -/
def EditMode.byte : EditMode → Byte
  | .write => 1 | .set => 2 | .clear => 3

/-! ## Invariants -/

/-- The roster's invariant (R9, R11, R19, R21): serials ascend strictly in the staging roster and in the live one; the
missed chain holds the serial of every MISSED entry once and no other; while the route is ACTIVE or CLOSED every leg's
five counts are those of its entries; in NONE and LOADING there is no live entry; the rebuild scan runs only in
COMMITTING. -/
structure RosterInv (s : State) : Prop where
  staged : (s.roster.staging.map Loaded.serial).Pairwise (· < ·)
  live : (s.roster.entries.map fun e => e.loaded.serial).Pairwise (· < ·)
  chainOnce : s.roster.missed.Nodup
  chain : ∀ n, n ∈ s.roster.missed ↔ ∃ e ∈ s.roster.entries, e.loaded.serial = n ∧ e.st = .missed
  counts : s.roster.phase = .active ∨ s.roster.phase = .closed →
    ∀ l : Byte, (s.leg l).counts = countLeg s.roster.entries l
  empty : s.roster.phase = .none ∨ s.roster.phase = .loading → s.roster.entries = []
  scan : s.roster.rebuild.isSome → s.roster.phase = .committing

/-- What the part's queues, lists and buffers hold at most (R42, R101, R124, R126, R168, R178). -/
structure WithinRoom (s : State) : Prop where
  replies : s.link.replies.length ≤ 2
  notices : s.link.notices.length ≤ 48
  wake : s.sched.queued ≤ 32
  slots : s.pool.cands.length ≤ 64
  oneEach : (s.pool.cands.map Candidate.serial).Nodup
  buffer : s.journal.held.length ≤ 1024
  held : s.journal.waits.countP WaitEntry.isHeld ≤ 4096

/-- The duty credit never exceeds its capacity, and the settings keep their ranges (R53, R105, R106), the RSSI floor of
every lane, enabled or not, among them (R29). -/
structure SettingsInRange (s : State) : Prop where
  credit : s.sched.credit ≤ s.sched.capacity
  capacity : 1000 ≤ s.sched.capacity ∧ s.sched.capacity ≤ 60000
  refill : 1 ≤ s.sched.refill ∧ s.sched.refill ≤ 100
  wakeDur : 5 ≤ s.sched.wakeDur ∧ s.sched.wakeDur ≤ 250
  replyWin : 1 ≤ s.sched.replyWin ∧ s.sched.replyWin ≤ 50
  holdTime : 1 ≤ s.pool.holdTime ∧ s.pool.holdTime ≤ 255
  floors : ∀ i : Fin 4, -140 ≤ s.intake.lanes[i].floor ∧ s.intake.lanes[i].floor ≤ -20

/-- The attention line and the indicator lines show what the state decides: the line is asserted while the reset input is
not and some flag is set whose number the mask enables (R176), and the code is that of the first line of the ordered
table that holds (R151). -/
structure LinesFollow (s : State) : Prop where
  attention : s.link.attention = true ↔
    s.asserted = false ∧ ∃ n : Fin 13, s.link.flags.getLsbD n.val = true ∧ s.link.mask.getLsbD n.val = true
  indicator : s.indicator =
    if s.asserted then 0
    else
      match s.startup with
      | some (.readyWait _) => 0
      | some .identWait => 0
      | some (.scanning _) => 1
      | none =>
        if s.journal.st = .fault then 9
        else if s.journal.st = .erasing then 8
        else if s.upload.st = .sending ∨ s.upload.st = .awaitAck then 7
        else
          match s.roster.phase with
          | .none => 2
          | .loading => 3
          | .committing => 4
          | .active => 5
          | .closed => 6

end Sys2Proof.Machine
end

