-- ==== Sys2Proof/Certificates/Slice0/Obligations.lean ====
section
/-!
DEFINITION. The statements for the provers, each a proposition `Obligations.<Name>`. OBLIGATIONS.json lists them with
the rules they rest on.
-/

open Sys2Proof Sys2Proof.Machine

/-! ## Steps, reset and invariants -/

/-- Every step takes the command at the front of the queue and does what `exec` says with the rest of the queue. -/
def Obligations.StepRunsFrontCommand : Prop :=
  ∀ (c : Instr) (rest : List Instr) (s : State),
    step { s with pending := c :: rest } = exec c { s with pending := rest }

/-- A thousand steps on an empty queue are one second (the model's choice, log 1): the run clock has counted 1,000 ms
(R27), the route clock one second in ACTIVE and CLOSED and none in the other phases (R16), and the roster is otherwise
as it was but for its reply windows. -/
def Obligations.IdleSecondAdvancesClocks : Prop :=
  ∀ s : State, s.pending = [] → s.asserted = false → s.roster.routeMs < 1000 →
    ∃ t : State, Sys2Proof.core.run 1000 s = .next t ∧ t.runClock = s.runClock + 1000 ∧
      t.roster.routeClock =
        (if s.roster.phase = .active ∨ s.roster.phase = .closed then s.roster.routeClock + 1
         else s.roster.routeClock) ∧
      t.roster.routeMs = s.roster.routeMs ∧
      { t.roster with routeClock := 0, entries := t.roster.entries.map Entry.unwindowed } =
        { s.roster with routeClock := 0, entries := s.roster.entries.map Entry.unwindowed } ∧
      t.journal = s.journal ∧ t.intake = s.intake ∧ t.flash.store = s.flash.store ∧ t.link.flags = s.link.flags ∧
      t.pending = []

/-- What a reset leaves (R142 and the rules it names), whatever the straps, the store and what the flash was doing: the
link rate is what the straps say, the store keeps its bytes, the outbound direction is free (R179), the port is idle
with nothing waiting, and a program or erase that was in progress stays the flash's to finish (R142). The model's own
queue and count of replies are kept (log 17). -/
def Obligations.ResetState : Prop :=
  ∀ (straps : BitVec 2) (m : List Host.Cell) (u : Option FlashReq) (q : List Instr) (d : Nat),
    let s := State.atReset straps m u q d
    s.link.rate = straps ∧ s.flash.store = m ∧ s.runClock = 0 ∧ s.asserted = false ∧
    (∀ i : Fin 4, s.intake.lanes[i] = ⟨.idle, -120, ⟨0, 0, 0, 0, 0, 0, 0⟩⟩) ∧ s.intake.forwarding = false ∧
    (∀ i : Fin 16, s.roster.classes[i].digits = 0) ∧
    (∀ l : Byte, s.leg l = ⟨0, 0, .unvisited, ⟨0, 0, 0, 0, 0⟩⟩) ∧
    s.roster.phase = .none ∧ s.roster.routeId = none ∧ s.roster.staging = [] ∧ s.roster.entries = [] ∧
    s.roster.missed = [] ∧ s.roster.routeClock = 0 ∧
    s.pool.cands = [] ∧ s.pool.holdTime = 30 ∧
    s.sched.openLeg = none ∧ s.sched.confirms = [] ∧ s.sched.sweeps = [] ∧ s.sched.tx = none ∧
    s.sched.credit = 0 ∧ s.sched.capacity = 36000 ∧ s.sched.refill = 10 ∧ s.sched.wakeDur = 40 ∧
    s.sched.replyWin = 20 ∧
    s.journal.st = .scanning ∧ s.journal.buffer = [] ∧ s.journal.seals = [] ∧ s.journal.waits = [] ∧
    s.journal.openBatch = none ∧ s.journal.capture = none ∧ s.journal.lastOp = .recovery ∧
    s.journal.lastResult = .running ∧ s.startup = some (.readyWait 4000) ∧
    s.upload.st = .idle ∧ s.link.rx = .hunt ∧ s.link.replies = [] ∧ s.link.notices = [] ∧
    s.link.sending = none ∧ s.link.restarting = false ∧
    s.flash.unfinished = u ∧ s.flash.port = none ∧ s.flash.waiting = [] ∧ s.pending = q ∧ s.draws = d ∧
    (∀ f : Flag, s.flag f = (f == .restarted)) ∧ s.link.mask = BitVec.allOnes 13 ∧ s.link.attention = true ∧
    s.indicator = 0 ∧ s.counterValues = List.replicate 38 0

/-- The five invariants hold right after reset. -/
def Obligations.InvariantsAtReset : Prop :=
  RosterInv .reset ∧ Memory.wf State.reset.flash.store ∧ WithinRoom .reset ∧ SettingsInRange .reset ∧
    LinesFollow .reset

/-- Every step keeps the roster's invariant: strictly ascending serials, a missed chain of exactly the MISSED meters,
leg counts that are the counts of the entries, no live entry in NONE and LOADING, and the rebuild scan only in
COMMITTING (R9, R11, R19, R21). -/
def Obligations.RosterInvKept : Prop := ∀ s t : State, RosterInv s → step s = .next t → RosterInv t

/-- Every step keeps the store in its canonical form.
Where the spec is silent the clauses follow the model's own choices that log 8 names. -/
def Obligations.StoreFormKept : Prop :=
  ∀ s t : State, Memory.wf s.flash.store → step s = .next t → Memory.wf t.flash.store

/-- No step overfills a queue, list or buffer: 2 replies, 48 notices, 32 wake requests, 64 candidates of which no
meter has two, 1,024 buffered bytes, 4,096 held records (R42, R101, R124, R126, R168, R178). -/
def Obligations.RoomKept : Prop := ∀ s t : State, WithinRoom s → step s = .next t → WithinRoom t

/-- Every step keeps the duty credit within its capacity and the radio settings within their ranges, the RSSI floors of
the four lanes among them (R29, R53, R105, R106, R174). -/
def Obligations.SettingsKept : Prop := ∀ s t : State, SettingsInRange s → step s = .next t → SettingsInRange t

/-- After every step the attention line is asserted exactly while the reset input is not and a flag is set that the
mask enables (R176), and the indicator lines show the code of the first line of the ordered table that holds (R151). -/
def Obligations.LinesFollowState : Prop := ∀ s t : State, LinesFollow s → step s = .next t → LinesFollow t

/-! ## Rules over all commands -/

/-- The route phase moves only along its life cycle (R7): NONE to LOADING by ROSTER BEGIN, LOADING to COMMITTING by
ROSTER COMMIT, COMMITTING to ACTIVE or back to LOADING by the rebuild scan, ACTIVE to CLOSED by ROUTE CLOSE, LOADING
or CLOSED to NONE by ROSTER DISCARD, and to NONE by a reset. -/
def Obligations.PhaseLifeCycle : Prop :=
  ∀ (i : Instr) (s t : State), (s.roster.rebuild.isSome → s.roster.phase = .committing) → exec i s = .next t →
    t.roster.phase = s.roster.phase ∨
    (s.resets i ∧ t.roster.phase = .none) ∨
    (s.roster.phase = .none ∧ t.roster.phase = .loading ∧ s.carries .rosterBegin i) ∨
    (s.roster.phase = .loading ∧ t.roster.phase = .committing ∧ s.carries .rosterCommit i) ∨
    (s.roster.phase = .committing ∧ t.roster.phase = .active ∧ (i = .rebuildScanStart ∨ i = .rebuildReadEnd true)) ∨
    (s.roster.phase = .committing ∧ t.roster.phase = .loading ∧ i = .rebuildReadEnd false) ∨
    (s.roster.phase = .active ∧ t.roster.phase = .closed ∧ s.carries .routeClose i) ∨
    ((s.roster.phase = .loading ∨ s.roster.phase = .closed) ∧ t.roster.phase = .none ∧ s.carries .rosterDiscard i)

/-- A flag once set stays set until FLAGS CLEAR names it or a reset takes effect (R175, R177). -/
def Obligations.FlagsStayUntilCleared : Prop :=
  ∀ (i : Instr) (s t : State) (n : Nat), exec i s = .next t → s.link.flags.getLsbD n = true →
    t.link.flags.getLsbD n = false →
      s.resets i ∨ ∃ b, s.frameOf i = some (0x05#8, b, true) ∧ b.length = 2 ∧ (le b).testBit n = true

/-- A byte of the store changes only when the row ends the flash operation in progress, or the flash reports ready, and
only inside the span of that operation, the bytes of a program, the mark byte of a slot, the sector of an erase, and
none of a read (R119, R127, R131, R134): with no operation in progress and none left to finish, every byte stays. Where
the spec is silent the clauses follow the model's own choices that log 9 names. -/
def Obligations.StoreKeptOutsideOperation : Prop :=
  (∀ (off len k : Nat) (bs : List Byte) (b : BatchInfo) (who : Reader),
    (FlashReq.page off bs).span = (off, bs.length) ∧ (FlashReq.index off bs).span = (off, bs.length) ∧
    (FlashReq.recoveryIndex off bs).span = (off, bs.length) ∧ (FlashReq.mark off b).span = (off + 15, 1) ∧
    (FlashReq.erase k).span = (k * 65536, 65536) ∧ (FlashReq.read who off len).span.2 = 0 ∧
    FlashReq.identify.span.2 = 0) ∧
  ∀ (i : Instr) (s t : State) (a : Nat), exec i s = .next t →
    ((∀ r, s.flash.port = some r ∨ s.flash.unfinished = some r → a < r.span.1 ∨ r.span.1 + r.span.2 ≤ a) ∨
      ¬ (i = .pageProgramEnd ∨ i = .indexProgramEnd ∨ (∃ l, i = .programFailure l) ∨ (∃ e, i = .markProgramEnd e) ∨
          (∃ e, i = .sectorEraseEnd e) ∨ (∃ e, i = .recoveryIndexProgramEnd e) ∨ (∃ e, i = .flashReady e))) →
    Memory.read1 t.flash.store a = Memory.read1 s.flash.store a

/-- The class table, the leg settings, the radio settings, the flag mask, the route identifier and the live roster's
loaded parts change only by the commands that write them, by the rebuild scan's failure and by a reset (R1, R3, R5, R7,
R29, R53, R106, R176): no event of the lanes, the timers, the transmitter or the flash touches them. No command touches
the queue.

That no time-driven row moves the run clock, which the idle step alone does (log 1), and that a row with nothing
waiting for it changes nothing (log 3), are the model's choices. -/
def Obligations.SettingsOnlyByCommands : Prop :=
  ∀ (i : Instr) (s t : State), exec i s = .next t → ¬ s.resets i →
    (t.roster.classes = s.roster.classes ∨ s.carries .classWrite i) ∧
    ((∀ l : Byte, (t.leg l).passCode = (s.leg l).passCode ∧ (t.leg l).budget = (s.leg l).budget) ∨
      s.carries .legWrite i) ∧
    (t.roster.routeId = s.roster.routeId ∨ s.carries .rosterBegin i ∨ s.carries .rosterDiscard i) ∧
    (t.roster.entries.map Entry.loaded = s.roster.entries.map Entry.loaded ∨ s.carries .rosterCommit i ∨
      s.carries .rosterDiscard i ∨ i = .rebuildReadEnd false) ∧
    (t.pool.holdTime = s.pool.holdTime ∧ t.sched.capacity = s.sched.capacity ∧ t.sched.refill = s.sched.refill ∧
        t.sched.wakeDur = s.sched.wakeDur ∧ t.sched.replyWin = s.sched.replyWin ∧
        t.intake.forwarding = s.intake.forwarding ∧ (∀ k : Fin 4, t.intake.lanes[k].floor = s.intake.lanes[k].floor) ∨
      s.carries .radioSet i) ∧
    (t.link.mask = s.link.mask ∨ s.carries .flagsMask i) ∧
    t.link.rate = s.link.rate ∧ t.runClock = s.runClock ∧ t.pending = s.pending

/-! ## The van link -/

/-- Every command that arrives while the part listens is answered at once by exactly one reply, behind the replies that
wait, of the command's reply kind, with the flags as they stand after it, and without data unless the outcome is DONE;
the receiver hunts again (R168, R170). A refused command, of any outcome but DONE and the MISMATCH of BATCH RECEIVED,
which counts (R161), has no other effect (R169). Where the spec is silent the clauses follow the model's own choices
that log 4 and log 17 name, the count of replies made among them. -/
def Obligations.EveryCommandAnswered : Prop :=
  (∀ (k e : Byte) (o : ReplyCode) (data : List Byte) (restart : Bool) (s : State),
    s.pushReply k e o data restart = { s with
      link.replies := s.link.replies ++ [⟨k, e, o, s.link.flags, data, restart⟩], draws := s.draws + 1 }) ∧
  ∀ (c : Cmd) (b : List Byte) (s : State), Listening s →
    ∃ (t : State) (r : Reply), exec (c.row b) s = .next t ∧ t.repliesOut = s.repliesOut ++ [r] ∧
      r.kind = c.kind + 0x80 ∧ r.echoed = c.kind ∧ r.flags = t.link.flags ∧ (r.outcome ≠ .done → r.data = []) ∧
      t.link.rx = .hunt ∧ t.link.gapLeft = 0 ∧ t.draws = s.draws + 1 ∧
      (r.outcome ≠ .done → r.outcome ≠ .mismatch → t = State.finish (s.received.replied c r.outcome []))

/-- The bytes of a frame on the link are the command: from a hunting receiver, the bytes of a good frame of a command
one by one do what the command's row does, when the part is at rest (nothing is left for the end of a step to do).
Where the spec is silent the clauses follow the model's own choices that log 4 names. -/
def Obligations.FrameBytesAreTheCommand : Prop :=
  ∀ (c : Cmd) (b : List Byte) (s t : State), s.asserted = false → s.finish = s → s.link.rx = .hunt → b.length ≤ 250 →
    exec (c.row b) s = .next t → runRows ((wireBytes c.kind b).map Instr.linkByteReceived) s = some t

/-- The receiver's states, byte by byte (R166, R167): hunting drops every byte but 0xA5, a length outside 1..251 hunts
again, the kind and body and then the first CRC byte are stored; the second completes the frame, which is taken as the
row of its frame takes it, whether its command's, or one of a bad CRC or an unknown kind, whose answers
FramesTurnedAway states; a framing error and the gap timer discard the frame begun, each counted on its own counter,
and do nothing while hunting.

Where the spec is silent the clauses follow the model's own choices that log 2, 3, 4 and 25 name. -/
def Obligations.ReceiverByByte : Prop :=
  ∀ s : State, s.asserted = false →
    (s.link.rx = .hunt → ∀ x : Byte, exec (.linkByteReceived x) s = .next
      (if x = 0xA5 then { s with link.rx := .length, link.gapLeft := 5 } else s).finish) ∧
    (s.link.rx = .length → ∀ x : Byte, exec (.linkByteReceived x) s = .next
      (if 1 ≤ x.toNat ∧ x.toNat ≤ 251 then { s with link.rx := .body x.toNat [], link.gapLeft := 5 }
       else s.received).finish) ∧
    (∀ n got, s.link.rx = .body n got → ∀ x : Byte, exec (.linkByteReceived x) s = .next
      (if got.length + 1 < n then { s with link.rx := .body n (got ++ [x]), link.gapLeft := 5 }
       else { s with link.rx := .check (got ++ [x]) [], link.gapLeft := 5 }).finish) ∧
    (∀ frame, s.link.rx = .check frame [] → ∀ x : Byte, exec (.linkByteReceived x) s = .next
      (State.finish { s with link.rx := .check frame [x], link.gapLeft := 5 })) ∧
    (∀ frame lo, s.link.rx = .check frame [lo] → ∀ x : Byte,
      let crc := BitVec.ofNat 16 (le [lo, x])
      exec (.linkByteReceived x) s = exec (.linkFrameRefused (byteAt frame 0) frame.tail crc) s ∧
      exec (.linkByteReceived x) s = exec (.linkOverrun (byteAt frame 0) frame.tail crc) s ∧
      (∀ (c : Cmd) (b : List Byte), frame = c.kind :: b → frameCrc c.kind b = crc →
        exec (.linkByteReceived x) s = exec (c.row b) s) ∧
      (Listening s → frameCrc (byteAt frame 0) frame.tail ≠ crc →
        exec (.linkByteReceived x) s = .next (State.finish
          (State.pushReply 0x80 0 .check [] false
            { s.received with link.counters.linkCheck := min (s.link.counters.linkCheck + 1) 65535 })))) ∧
    (s.link.rx ≠ .hunt →
      exec .linkFramingError s = .next (State.finish
        { s.received with link.counters.linkCheck := min (s.link.counters.linkCheck + 1) 65535 }) ∧
      exec .gapTimerExpiry s = .next (State.finish
        { s.received with link.counters.gapAbort := min (s.link.counters.gapAbort + 1) 65535 })) ∧
    (s.link.rx = .hunt → exec .linkFramingError s = .next s.finish ∧ exec .gapTimerExpiry s = .next s.finish)

/-- A complete frame that is not a good frame of a command is refused and nothing else happens (steps 1 and 2 of R169,
R170): CHECK, with the link check counter, for a bad CRC; UNKNOWN for a kind that no command has, which the reply's
kind mirrors when it lies in 0x01..0x3F.

A complete frame that finds 2 replies waiting is discarded whatever it is: it is counted as an overrun, it is not
answered and it has no effect (R168).
Where the spec is silent the clauses follow the model's own choices that log 4 names. -/
def Obligations.FramesTurnedAway : Prop :=
  (∀ (k : Byte) (b : List Byte) (crc : Word16) (s : State), Listening s →
    (frameCrc k b ≠ crc →
      exec (.linkFrameRefused k b crc) s = .next (State.finish
        (({ s.received with link.counters.linkCheck := min (s.link.counters.linkCheck + 1) 65535 } : State).pushReply
          0x80 0 .check [] false))) ∧
    (frameCrc k b = crc → (∀ c : Cmd, c.kind ≠ k) →
      exec (.linkFrameRefused k b crc) s = .next (State.finish
        (s.received.pushReply (if 1 ≤ k.toNat ∧ k.toNat ≤ 63 then k + 0x80 else 0x80) k .unknown [] false)))) ∧
  (∀ s : State, s.asserted = false → s.link.restarting = false → 2 ≤ s.link.replies.length →
    (∀ (k : Byte) (b : List Byte) (crc : Word16), exec (.linkOverrun k b crc) s = .next (State.finish
      { s.received with link.counters.overrun := min (s.link.counters.overrun + 1) 65535 })) ∧
    (∀ (c : Cmd) (b : List Byte), exec (c.row b) s = .next (State.finish
      { s.received with link.counters.overrun := min (s.link.counters.overrun + 1) 65535 })))

/-- Steps 3 and 4 of R169 by the table of R171: a command outside its route phases is refused NOT_NOW; within them,
while a long operation runs (start-up, the rebuild scan or the journal erase), every command is refused BUSY but
IDENTIFY, RESTART, FLAGS READ, FLAGS CLEAR, FLAGS MASK, COUNTERS READ and JOURNAL STATUS. A refused command has no
effect. -/
def Obligations.RefusedByPhaseOrBusy : Prop :=
  (∀ s : State, s.longOp = true ↔ s.startup.isSome ∨ s.roster.rebuild.isSome ∨ s.journal.st = .erasing) ∧
  ∀ (c : Cmd) (b : List Byte) (s : State), Listening s →
    let p := s.roster.phase
    let fits := (c = .classWrite ∨ c = .rosterBegin ∨ c = .journalClear → p = .none) ∧
      (c = .legWrite → p = .none ∨ p = .loading) ∧ (c = .rosterLoad ∨ c = .rosterCommit → p = .loading) ∧
      (c = .rosterDiscard → p = .loading ∨ p = .closed) ∧
      (c = .rosterEdit ∨ c = .legOpen ∨ c = .legClose ∨ c = .routeClose → p = .active) ∧
      (c = .rosterQuery ∨ c = .missedRead ∨ c = .legStatus → p = .active ∨ p = .closed) ∧
      (c = .uploadStart → p = .none ∨ p = .closed)
    (¬ fits → exec (c.row b) s = .next (State.finish (s.received.replied c .notNow []))) ∧
    (fits → (s.startup.isSome ∨ s.roster.rebuild.isSome ∨ s.journal.st = .erasing) →
      c ∉ [Cmd.identify, .restart, .flagsRead, .flagsClear, .flagsMask, .countersRead, .journalStatus] →
      exec (c.row b) s = .next (State.finish (s.received.replied c .busy [])))

/-- The commands that only report answer DONE with their data and change nothing else: IDENTIFY (R172), FLAGS READ
(R177), ROSTER QUERY (R24), MISSED READ (R20), LEG STATUS for a leg that is not open (R100), JOURNAL STATUS (R139).
Where the spec is silent the clauses follow the model's own choices that log 15, 17 names. -/
def Obligations.ReportsChangeNothing : Prop :=
  ∀ s : State, Listening s →
    exec (.identify []) s = .next (State.finish (s.received.replied .identify .done
      (toLE 2 0x3610 ++ [1, s.link.rate.setWidth 8, s.roster.phase.code, if s.roster.routeId.isSome then 1 else 0]
        ++ toLE 4 (s.roster.routeId.getD (Config.absentRouteId s.draws)) ++ [s.journal.st.code, s.upload.st.code]
        ++ toLE 4 s.runClock.toNat))) ∧
    exec (.flagsRead []) s = .next (State.finish (s.received.replied .flagsRead .done (toLE 2 s.link.mask.toNat))) ∧
    exec (.journalStatus []) s = .next (State.finish (s.received.replied .journalStatus .done
      ([s.journal.st.code] ++ toLE 4 s.journal.size ++ toLE 4 s.journal.recordEnd ++ toLE 4 s.journal.indexStart
        ++ toLE 4 (s.journal.indexStart - s.journal.recordEnd) ++ toLE 2 s.journal.total ++ toLE 2 s.journal.delivered
        ++ (match s.journal.openBatch with
            | some o => toLE 2 o.number ++ [BitVec.ofNat 8 o.count]
            | none => ([0, 0, 0] : List Byte))
        ++ toLE 2 s.journal.seals.length ++ toLE 2 s.journal.buffer.flatten.length ++ toLE 2 s.journal.waits.length
        ++ toLE 4 s.journal.nextBatch
        ++ (match s.journal.capture with
            | some (off, n) => toLE 4 off ++ toLE 2 n
            | none => ([0xFF, 0xFF, 0xFF, 0xFF, 0, 0] : List Byte))
        ++ [s.journal.lastOp.code, s.journal.lastResult.code]))) ∧
    ((s.roster.phase = .active ∨ s.roster.phase = .closed) → s.longOp = false →
      (∀ (b : List Byte) (e : Entry), b.length = 4 → s.entry? (le b) = some e →
        exec (.rosterQuery b) s = .next (State.finish (s.received.replied .rosterQuery .done
          (toLE 4 e.loaded.serial
            ++ [e.loaded.leg, e.loaded.cls.setWidth 8, BitVec.ofNat 8 e.loaded.carried, e.attrs.byte, e.st.code]
            ++ toLE 4 e.prevReg ++ toLE 3 e.loaded.prevAge
            ++ toLE 4 (e.readingMinute.getD (Config.absentReadingMinute s.draws))
            ++ [e.refStatus, BitVec.ofNat 8 e.totalScore, BitVec.ofNat 8 e.attempts,
                e.lastSeq.getD (Config.absentSequence s.draws),
                (if e.readingMinute.isSome then 1 else 0) ||| (if e.lastSeq.isSome then 2 else 0)
                  ||| (if (s.candOf? e.loaded.serial).isSome then 4 else 0)])))) ∧
      (∀ n < 4096, exec (.missedRead (toLE 2 n)) s = .next (State.finish (s.received.replied .missedRead .done
        (toLE 2 s.roster.missed.length ++ [BitVec.ofNat 8 (min 40 (s.roster.missed.length - n))]
          ++ ((s.roster.missed.drop n).take 40).flatMap (toLE 4))))) ∧
      (∀ l : Byte, (∀ o, s.sched.openLeg = some o → o.leg ≠ l) →
        exec (.legStatus [l]) s = .next (State.finish (s.received.replied .legStatus .done
          ([l, (s.leg l).st.code, (s.leg l).passCode, (s.leg l).budget] ++ (s.leg l).counts.bytes
            ++ List.replicate 14 0)))) ∧
      (∀ o, s.sched.openLeg = some o →
        exec (.legStatus [o.leg]) s = .next (State.finish (s.received.replied .legStatus .done
          ([o.leg, (s.leg o.leg).st.code, (s.leg o.leg).passCode, (s.leg o.leg).budget] ++ (s.leg o.leg).counts.bytes
            ++ [(1 : Byte)] ++ toLE 2 (if o.passExpired then 65535 else o.passLeft / 1000)
            ++ [BitVec.ofNat 8 o.budget, if o.settled then 1 else 0, BitVec.ofNat 8 s.sched.confirms.length,
                BitVec.ofNat 8 s.sched.sweeps.length, if s.sched.tx.isSome then 1 else 0]
            ++ toLE 4 (match s.sched.tx with
                | some x => x.serial
                | none => Config.absentTransmitSerial s.draws)
            ++ toLE 2 s.sched.credit)))))

/-- FLAGS CLEAR clears exactly the flags it names, and the first-fault capture with JOURNAL_FAULT; FLAGS MASK sets the
mask; COUNTERS READ reports the 38 counters and, asked to, zeroes them; nothing else changes (R131, R176, R177, R180).
The flags have the numbers of R175, a set flag is one bit, and the counters are reported lane by lane and then the ten
global ones (R39, R180). -/
def Obligations.FlagsAndCounters : Prop :=
  ([Flag.restarted, .commitDone, .tamper, .missed, .legSettled, .journalLow, .journalFull, .journalFault, .uploadDone,
    .uploadStalled, .noticeLoss, .operationFailed, .transmitFault].map Flag.number = List.range 13) ∧
  (∀ (f : Flag) (s : State), s.flag f = s.link.flags.getLsbD f.number ∧
    s.setFlag f = { s with link.flags := s.link.flags ||| BitVec.ofNat 13 (2 ^ f.number) } ∧
    s.counterValues = ((List.finRange 4).flatMap fun i =>
      let c := s.intake.lanes[i].counters
      [c.taken, c.checkFail, c.belowFloor, c.foreign, c.repeated, c.stale, c.unsupported]) ++
      (let g := s.link.counters
       [g.outOfRange, g.forcedClose, g.refusal, g.noticeDropped, g.linkCheck, g.overrun, g.gapAbort,
        g.transmitTimeout, g.unknownSerial, g.badRecord])) ∧
  ∀ s : State, Listening s →
    (∀ v, 0 < v → v < 8192 → exec (.flagsClear (toLE 2 v)) s = .next (State.finish
      (State.replied .flagsClear .done []
        { s.received with
          link.flags := s.link.flags &&& ~~~(BitVec.ofNat 13 v),
          journal.capture := if v.testBit 7 then none else s.journal.capture }))) ∧
    (∀ v < 8192, exec (.flagsMask (toLE 2 v)) s = .next (State.finish
      (State.replied .flagsMask .done (toLE 2 v) { s.received with link.mask := BitVec.ofNat 13 v }))) ∧
    exec (.countersRead [0]) s = .next (State.finish
      (s.received.replied .countersRead .done (s.counterValues.flatMap (toLE 2)))) ∧
    exec (.countersRead [1]) s = .next (State.finish
      (State.replied .countersRead .done (s.counterValues.flatMap (toLE 2))
        { s.received with
          intake.lanes := s.intake.lanes.map fun l => { l with counters := ⟨0, 0, 0, 0, 0, 0, 0⟩ },
          link.counters := ⟨0, 0, 0, 0, 0, 0, 0, 0, 0, 0⟩ }))

/-- RADIO SET applies every setting of its body at once (R28, R29, R53, R106, R174): the credit is clamped to the new
capacity, the lanes enabled by the mask keep their state or become IDLE and take their floors in ascending lane order,
the others are disabled and keep theirs; then the transmit lane is offered the head of the queue.
Where the spec is silent the clauses follow the model's own choices that log 15 names. -/
def Obligations.RadioSetApplies : Prop :=
  ∀ (s : State) (m hold dw rw refill fwd : Byte) (cap : Nat) (floors : List Byte), Listening s → s.longOp = false →
    m.toNat < 16 → 1 ≤ hold.toNat → 5 ≤ dw.toNat → dw.toNat ≤ 250 → 1 ≤ rw.toNat → rw.toNat ≤ 50 → 1000 ≤ cap →
    cap ≤ 60000 → 1 ≤ refill.toNat → refill.toNat ≤ 100 → fwd.toNat < 2 →
    floors.length = ((List.range 4).countP fun i => m.getLsbD i) →
    (∀ f ∈ floors, 0x74 ≤ f.toNat ∧ f.toNat ≤ 0xEC) →
      ∃ u : State, u.pool.holdTime = hold.toNat ∧ u.sched.wakeDur = dw.toNat ∧ u.sched.replyWin = rw.toNat ∧
        u.sched.capacity = cap ∧ u.sched.credit = min s.sched.credit cap ∧ u.sched.refill = refill.toNat ∧
        u.intake.forwarding = (fwd == 1) ∧
        (∀ i : Fin 4, u.intake.lanes[i].counters = s.intake.lanes[i].counters ∧
          (m.getLsbD i.val = true →
            u.intake.lanes[i].st = (if s.intake.lanes[i].st = .disabled then .idle else s.intake.lanes[i].st) ∧
            u.intake.lanes[i].floor =
              ((byteAt floors ((List.range i.val).countP fun k => m.getLsbD k)).toNat : Int) - 256) ∧
          (m.getLsbD i.val = false →
            u.intake.lanes[i].st = .disabled ∧ u.intake.lanes[i].floor = s.intake.lanes[i].floor)) ∧
        { u with intake := s.intake, pool.holdTime := s.pool.holdTime,
                 sched := { u.sched with wakeDur := s.sched.wakeDur, replyWin := s.sched.replyWin,
                                         capacity := s.sched.capacity, credit := s.sched.credit,
                                         refill := s.sched.refill } } = s.received ∧
        exec (.radioSet ([m, hold, dw, rw] ++ toLE 2 cap ++ [refill, fwd] ++ floors)) s = .next (State.finish
          (u.offerLane.replied .radioSet .done (toLE 2 u.offerLane.sched.credit)))

/-- A reset takes effect when the reset input is released, and when the reply of a RESTART has been sent: everything is
as after reset, but the flash keeps its bytes and finishes a program or erase in progress (R141, R142).

While the reset input is asserted the part sends nothing, drives no wake request and issues nothing to the flash, its
attention line is released and its indicator code is 0, a program or erase in progress runs on in the flash, and
nothing that reaches it has an effect (R141, R176).

A RESTART is taken and answered, and from then until the reset takes effect every frame is discarded uncounted (R141,
R173). Where the spec is silent the clauses follow the model's own choices that log 5, 11 and 17 name. -/
def Obligations.ResetAndRestart : Prop :=
  (∀ (straps : BitVec 2) (s : State),
    let left := match s.flash.port with
      | some (.read _ _ _) => s.flash.unfinished
      | some .identify => s.flash.unfinished
      | some r => some r
      | none => s.flash.unfinished
    exec (.resetRelease straps) s = .next (State.atReset straps s.flash.store left s.pending s.draws) ∧
    (∀ r : Reply, s.asserted = false → s.link.sending = some (.reply r) → r.restart = true →
      exec (.outboundFrameSent straps) s = .next (State.atReset straps s.flash.store left s.pending s.draws))) ∧
  ((∀ s : State, ∃ t, exec .resetAssert s = .next t ∧ t.asserted = true ∧ t.link.sending = none ∧ t.sched.tx = none ∧
    t.flash.port = none ∧ t.flash.waiting = [] ∧ t.link.attention = false ∧ t.indicator = 0 ∧
    t.flash.store = s.flash.store ∧ t.pending = s.pending ∧
    t.flash.unfinished = (match s.flash.port with
      | some (.read _ _ _) => s.flash.unfinished
      | some .identify => s.flash.unfinished
      | some r => some r
      | none => s.flash.unfinished)) ∧
  (∀ (s : State) (i : Instr), s.asserted = true → i ≠ .resetAssert → (∀ straps, i ≠ .resetRelease straps) →
    exec i s = .next s)) ∧
  ((∀ s : State, Listening s → exec (.restart []) s = .next (State.finish
    (State.pushReply 0x82 0x02 .done [] true { s.received with link.restarting := true }))) ∧
  (∀ s : State, s.asserted = false → s.link.restarting = true → ∀ (i : Instr) (f : Byte × List Byte × Bool),
    s.frameOf i = some f → exec i s = .next s.received.finish))

/-- The last byte of a frame has been sent: the outbound direction is free for the next frame, and after the tail of
the current batch the engine awaits its acknowledgement for 20,000 ms (R158, R163, R179).

The acknowledgement timer expires (R163): an engine in AWAIT_ACK stalls for TIMEOUT with UPLOAD_STALLED set, the
batch stays undelivered and the mismatch count stays; in any other state nothing happens.
Where the spec is silent the clauses follow the model's own choices that log 2, 3 names. -/
def Obligations.AcknowledgementAwaited : Prop :=
  (∀ (straps : BitVec 2) (s : State) (f : OutFrame), s.asserted = false → s.link.sending = some f →
    (∀ r, f = .reply r → r.restart = false) →
    (¬ ((∃ n crc d, f = .upload (.tail n crc d)) ∧ s.upload.tailOut = true ∧ s.upload.st = .sending ∧
        s.upload.stage = .streaming) →
      exec (.outboundFrameSent straps) s = .next (State.finish { s with link.sending := none })) ∧
    (∀ n crc d, f = .upload (.tail n crc d) → s.upload.tailOut = true → s.upload.st = .sending →
      s.upload.stage = .streaming →
      exec (.outboundFrameSent straps) s = .next (State.finish
        { s with link.sending := none, upload.st := .awaitAck, upload.ackLeft := 20000, upload.tailOut := false }))) ∧
  (∀ s : State, s.asserted = false →
    (s.upload.st = .awaitAck →
      exec .ackTimerExpiry s = .next (State.finish (State.setFlag .uploadStalled
        { s with upload.st := .stalled, upload.stall := some .timeout, upload.ready := none, upload.tailOut := false,
                 upload.ackLeft := 0 }))) ∧
    (s.upload.st ≠ .awaitAck → exec .ackTimerExpiry s = .next s.finish))

/-- The end of a step, whole. A free outbound direction takes the front reply, else the ready upload frame, else the
front notice, and a direction in use takes nothing (R179). When the ready frame is taken: a tail is out, and only the
acknowledgement is awaited; a head or a data frame of a batch that is VOID or whose bytes are all sent makes the tail
ready, with the running CRC, or the index record's for a VOID batch, and the mismatch mark (R158); any other has the
batch's next 240 bytes at most read (R156, R157). With bytes held and no page program in hand, one is requested for the
bytes up to the page's end (R126); the front sealed batch's index program is requested once its bytes are programmed
(R129). A free port issues the first of the waiting requests of the least rank: page programs, then index and mark
programs, then erases, then reads and the identification, each kind of its rank and its time limit in milliseconds
(R127, R143), but no read while the journal is ERASING (R120); a port in use goes on. All that `kept` holds stays.
Where the spec is silent the clauses follow the model's own choices that log 6 and 7 name. -/
def Obligations.EndOfStep : Prop :=
  (∀ (off len k : Nat) (bs : List Byte) (b : BatchInfo) (who : Reader),
    (FlashReq.page off bs).rank = 0 ∧ (FlashReq.index off bs).rank = 1 ∧ (FlashReq.recoveryIndex off bs).rank = 1 ∧
    (FlashReq.mark off b).rank = 1 ∧ (FlashReq.erase k).rank = 2 ∧ (FlashReq.read who off len).rank = 3 ∧
    FlashReq.identify.rank = 3 ∧
    (FlashReq.page off bs).limit = 10 ∧ (FlashReq.index off bs).limit = 10 ∧
    (FlashReq.recoveryIndex off bs).limit = 10 ∧ (FlashReq.mark off b).limit = 10 ∧ (FlashReq.erase k).limit = 4000 ∧
    (FlashReq.read who off len).limit = 5 ∧ FlashReq.identify.limit = 5) ∧
  ∀ s : State, s.finish.kept = s.kept ∧
    (∀ f, s.link.sending = some f →
      s.finish.link.sending = some f ∧ s.finish.link.replies = s.link.replies ∧
        s.finish.link.notices = s.link.notices) ∧
    (s.link.sending = none →
      (∀ r rs, s.link.replies = r :: rs → s.finish.link.sending = some (.reply r) ∧ s.finish.link.replies = rs) ∧
      (s.link.replies = [] →
        (∀ f, s.upload.ready = some f → s.finish.link.sending = some (.upload f)) ∧
        (s.upload.ready = none → s.finish.link.sending = s.link.notices.head?.map OutFrame.notice ∧
          s.finish.link.notices = s.link.notices.tail))) ∧
    ((s.link.sending.isSome ∨ s.link.replies ≠ [] ∨ s.upload.ready = none) → s.finish.upload = s.upload) ∧
    (∀ f b, s.link.sending = none → s.link.replies = [] → s.upload.ready = some f → s.upload.batch = some b →
      ((∃ n c d, f = .tail n c d) → s.finish.upload = { s.upload with ready := none, tailOut := true }) ∧
      ((∀ n c d, f ≠ .tail n c d) → (b.void = true ∨ b.length ≤ s.upload.sendOffset) →
        let crc := if b.void then b.crc else s.upload.runCrc
        s.finish.upload = { s.upload with tailCrc := some crc, ready := some (.tail b.number crc (crc != b.crc)) }) ∧
      ((∀ n c d, f ≠ .tail n c d) → b.void = false → s.upload.sendOffset < b.length →
        s.finish.upload = { s.upload with ready := none })) ∧
    ∃ data page index : List FlashReq,
      (∀ f b, s.link.sending = none → s.link.replies = [] → s.upload.ready = some f → s.upload.batch = some b →
        (∀ n c d, f ≠ .tail n c d) → b.void = false → s.upload.sendOffset < b.length →
        data = [.read (.uploadData false) (b.first + s.upload.sendOffset) (min 240 (b.length - s.upload.sendOffset))]) ∧
      ((s.link.sending.isSome ∨ s.link.replies ≠ [] ∨ s.upload.ready = none ∨
          (∃ n c d, s.upload.ready = some (.tail n c d)) ∨
          (∃ b, s.upload.batch = some b ∧ (b.void = true ∨ b.length ≤ s.upload.sendOffset))) → data = []) ∧
      (s.journal.buffer.flatten ≠ [] → (∀ o bs, s.flash.port ≠ some (.page o bs) ∧
        FlashReq.page o bs ∉ s.flash.waiting) →
        page = [.page s.journal.progEnd (s.journal.buffer.flatten.take (256 - s.journal.progEnd % 256))]) ∧
      (s.journal.buffer.flatten = [] ∨ (∃ o bs, s.flash.port = some (.page o bs) ∨
        FlashReq.page o bs ∈ s.flash.waiting) →
        page = []) ∧
      (∀ b rest, s.journal.seals = b :: rest → b.requested = false → b.first + b.length ≤ s.journal.progEnd →
        index = [.index b.slot (indexBytes b.number b.first b.length b.count b.leg 0 b.crc)] ∧
        s.finish.journal.seals = { b with requested := true } :: rest) ∧
      ((∀ b rest, s.journal.seals = b :: rest → b.requested = true ∨ s.journal.progEnd < b.first + b.length) →
        index = [] ∧ s.finish.journal.seals = s.journal.seals) ∧
      let w := s.flash.waiting ++ data ++ page ++ index
      (∀ r, s.flash.port = some r →
        s.finish.flash.port = some r ∧ s.finish.flash.portLeft = s.flash.portLeft ∧ s.finish.flash.waiting = w) ∧
      (s.flash.port = none →
        ((∀ r ∈ w, r.rank = 3 ∧ s.journal.st = .erasing) →
          s.finish.flash.port = none ∧ s.finish.flash.waiting = w) ∧
        (∀ front r back, w = front ++ r :: back → (∀ x ∈ front, r.rank < x.rank) → (∀ x ∈ back, r.rank ≤ x.rank) →
          (r.rank = 3 → s.journal.st ≠ .erasing) →
          s.finish.flash.port = some r ∧ s.finish.flash.portLeft = r.limit ∧
            s.finish.flash.waiting = front ++ back))

/-! ## The roster's commands -/

/-- CLASS WRITE in NONE writes the classes of its sets in body order and nothing else; a set of 0 digits unsets its
class (R1, R2).

LEG WRITE in NONE and LOADING writes the pass code and the budget of the legs of its sets in body order, and leaves
their states and counts and everything else (R4). -/
def Obligations.TablesWritten : Prop :=
  (∀ (s : State) (sets : List (Fin 16 × ClassRec)), Listening s → s.longOp = false → s.roster.phase = .none →
    sets ≠ [] → (∀ w ∈ sets, w.2.InRange) →
      exec (.classWrite (sets.flatMap fun w => w.2.bytes w.1)) s = .next (State.finish
        (State.replied .classWrite .done []
          { s.received with
            roster.classes := sets.foldl (fun t w => t.set w.1.val w.2.written w.1.isLt) s.roster.classes }))) ∧
  (∀ (s : State) (sets : List (Byte × Byte × Byte)), Listening s → s.longOp = false →
    (s.roster.phase = .none ∨ s.roster.phase = .loading) → sets ≠ [] →
      exec (.legWrite (sets.flatMap fun w => [w.1, w.2.1, w.2.2])) s = .next (State.finish
        (State.replied .legWrite .done []
          { s.received with
            roster.legs := sets.foldl
              (fun t w => t.set w.1.toNat { t[w.1.toNat] with passCode := w.2.1, budget := w.2.2 }) s.roster.legs })))

/-- ROSTER BEGIN in NONE takes the route identifier and the announced count, empties the staging roster, clears every
leg's state and counts, and the phase becomes LOADING (R3, R8).

ROSTER DISCARD in LOADING and CLOSED ends the route (R17, R57): no route, no staged and no live meter, an empty
chain, legs cleared but for their settings, the route clock at 0, no candidate; the records of the CLOSED candidates
keep their places in the wait order, and a transmission in progress acts on no meter.
Where the spec is silent the clauses follow the model's own choices that log 12 names. -/
def Obligations.RouteBegunAndDiscarded : Prop :=
  (∀ (s : State) (route count : Nat), Listening s → s.longOp = false → s.roster.phase = .none → route < 4294967296 →
    1 ≤ count → count ≤ 4096 →
      exec (.rosterBegin (toLE 4 route ++ toLE 2 count)) s = .next (State.finish
        (State.replied .rosterBegin .done []
          { s.received with
            roster.legs := s.roster.legs.map fun l => { l with st := .unvisited, counts := ⟨0, 0, 0, 0, 0⟩ },
            roster.routeId := some route, roster.announced := count, roster.staging := [],
            roster.phase := .loading }))) ∧
  (∀ s : State, Listening s → s.longOp = false → (s.roster.phase = .loading ∨ s.roster.phase = .closed) →
    exec (.rosterDiscard []) s = .next (State.finish
      (State.replied .rosterDiscard .done []
        { s.received with
          roster := { s.roster with
            legs := s.roster.legs.map fun l => { l with st := .unvisited, counts := ⟨0, 0, 0, 0, 0⟩ },
            phase := .none, routeId := none, announced := 0, staging := [], entries := [], missed := [],
            routeClock := 0, routeMs := 0 },
          pool.cands := [],
          journal.waits := s.journal.waits.map fun w =>
            match w with
            | .slot n =>
              match (s.candOf? n).bind Candidate.evaluated with
              | some ev => .moved ev
              | none => .slot n
            | w => w,
          sched.tx := s.sched.tx.map fun x => { x with discarded := true } })))

/-- ROSTER LOAD in LOADING appends its sets to the staging roster when they ascend strictly from above what is staged
and fit the announced count; its reply carries the number staged. Sets out of order are refused ORDER, and sets past
the announced count FULL, and nothing of them is staged (R9). -/
def Obligations.RosterLoadStages : Prop :=
  ∀ (s : State) (sets : List Loaded), Listening s → s.longOp = false → s.roster.phase = .loading → sets ≠ [] →
    (∀ l ∈ sets, l.InRange s.roster.classes) → (s.roster.staging.map Loaded.serial).Pairwise (· < ·) →
      let inOrder := ((s.roster.staging ++ sets).map Loaded.serial).Pairwise (· < ·)
      let total := s.roster.staging.length + sets.length
      (inOrder → total ≤ s.roster.announced →
        exec (.rosterLoad (sets.flatMap Loaded.bytes)) s = .next (State.finish
          (State.replied .rosterLoad .done (toLE 2 total)
            { s.received with roster.staging := s.roster.staging ++ sets }))) ∧
      (¬ inOrder →
        exec (.rosterLoad (sets.flatMap Loaded.bytes)) s = .next (State.finish
          (s.received.replied .rosterLoad .order []))) ∧
      (inOrder → s.roster.announced < total →
        exec (.rosterLoad (sets.flatMap Loaded.bytes)) s = .next (State.finish
          (s.received.replied .rosterLoad .full [])))

/-- ROSTER COMMIT in LOADING, with no upload under way, makes every staged entry live, EXCLUDED or PENDING, with the
previous register, reference status, attributes and carried score it was loaded with, clears the leg counts, and starts
the rebuild scan in COMMITTING; with entries still to load it is refused INCOMPLETE, and during an upload NOT_NOW
(R6, R10, R11, R139). -/
def Obligations.RosterCommitStartsRebuild : Prop :=
  ∀ s : State, Listening s → s.longOp = false → s.roster.phase = .loading →
    (s.upload.st ≠ .sending → s.upload.st ≠ .awaitAck →
      (s.roster.announced ≤ s.roster.staging.length →
        exec (.rosterCommit []) s = .next (State.finish
          (State.replied .rosterCommit .done []
            { s.received with
              roster.phase := .committing,
              roster.entries := s.roster.staging.map fun l =>
                { loaded := l, st := if l.attrs.excluded then .excluded else .pending, attempts := 0,
                  totalScore := l.carried, prevReg := l.prevReg, refStatus := l.refStatus, attrs := l.attrs,
                  readingMinute := none, lastSeq := none, window := none, confirm := none },
              roster.staging := [],
              roster.legs := s.roster.legs.map fun l => { l with counts := ⟨0, 0, 0, 0, 0⟩ },
              roster.rebuild := some ⟨.waiting, 0, none, 0, 0, 0⟩,
              journal.lastOp := .commit, journal.lastResult := .running }))) ∧
      (s.roster.staging.length < s.roster.announced →
        exec (.rosterCommit []) s = .next (State.finish (s.received.replied .rosterCommit .incomplete [])))) ∧
    ((s.upload.st = .sending ∨ s.upload.st = .awaitAck) →
      exec (.rosterCommit []) s = .next (State.finish (s.received.replied .rosterCommit .notNow [])))

/-- ROSTER EDIT in ACTIVE applies its sets in body order, all of them when every serial is on the roster, none and
NOT_FOUND otherwise (R22): so it completes on every body of its form, as on any other body, which is refused PARAM.

What one set of ROSTER EDIT does (R22, R23): the attributes are written, set or cleared; gaining EXCLUDED makes a
PENDING or MISSED meter EXCLUDED, losing it makes an EXCLUDED one PENDING, or MISSED when its leg is PASSED; the
meter's leg counts and the missed chain follow. The equation at the end is the frame: the state after is the state
before with exactly the entry, the chain and that leg's counts replaced, and, when a PENDING meter became EXCLUDED, the
settled test made on it: every other meter, the classes, leg states, phase, clock, staging and rebuild, and everything
outside the roster stay.

R117 has the test made in the event that moves a count, and one ROSTER EDIT is one event: that the test is made set by
set, and not once at the event's end, is the model's choice (log 16). -/
def Obligations.RosterEditApplies : Prop :=
  (∀ (s : State) (m : EditMode) (sets : List (Nat × Attrs)), Listening s → s.longOp = false →
    s.roster.phase = .active → sets ≠ [] → (∀ w ∈ sets, w.1 < 4294967296) →
      ((∀ w ∈ sets, (s.entry? w.1).isSome) →
        exec (.rosterEdit (m.byte :: sets.flatMap fun w => toLE 4 w.1 ++ [w.2.byte])) s = .next (State.finish
          ((sets.foldl (fun t w => t.editOne m w.1 w.2) s.received).replied .rosterEdit .done []))) ∧
      ((∃ w ∈ sets, s.entry? w.1 = none) →
        exec (.rosterEdit (m.byte :: sets.flatMap fun w => toLE 4 w.1 ++ [w.2.byte])) s = .next (State.finish
          (s.received.replied .rosterEdit .notFound [])))) ∧
  (∀ (s : State) (m : EditMode) (n : Nat) (a : Attrs) (e : Entry), s.entry? n = some e →
    let b : Attrs := match m with
      | .write => a
      | .set => ⟨e.attrs.wake || a.wake, e.attrs.wakeAllowed || a.wakeAllowed, e.attrs.excluded || a.excluded⟩
      | .clear => ⟨e.attrs.wake && !a.wake, e.attrs.wakeAllowed && !a.wakeAllowed, e.attrs.excluded && !a.excluded⟩
    let st : EntryState :=
      if b.excluded ∧ ¬ e.attrs.excluded ∧ (e.st = .pending ∨ e.st = .missed) then .excluded
      else if ¬ b.excluded ∧ e.attrs.excluded ∧ e.st = .excluded then
        (if (s.leg e.loaded.leg).st = .passed then .missed else .pending)
      else e.st
    let t := s.editOne m n a
    t.entry? n = some { e with attrs := b, st := st } ∧ (∀ k, k ≠ n → t.entry? k = s.entry? k) ∧
    t.roster.missed = (if st = e.st then s.roster.missed
      else if st = .missed then s.roster.missed ++ [n]
      else if e.st = .missed then s.roster.missed.erase n else s.roster.missed) ∧
    t.intake = s.intake ∧ t.pool = s.pool ∧ t.journal = s.journal ∧ t.flash = s.flash ∧ t.upload = s.upload ∧
    t.sched.confirms = s.sched.confirms ∧ t.sched.sweeps = s.sched.sweeps ∧ t.sched.tx = s.sched.tx ∧
    t.sched.credit = s.sched.credit ∧ t.link.replies = s.link.replies ∧
    let put (x : Attrs) : Attrs := match m with
      | .write => a
      | .set => ⟨x.wake || a.wake, x.wakeAllowed || a.wakeAllowed, x.excluded || a.excluded⟩
      | .clear => ⟨x.wake && !a.wake, x.wakeAllowed && !a.wakeAllowed, x.excluded && !a.excluded⟩
    let k := s.leg e.loaded.leg
    let u : State := { s with
      roster := { s.roster with
        entries := s.roster.entries.map fun x =>
          if x.loaded.serial = n then { x with attrs := put x.attrs, st := if st = e.st then x.st else st } else x,
        missed := if st = e.st then s.roster.missed
          else if st = .missed then s.roster.missed ++ [n]
          else if e.st = .missed then s.roster.missed.erase n else s.roster.missed,
        legs := if st = e.st then s.roster.legs else
          s.roster.legs.set e.loaded.leg.toNat { k with
            counts := { k.counts with
              missed := k.counts.missed - (if e.st = .missed then 1 else 0) + (if st = .missed then 1 else 0),
              excluded := k.counts.excluded - (if e.st = .excluded then 1 else 0) + (if st = .excluded then 1 else 0),
              outstanding :=
                k.counts.outstanding - (if e.st = .pending then 1 else 0) + (if st = .pending then 1 else 0) } } } }
    t = if e.st = .pending ∧ st = .excluded then u.settleTest else u) ∧
  (∀ (s : State) (b : List Byte), Listening s → s.longOp = false → s.roster.phase = .active →
    (∃ t, exec (.rosterEdit b) s = .next t) ∧
    ((byteAt b 0 ≠ 1 ∧ byteAt b 0 ≠ 2 ∧ byteAt b 0 ≠ 3) ∨ b.length < 6 ∨ (b.length - 1) % 5 ≠ 0 ∨
        (∃ k, 5 * k + 5 < b.length ∧ 8 ≤ (byteAt b (5 * k + 5)).toNat) →
      exec (.rosterEdit b) s = .next (State.finish (s.received.replied .rosterEdit .param []))))

/-- Bodies and states that a command of the link, the tables, the roster, the legs, the journal or the upload turns
away, with no effect (R169 and each command's own rule). PARAM: a body where none belongs, of IDENTIFY, RESTART, FLAGS
READ, JOURNAL STATUS, BATCH SEAL, UPLOAD STOP, ROUTE CLOSE, JOURNAL CLEAR, UPLOAD START, ROSTER COMMIT and ROSTER
DISCARD; one of a wrong length of RADIO SET, FLAGS CLEAR, FLAGS MASK, COUNTERS READ, CLASS WRITE, LEG WRITE, ROSTER
BEGIN, ROSTER LOAD, ROSTER QUERY, MISSED READ, LEG OPEN, LEG CLOSE, LEG STATUS and BATCH RECEIVED; a RADIO SET with a
setting or a floor out of range; a set of no flag of FLAGS CLEAR, a spare bit of FLAGS CLEAR and FLAGS MASK; another
clear option than 0 and 1; an announced count outside 1 to 4096; a position above 4095; leg 255 of LEG OPEN; and a
CLASS WRITE or a ROSTER LOAD any set of which holds a field out of range, of which no set is written or loaded.
NOT_FOUND: ROSTER QUERY of a serial off the roster. NOT_NOW: LEG OPEN while a leg is open, LEG CLOSE of a leg that is
not, JOURNAL CLEAR of an ABSENT journal, JOURNAL CLEAR and UPLOAD START during an upload, and BATCH RECEIVED outside
AWAIT_ACK. UNDELIVERED: a JOURNAL CLEAR that would lose records. -/
def Obligations.TurnedAway : Prop :=
  (∀ (s : State) (b : List Byte), Listening s →
    let param (c : Cmd) := exec (c.row b) s = .next (State.finish (s.received.replied c .param []))
    (b ≠ [] → ∀ c ∈ [Cmd.identify, .restart, .flagsRead, .journalStatus], param c) ∧
    (b.length ≠ 2 ∨ le b = 0 ∨ 8192 ≤ le b → param .flagsClear) ∧ (b.length ≠ 2 ∨ 8192 ≤ le b → param .flagsMask) ∧
    (b.length ≠ 1 ∨ 2 ≤ le b → param .countersRead)) ∧
  (∀ (s : State) (b : List Byte), Listening s → s.longOp = false →
    let param (c : Cmd) := exec (c.row b) s = .next (State.finish (s.received.replied c .param []))
    (b.length < 8 ∨ 16 ≤ (byteAt b 0).toNat ∨ byteAt b 1 = 0 ∨ (byteAt b 2).toNat < 5 ∨ 250 < (byteAt b 2).toNat ∨
        byteAt b 3 = 0 ∨ 50 < (byteAt b 3).toNat ∨ field b 4 2 < 1000 ∨ 60000 < field b 4 2 ∨ byteAt b 6 = 0 ∨
        100 < (byteAt b 6).toNat ∨ 2 ≤ (byteAt b 7).toNat ∨
        b.length ≠ 8 + ((List.range 4).countP fun i => (byteAt b 0).getLsbD i) ∨
        (∃ f ∈ b.drop 8, f.toNat < 0x74 ∨ 0xEC < f.toNat) → param .radioSet) ∧
    (s.roster.phase = .none →
      (∀ k, 28 * k + 28 ≤ b.length →
        let g := b.drop (28 * k)
        16 ≤ (byteAt g 0).toNat ∨ (1 ≤ (byteAt g 1).toNat ∧ (byteAt g 1).toNat ≤ 3) ∨ 9 < (byteAt g 1).toNat ∨
          (byteAt g 1 ≠ 0 ∧ field g 2 2 = 0) ∨ 1048575 < field g 9 3 ∨ 6 < (byteAt g 12).toNat ∨ field g 13 2 = 0 ∨
          (∃ i < 8, 15 < (byteAt g (17 + i)).toNat) ∨ 3 < (byteAt g 26).toNat ∨ 1 < (byteAt g 27).toNat →
        param .classWrite) ∧
      (b.length ≠ 6 ∨ field b 4 2 = 0 ∨ 4096 < field b 4 2 → param .rosterBegin)) ∧
    (s.roster.phase = .loading →
      (b = [] ∨ b.length % 16 ≠ 0 → param .rosterLoad) ∧
      (∀ k, 16 * k + 16 ≤ b.length →
        let g := b.drop (16 * k)
        let digits := (s.roster.classes[((byteAt g 5).setWidth 4).toNat]).digits
        field g 0 4 = 0 ∨ field g 0 4 = 0xFFFFFFFF ∨ byteAt g 4 = 255 ∨ 16 ≤ (byteAt g 5).toNat ∨ digits = 0 ∨
          10 ^ digits ≤ field g 6 4 ∨ 1048575 < field g 10 3 ∨ 8 ≤ (byteAt g 15).toNat → param .rosterLoad)) ∧
    (s.roster.phase = .active ∨ s.roster.phase = .closed →
      (b.length ≠ 4 → param .rosterQuery) ∧
      (b.length = 4 → s.entry? (le b) = none →
        exec (.rosterQuery b) s = .next (State.finish (s.received.replied .rosterQuery .notFound []))) ∧
      (b.length ≠ 2 ∨ 4095 < le b → param .missedRead) ∧ (b.length ≠ 1 → param .legStatus)) ∧
    (s.roster.phase = .active → b.length ≠ 1 → param .legOpen ∧ param .legClose) ∧
    (∀ k, s.upload.st = .awaitAck → s.upload.batch = some k → b.length ≠ 4 → param .batchReceived)) ∧
  (∀ (s : State) (b : List Byte), Listening s → s.longOp = false →
    (b ≠ [] → ∀ c ∈ [Cmd.identify, .restart, .flagsRead, .journalStatus, .batchSeal, .uploadStop],
      exec (c.row b) s = .next (State.finish (s.received.replied c .param []))) ∧
    (s.roster.phase = .none → b.length % 28 ≠ 0 ∨ b = [] →
      exec (.classWrite b) s = .next (State.finish (s.received.replied .classWrite .param []))) ∧
    (s.roster.phase = .none ∨ s.roster.phase = .loading → b.length % 3 ≠ 0 ∨ b = [] →
      exec (.legWrite b) s = .next (State.finish (s.received.replied .legWrite .param []))) ∧
    (s.roster.phase = .active →
      (∀ l : Byte, l ≠ 255#8 → s.sched.openLeg.isSome →
        exec (.legOpen [l]) s = .next (State.finish (s.received.replied .legOpen .notNow []))) ∧
      exec (.legOpen [255]) s = .next (State.finish (s.received.replied .legOpen .param [])) ∧
      (∀ l : Byte, (∀ o, s.sched.openLeg = some o → o.leg ≠ l) →
        exec (.legClose [l]) s = .next (State.finish (s.received.replied .legClose .notNow [])))) ∧
    (s.upload.st ≠ .awaitAck →
      exec (.batchReceived b) s = .next (State.finish (s.received.replied .batchReceived .notNow []))) ∧
    (s.roster.phase = .none → (s.upload.st = .sending ∨ s.upload.st = .awaitAck) →
      exec (.journalClear []) s = .next (State.finish (s.received.replied .journalClear .notNow []))) ∧
    (s.roster.phase = .none ∨ s.roster.phase = .closed → (s.upload.st = .sending ∨ s.upload.st = .awaitAck) →
      exec (.uploadStart []) s = .next (State.finish (s.received.replied .uploadStart .notNow []))) ∧
    (s.roster.phase = .none → s.journal.st = .absent →
      exec (.journalClear []) s = .next (State.finish (s.received.replied .journalClear .notNow []))) ∧
    (s.roster.phase = .none → s.upload.st ≠ .sending → s.upload.st ≠ .awaitAck → s.journal.st ≠ .absent →
      (s.journal.delivered ≠ s.journal.total ∨ s.journal.seals ≠ [] ∨ s.journal.recordEnd ≠ s.journal.newestEnd ∨
        s.journal.waits ≠ []) →
      exec (.journalClear []) s = .next (State.finish (s.received.replied .journalClear .undelivered []))) ∧
    (b ≠ [] →
      (s.roster.phase = .active →
        exec (.routeClose b) s = .next (State.finish (s.received.replied .routeClose .param []))) ∧
      (s.upload.st ≠ .sending → s.upload.st ≠ .awaitAck →
        (s.roster.phase = .none → s.journal.st ≠ .absent →
          exec (.journalClear b) s = .next (State.finish (s.received.replied .journalClear .param []))) ∧
        (s.roster.phase = .none ∨ s.roster.phase = .closed →
          exec (.uploadStart b) s = .next (State.finish (s.received.replied .uploadStart .param []))) ∧
        (s.roster.phase = .loading →
          exec (.rosterCommit b) s = .next (State.finish (s.received.replied .rosterCommit .param [])))) ∧
      (s.roster.phase = .loading ∨ s.roster.phase = .closed →
        exec (.rosterDiscard b) s = .next (State.finish (s.received.replied .rosterDiscard .param [])))))

/-! ## Legs and the wake scheduler -/

/-- An admission scan (R102): the open leg's eligible meters, in ascending serial and as many as the queue and the
budget leave room for, join the back of the sweep group and become QUEUED; nothing else changes, and with no leg open
nothing at all. -/
def Obligations.AdmissionScanAdmits : Prop :=
  ∀ s : State, RosterInv s →
    (s.sched.openLeg = none → s.scan = s) ∧
    (∀ o, s.sched.openLeg = some o →
      let eligible := s.roster.entries.filter fun e =>
        e.loaded.leg == o.leg && e.st == .pending && (e.attrs.wake || (o.passExpired && e.attrs.wakeAllowed)) &&
          !e.attrs.excluded && decide (e.attempts < (s.roster.classes[e.loaded.cls.toNat]).retries + 1)
      let admitted := (eligible.map fun e => e.loaded.serial).take
        (min (32 - (s.sched.confirms.length + s.sched.sweeps.length)) (o.budget - s.sched.sweeps.length))
      s.scan = { s with
        sched.sweeps := s.sched.sweeps ++ admitted,
        roster.entries := s.roster.entries.map fun e =>
          if e.loaded.serial ∈ admitted then { e with st := .queued } else e })

/-- The transmit lane and the head of the queue (R101, R107): an IDLE lane with credit for the wake duration takes the
first confirm request, or with none the first sweep request while the budget lasts; the credit, for a sweep the
budget, and the meter's attempts are charged, a sweep meter becomes SENDING, and an admission scan follows (R104).
Otherwise nothing happens.

A confirm request is offered to the wake queue (R103): with room it joins behind the other confirm requests; with
32 requests it takes the slot of the newest sweep request, whose meter becomes PENDING; with 32 confirm requests it
does not join. -/
def Obligations.WakeQueueServed : Prop :=
  (∀ s : State,
    ((s.sched.confirms = [] ∧ s.sched.sweeps = [] ∨ s.sched.tx.isSome ∨ s.sched.credit < s.sched.wakeDur ∨
        s.sched.confirms = [] ∧ (∀ o, s.sched.openLeg = some o → o.budget = 0)) → s.offerLane = s) ∧
    (s.sched.tx = none → s.sched.wakeDur ≤ s.sched.credit →
      (∀ n rest, s.sched.confirms = n :: rest → s.offerLane = State.scan
        (State.updEntry n (fun e => { e with attempts := e.attempts + 1 })
          { s with
            sched.confirms := rest, sched.credit := s.sched.credit - s.sched.wakeDur,
            sched.tx := some ⟨n, .confirm, s.sched.wakeDur, false, s.sched.wakeDur + 100, false⟩ })) ∧
      (∀ n rest o, s.sched.confirms = [] → s.sched.sweeps = n :: rest → s.sched.openLeg = some o → 0 < o.budget →
        s.offerLane = State.scan (State.moveTo n .sending
          (State.updEntry n (fun e => { e with attempts := e.attempts + 1 })
            { s with
              sched.sweeps := rest, sched.credit := s.sched.credit - s.sched.wakeDur,
              sched.openLeg := some { o with budget := o.budget - 1 },
              sched.tx := some ⟨n, .sweep, s.sched.wakeDur, false, s.sched.wakeDur + 100, false⟩ }))))) ∧
  (∀ (s : State) (n : Nat),
    (s.sched.confirms.length + s.sched.sweeps.length < 32 →
      s.offerConfirm n = State.offerLane { s with sched.confirms := s.sched.confirms ++ [n] }) ∧
    (∀ front k, 32 ≤ s.sched.confirms.length + s.sched.sweeps.length → s.sched.sweeps = front ++ [k] →
      s.offerConfirm n = State.offerLane (State.moveTo k .pending
        { s with sched.sweeps := front, sched.confirms := s.sched.confirms ++ [n] })) ∧
    (32 ≤ s.sched.confirms.length → s.sched.sweeps = [] → s.offerConfirm n = s))

/-- LEG OPEN in ACTIVE with no leg open (R98): the leg is OPEN with its pass time, budget and marks afresh; its MISSED
meters are PENDING and off the chain, whose others keep their order; the attempts of its PENDING, MISSED and EXCLUDED
meters are 0, and those of its other meters stay, the HEARD ones of an earlier opening too, which is the model's choice
(log 36); then the admission scan, the settled test and the offer to the lane. The reply carries the number admitted
and the counts before the scan. -/
def Obligations.LegOpenOpens : Prop :=
  ∀ (s : State) (l : Byte), Listening s → RosterInv s → s.longOp = false → s.roster.phase = .active →
    s.sched.openLeg = none → l ≠ 255#8 →
      ∃ u : State,
        u.sched = { s.sched with
          openLeg := some
            { leg := l, passLeft := if (s.leg l).passCode = 0 then 256000 else (s.leg l).passCode.toNat * 1000,
              passExpired := false, budget := (s.leg l).budget.toNat, settled := false } } ∧
        u.roster.entries = s.roster.entries.map (fun e =>
          if e.loaded.leg = l then
            { e with st := if e.st = .missed then .pending else e.st,
                     attempts := if e.st = .pending ∨ e.st = .missed ∨ e.st = .excluded then 0 else e.attempts }
          else e) ∧
        u.roster.missed = s.roster.missed.filter (fun n =>
          !(s.roster.entries.any fun e => e.loaded.serial == n && e.loaded.leg == l)) ∧
        u.leg l = { s.leg l with
          st := .opened,
          counts := { (s.leg l).counts with
            missed := 0, outstanding := (s.leg l).counts.outstanding + (s.leg l).counts.missed } } ∧
        (∀ k, k ≠ l → u.leg k = s.leg k) ∧
        { u with sched := s.sched,
                 roster := { u.roster with entries := s.roster.entries, missed := s.roster.missed,
                                           legs := s.roster.legs } } = s.received ∧
        exec (.legOpen [l]) s = .next (State.finish (u.scan.settleTest.offerLane.replied .legOpen .done
          ([BitVec.ofNat 8 (u.scan.sched.sweeps.length - u.sched.sweeps.length)] ++ (u.leg l).counts.bytes)))

/-- LEG CLOSE of the open leg (R114): the leg is PASSED and none is open; its PENDING and QUEUED meters are MISSED; its
SENDING, AWAIT, HEARD, READ, MISSED and EXCLUDED meters and every meter of another leg stay as they are; no wake
transmission starts (log 26). Its waiting meters are missed first, in ascending serial, and then the confirmations of
its VERIFY meters end unanswered (steps 2 and 3), each as ReplyWindowsEnd states: with the candidate occupied the meter
stays as it is, else its window stops and it is READ with the first status, or stays in VERIFY where its record was
refused (R94, R95). Then the open batch, as the meters' records left it, goes to the back of the seal list with the
slot below the index start (R128), and the LEG notice is requested with the leg's counts (R117). With no meter of the
leg waiting the journal up to the seal is as it was. The reply carries the leg's counts. -/
def Obligations.LegCloseCloses : Prop :=
  ∀ (s : State) (o : OpenLeg), Listening s → RosterInv s → s.longOp = false → s.roster.phase = .active →
    s.sched.openLeg = some o →
      let v := s.received.closedLeg o.leg false
      ∃ t u : State, exec (.legClose [o.leg]) s = .next t ∧
        t = State.finish (u.replied .legClose .done (u.leg o.leg).counts.bytes) ∧
        u = State.requestNotice (.leg o.leg .closed .passed (v.leg o.leg).counts) v.sealOpen ∧
        (let m : State := { s.received with
           sched.openLeg := none,
           roster.legs := s.roster.legs.set o.leg.toNat { s.leg o.leg with st := .passed } }
         let waiting := s.roster.entries.filter fun e => e.loaded.leg == o.leg && (e.st == .pending || e.st == .queued)
         let w := (waiting.map fun e => e.loaded.serial).foldl
           (fun t n => State.missMeter n .legClosed { t with sched.sweeps := t.sched.sweeps.erase n }) m
         let verify := w.roster.entries.filter fun e => e.loaded.leg == o.leg && e.st == .verify
         v = (verify.map fun e => e.loaded.serial).foldl (fun t n => t.endUnanswered n false) w) ∧
        (∀ e ∈ s.roster.entries, e.loaded.leg = o.leg → e.st = .verify →
          ((s.candOf? e.loaded.serial).isSome → e ∈ u.roster.entries) ∧
          (∀ p, s.candOf? e.loaded.serial = none → e.confirm = some p →
            { e with window := none } ∈ u.roster.entries ∨
            { e with st := .read, refStatus := p.firstStatus, confirm := none, window := none } ∈
              u.roster.entries)) ∧
        (∀ b, v.journal.openBatch = some b → v.journal.st = .opened ∨ v.journal.st = .full →
          u.journal.openBatch = none ∧ u.journal.indexStart = v.journal.indexStart - 16 ∧
          u.journal.seals = v.journal.seals ++
            [⟨b.number, b.first, v.journal.recordEnd - b.first, b.count, b.leg, b.crc, v.journal.indexStart - 16,
              false⟩]) ∧
        ((∀ e ∈ s.roster.entries, e.loaded.leg = o.leg → e.st ≠ .pending ∧ e.st ≠ .queued ∧ e.st ≠ .verify) →
          v.journal = s.journal) ∧
        u.sched.openLeg = none ∧ (u.leg o.leg).st = .passed ∧
        (∀ e ∈ s.roster.entries, e.loaded.leg = o.leg → e.st = .pending ∨ e.st = .queued →
          ∃ x ∈ u.roster.entries, x.loaded = e.loaded ∧ x.st = .missed) ∧
        (∀ e ∈ s.roster.entries, e.loaded.leg ≠ o.leg ∨ (e.st ≠ .pending ∧ e.st ≠ .queued ∧ e.st ≠ .verify) →
          e ∈ u.roster.entries) ∧
        (∀ e ∈ s.roster.entries, e.loaded.leg = o.leg → e.st = .pending ∨ e.st = .queued →
          e.loaded.serial ∈ u.roster.missed) ∧
        (u.journal.st = .opened ∨ u.journal.st = .full → u.journal.openBatch = none) ∧
        u.sched.tx.isSome = s.sched.tx.isSome ∧ u.sched.credit = s.sched.credit ∧
        u.roster.phase = .active ∧ u.pool = s.pool ∧ u.intake = s.intake ∧ u.flash = s.flash ∧ u.upload = s.upload ∧
        u.link.replies = s.link.replies

/-- ROUTE CLOSE in ACTIVE (R57, R116): the phase is CLOSED, every leg PASSED and none open; no candidate of a live
meter is HOLDING; no meter is PENDING or QUEUED, and none is in VERIFY but with its confirming candidate occupied (R94,
R95); the open batch, as the records of the close left it, goes to the back of the seal list with the slot below the
index start (R128). The steps come in the rule's order: the forced closes oldest first, the open leg's close, the
misses and then the ends of the confirmations, each in ascending serial, and these ends take effect whatever the
journal answers. With no leg open and nothing to close the journal up to the seal is as it was. -/
def Obligations.RouteCloseCloses : Prop :=
  ∀ s : State, Listening s → RosterInv s → (s.pool.cands.map Candidate.serial).Nodup → s.longOp = false →
    s.roster.phase = .active →
      let v := ((s.received.forceCloseAll.closeOpenLeg).missRoute).endConfirmations (fun _ => true) true
      ∃ t u : State, exec (.routeClose []) s = .next t ∧ t = State.finish (u.replied .routeClose .done []) ∧
        (let f := ((s.pool.cands.filter fun c => c.evaluated.isNone).map Candidate.serial).foldl
           (fun t n => State.closeCand n true
             { t with link.counters.forcedClose := min (t.link.counters.forcedClose + 1) 65535 }) s.received
         let g := match f.sched.openLeg with
           | none => f
           | some o => State.requestNotice (.leg o.leg .closed .passed ((f.closedLeg o.leg true).leg o.leg).counts)
               (f.closedLeg o.leg true).sealOpen
         let w := ((g.roster.entries.filter fun e => e.st == .pending || e.st == .queued).map
           fun e => e.loaded.serial).foldl
             (fun t n => State.missMeter n .routeClosed { t with sched.sweeps := t.sched.sweeps.erase n }) g
         v = ((w.roster.entries.filter fun e => e.st == .verify).map fun e => e.loaded.serial).foldl
           (fun t n => t.endUnanswered n true) w) ∧
        u = (let x := State.sealOpen
               { v with roster.legs := v.roster.legs.map fun k => { k with st := .passed } }
             { x with roster.phase := .closed }) ∧
        (∀ e ∈ u.roster.entries, e.st = .verify → (u.candOf? e.loaded.serial).isSome) ∧
        (∀ b, v.journal.openBatch = some b → v.journal.st = .opened ∨ v.journal.st = .full →
          u.journal.openBatch = none ∧ u.journal.indexStart = v.journal.indexStart - 16 ∧
          u.journal.seals = v.journal.seals ++
            [⟨b.number, b.first, v.journal.recordEnd - b.first, b.count, b.leg, b.crc, v.journal.indexStart - 16,
              false⟩]) ∧
        (s.sched.openLeg = none → (∀ c ∈ s.pool.cands, c.evaluated.isSome) →
          (∀ e ∈ s.roster.entries, e.st ≠ .pending ∧ e.st ≠ .queued ∧ e.st ≠ .verify) → v.journal = s.journal) ∧
        u.roster.phase = .closed ∧ u.sched.openLeg = none ∧ (∀ l : Byte, (u.leg l).st = .passed) ∧
        (∀ e ∈ u.roster.entries, e.st ≠ .pending ∧ e.st ≠ .queued) ∧
        u.roster.entries.map Entry.loaded = s.roster.entries.map Entry.loaded ∧
        (∀ c ∈ u.pool.cands, c.evaluated = none → s.entry? c.serial = none) ∧
        (u.journal.st = .opened ∨ u.journal.st = .full → u.journal.openBatch = none) ∧
        u.flash = s.flash ∧ u.upload = s.upload ∧ u.link.replies = s.link.replies

/-- The notice queue's admission (R178): a FOREIGN notice is admitted with at most 32 notices queued, any other with at
most 47; a notice not admitted is dropped, counted, and sets NOTICE_LOSS; nothing else changes.

A meter that moves to a state leaves the missed chain with MISSED and joins its back with it (R19), and its leg counts
it under the new one of the five counts (R21).

The settled test (R117): with an open leg not yet settled of which no meter is outstanding, the leg is marked settled,
LEG_SETTLED is set and the LEG notice requested; else nothing happens. On a true roster no meter is outstanding exactly
when each meter of the leg is READ, MISSED or EXCLUDED.

A meter is missed (R113): it is MISSED, at the back of the chain and counted in its leg; its MISS record is offered
before the MISSED notice is requested and MISSED set (step 3). The settled test (R117) follows the notice and the flag:
neither rule orders the two, and this order is the model's choice (log 16). Every other meter and leg stays; the notice
joins the notice queue where it is admitted, and no notice but the settled one follows it.

A MISS record of a state with no route identifier carries 0 (log 30). -/
def Obligations.MissNoticeAndSettling : Prop :=
  (∀ (s : State) (n : Nat) (f : Entry → Entry) (st : EntryState),
    s.updEntry n f = { s with
      roster.entries := s.roster.entries.map fun x => if x.loaded.serial = n then f x else x } ∧
    (s.entry? n = none → s.moveTo n st = s) ∧
    (∀ e, s.entry? n = some e →
      let kind (x : EntryState) : Nat := match x with
        | .read => 0
        | .missed => 1
        | .excluded => 2
        | _ => 3
      let k := s.leg e.loaded.leg
      let move (x c : Nat) : Nat := c - (if kind e.st = x then 1 else 0) + (if kind st = x then 1 else 0)
      s.moveTo n st = { s with roster := { s.roster with
        entries := s.roster.entries.map fun x => if x.loaded.serial = n then { x with st := st } else x,
        missed := (if e.st = .missed then s.roster.missed.erase n else s.roster.missed) ++
          (if st = .missed then [n] else []),
        legs := s.roster.legs.set e.loaded.leg.toNat { k with
          counts := if kind e.st = kind st then k.counts else
            ⟨k.counts.total, move 0 k.counts.read, move 1 k.counts.missed, move 2 k.counts.excluded,
             move 3 k.counts.outstanding⟩ } } })) ∧
  (∀ (s : State) (n : Notice),
    let room := match n with
      | .foreign _ _ _ => 32
      | _ => 47
    (s.link.notices.length ≤ room → s.requestNotice n = { s with link.notices := s.link.notices ++ [n] }) ∧
    (room < s.link.notices.length → s.requestNotice n =
      { s with link.counters.noticeDropped := min (s.link.counters.noticeDropped + 1) 65535,
               link.flags := s.link.flags ||| 0x0400#13 })) ∧
  (∀ s : State,
    (s.sched.openLeg = none → s.settleTest = s) ∧
    (∀ o, s.sched.openLeg = some o →
      (o.settled = true ∨ (s.leg o.leg).counts.outstanding ≠ 0 → s.settleTest = s) ∧
      (o.settled = false → (s.leg o.leg).counts.outstanding = 0 →
        s.settleTest = State.requestNotice (.leg o.leg .settled (s.leg o.leg).st (s.leg o.leg).counts)
          { s with sched.openLeg := some { o with settled := true }, link.flags := s.link.flags ||| 0x0010#13 }) ∧
      (RosterInv s → s.roster.phase = .active → ((s.leg o.leg).counts.outstanding = 0 ↔
        ∀ e ∈ s.roster.entries, e.loaded.leg = o.leg → e.st = .read ∨ e.st = .missed ∨ e.st = .excluded)))) ∧
  (∀ (s : State) (n : Nat) (r : MissReason) (e : Entry), s.entry? n = some e →
    let t := s.missMeter n r
    let record : MissRec :=
      { routeId := s.roster.routeId.getD 0, serial := e.loaded.serial, leg := e.loaded.leg, reason := r,
        attempts := e.attempts, routeTime := s.roster.routeClock.toNat }
    t = State.settleTest (State.setFlag .missed (State.requestNotice (.missed n e.loaded.leg r)
      ((s.moveTo n .missed).offer (.miss record) (.held (.miss record))).2)) ∧
    t.entry? n = some { e with st := .missed } ∧ (∀ k, k ≠ n → t.entry? k = s.entry? k) ∧
    t.roster.missed = (if e.st = .missed then s.roster.missed.erase n else s.roster.missed) ++ [n] ∧
    (e.st ≠ .read → e.st ≠ .missed → e.st ≠ .excluded →
      t.leg e.loaded.leg = { s.leg e.loaded.leg with
        counts := { (s.leg e.loaded.leg).counts with
          missed := (s.leg e.loaded.leg).counts.missed + 1,
          outstanding := (s.leg e.loaded.leg).counts.outstanding - 1 } }) ∧
    (∀ l : Byte, l ≠ e.loaded.leg → t.leg l = s.leg l) ∧
    t.flag .missed = true ∧
    (s.link.notices.length ≤ 47 → ∃ more, t.link.notices = s.link.notices ++ [.missed n e.loaded.leg r] ++ more ∧
      (more = [] ∨ ∃ o, s.sched.openLeg = some o ∧
        more = [.leg o.leg .settled (t.leg o.leg).st (t.leg o.leg).counts])) ∧
    (47 < s.link.notices.length → t.link.notices = s.link.notices ∧ t.flag .noticeLoss = true) ∧
    (s.journal.st = .opened → s.journal.waits = [] → s.journal.room 18 = .fits →
      t.journal.buffer = s.journal.buffer ++ [record.bytes]) ∧
    t.pool = s.pool ∧ t.intake = s.intake ∧ t.flash = s.flash ∧ t.upload = s.upload ∧
    t.sched.confirms = s.sched.confirms ∧ t.sched.sweeps = s.sched.sweeps ∧ t.sched.tx = s.sched.tx ∧
    t.sched.credit = s.sched.credit)

/-- PASS_TIMER_EXPIRY marks the open leg's pass timer expired once and scans (R99); DUTY_REFILL adds the refill amount
to the credit up to the capacity (R105); after each the lane is offered the head of the queue.
Where the spec is silent the clauses follow the model's own choices that log 2, 3 names. -/
def Obligations.PassTimerAndRefill : Prop :=
  ∀ s : State, s.asserted = false →
    (∀ o, s.sched.openLeg = some o → o.passExpired = false →
      exec .passTimerExpiry s = .next (State.finish (State.offerLane (State.scan
        { s with sched.openLeg := some { o with passLeft := 0, passExpired := true } })))) ∧
    ((∀ o, s.sched.openLeg = some o → o.passExpired = true) → exec .passTimerExpiry s = .next s.finish) ∧
    exec .dutyRefill s = .next (State.finish (State.offerLane
      { s with sched.credit := min (s.sched.credit + s.sched.refill) s.sched.capacity, sched.refillLeft := 1000 }))

/-- The end of a transmission, by the done input or by its timeout, which is counted and sets TRANSMIT_FAULT (R108):
the lane is IDLE; a meter heard meanwhile, or of a discarded route, is left alone; a SENDING meter becomes AWAIT with a
reply window, or MISSED once its leg is not open; a VERIFY meter with no candidate gets a window while its leg is open
(R109, R110); then the lane is offered the head. With the lane IDLE the done input does nothing.
Where the spec is silent the clauses follow the model's own choices that log 2, 3 names. -/
def Obligations.TransmissionEnds : Prop :=
  ∀ s : State, s.asserted = false →
    (s.sched.tx = none → exec .transmitDone s = .next s.finish) ∧
    (∀ x, s.sched.tx = some x →
      ∃ u v : State, u = { s with sched.tx := none } ∧
        v = State.setFlag .transmitFault
          { u with link.counters.transmitTimeout := min (s.link.counters.transmitTimeout + 1) 65535 } ∧
        exec .transmitDone s = .next (State.finish (u.transmissionEffect x).offerLane) ∧
        exec .transmitTimeout s = .next (State.finish (v.transmissionEffect x).offerLane) ∧
        ∀ w ∈ [u, v],
          (x.heard = true ∨ x.discarded = true → w.transmissionEffect x = w) ∧
          (∀ e, x.heard = false → x.discarded = false → s.entry? x.serial = some e →
            (x.purpose = .sweep → e.st = .sending → (s.leg e.loaded.leg).st = .opened →
              w.transmissionEffect x =
                (w.moveTo x.serial .await).updEntry x.serial fun k => { k with window := some (s.sched.replyWin * 100) }) ∧
            (x.purpose = .sweep → e.st = .sending → (s.leg e.loaded.leg).st ≠ .opened →
              w.transmissionEffect x =
                w.missMeter x.serial (if s.roster.phase = .closed then .routeClosed else .legClosed)) ∧
            (x.purpose = .sweep → e.st ≠ .sending → w.transmissionEffect x = w) ∧
            (x.purpose = .confirm → e.st = .verify → s.candOf? x.serial = none → (s.leg e.loaded.leg).st = .opened →
              w.transmissionEffect x =
                w.updEntry x.serial fun k => { k with window := some (s.sched.replyWin * 100) }) ∧
            (x.purpose = .confirm →
              (e.st ≠ .verify ∨ (s.candOf? x.serial).isSome ∨ (s.leg e.loaded.leg).st ≠ .opened) →
              w.transmissionEffect x = w)))

/-- The end of a sweep meter's reply window (R111): with its leg open and attempts left it is QUEUED again when the
queue and the budget have room, else PENDING; with none left it is MISSED for RETRIES; with its leg not open it is
MISSED.

The end of a confirm meter's reply window (R91, R94, R95): a candidate that opened meanwhile decides; with attempts
left and the leg open a confirm request is offered again; else the confirmation ends unanswered, forced in CLOSED.

A confirmation that ends unanswered (R94): with the meter not in VERIFY or its candidate occupied nothing happens. Else
its confirm request is erased, its window stops and its confirm transmission is marked heard, and the UNCONFIRMED
record is offered. Appended or waiting, or refused where the end is forced (in CLOSED or by ROUTE CLOSE), the meter is
READ with the first status, loses its confirmation part, and the TAMPER notice UNCONFIRMED is requested without its
flag. Refused otherwise it stays in VERIFY with no notice.

That the settled test follows the notice is the model's choice (log 16), as is the record of a state with no route
identifier (log 30). Where the spec is silent the clauses follow the choices that log 2 names. -/
def Obligations.ReplyWindowsEnd : Prop :=
  (∀ (s : State) (n : Nat) (e : Entry), s.asserted = false → s.entry? n = some e → e.st = .await →
    e.window.isSome →
      ∃ u : State, u = s.updEntry n (fun k => { k with window := none }) ∧
        ((s.leg e.loaded.leg).st = .opened → e.attempts < (s.roster.classes[e.loaded.cls.toNat]).retries + 1 →
          (s.sched.confirms.length + s.sched.sweeps.length < 32 →
            (∃ o, s.sched.openLeg = some o ∧ s.sched.sweeps.length < o.budget) →
            exec (.sweepWindowEnd n) s = .next (State.finish (State.offerLane
              (State.moveTo n .queued { u with sched.sweeps := s.sched.sweeps ++ [n] })))) ∧
          (32 ≤ s.sched.confirms.length + s.sched.sweeps.length ∨
              (∀ o, s.sched.openLeg = some o → o.budget ≤ s.sched.sweeps.length) →
            exec (.sweepWindowEnd n) s = .next (State.finish (u.moveTo n .pending)))) ∧
        ((s.leg e.loaded.leg).st = .opened → (s.roster.classes[e.loaded.cls.toNat]).retries + 1 ≤ e.attempts →
          exec (.sweepWindowEnd n) s = .next (State.finish (u.missMeter n .retries))) ∧
        ((s.leg e.loaded.leg).st ≠ .opened →
          exec (.sweepWindowEnd n) s = .next (State.finish
            (u.missMeter n (if s.roster.phase = .closed then .routeClosed else .legClosed))))) ∧
  (∀ (s : State) (n : Nat) (e : Entry), s.asserted = false → s.entry? n = some e → e.st = .verify →
    e.window.isSome →
      ∃ u : State, u = s.updEntry n (fun k => { k with window := none }) ∧
        ((s.candOf? n).isSome → exec (.confirmWindowEnd n) s = .next u.finish) ∧
        (s.candOf? n = none → e.attempts < (s.roster.classes[e.loaded.cls.toNat]).retries + 1 →
          (s.leg e.loaded.leg).st = .opened →
          exec (.confirmWindowEnd n) s = .next (State.finish (u.offerConfirm n))) ∧
        (s.candOf? n = none →
          ((s.roster.classes[e.loaded.cls.toNat]).retries + 1 ≤ e.attempts ∨ (s.leg e.loaded.leg).st ≠ .opened) →
          exec (.confirmWindowEnd n) s = .next (State.finish
            (u.endUnanswered n (decide (s.roster.phase = .closed))))) ∧
        (∀ p, s.candOf? n = none → e.confirm = some p →
          ((s.roster.classes[e.loaded.cls.toNat]).retries + 1 ≤ e.attempts ∨ (s.leg e.loaded.leg).st ≠ .opened) →
          (s.roster.phase = .closed ∨ (s.journal.st = .opened ∧ s.journal.waits = [] ∧ s.journal.room 23 = .fits)) →
          ∃ t, exec (.confirmWindowEnd n) s = .next t ∧
            t.entry? n = some { e with refStatus := p.firstStatus, confirm := none, window := none, st := .read } ∧
            (∀ k, k ≠ n → t.entry? k = s.entry? k) ∧ t.sched.confirms = s.sched.confirms.erase n ∧
            t.pool = s.pool ∧ t.intake = s.intake ∧ t.flash.store = s.flash.store)) ∧
  (∀ (s : State) (n : Nat) (e : Entry) (forced : Bool), s.entry? n = some e →
    (e.st ≠ .verify ∨ (s.candOf? n).isSome → s.endUnanswered n forced = s) ∧
    (∀ p, e.st = .verify → s.candOf? n = none → e.confirm = some p →
      let u : State := { s.updEntry n (fun k => { k with window := none }) with
        sched.confirms := s.sched.confirms.erase n,
        sched.tx := s.sched.tx.map fun x =>
          if x.serial = n ∧ x.discarded = false then { x with heard := true } else x }
      let r : JournalRecord := .confirm ⟨s.roster.routeId.getD 0, n, e.prevReg, p.firstStatus, 0, .unconfirmed,
        s.roster.routeClock.toNat, -140⟩
      let ended (v : State) : State := State.settleTest (State.requestNotice (.tamper n .unconfirmed 0 e.totalScore)
        (State.moveTo n .read (v.updEntry n fun k =>
          { k with refStatus := p.firstStatus, confirm := none, window := none })))
      (∀ a v, u.offer r (.held r) = (a, v) →
        (a ≠ .refused ∨ forced = true → s.endUnanswered n forced = ended v ∧
          (ended v).entry? n = some { e with
            st := .read, refStatus := p.firstStatus, confirm := none, window := none } ∧
          (ended v).flag .tamper = s.flag .tamper) ∧
        (a = .refused → forced = false → s.endUnanswered n forced = v ∧
          v.entry? n = some { e with window := none } ∧ v.link.notices = s.link.notices))))

/-! ## The lanes, the candidate pool and the reading evaluator -/

/-- A lane takes a record byte by byte (R25): a start begins a record on an IDLE lane and abandons the one begun on a
RECEIVING lane, counted as a check failure; the bytes are the RSSI, the byte count and the telegram, of which 27 are
kept and up to 255 counted; a DISABLED lane takes nothing, and an IDLE lane no byte. Nothing else changes.

An end on a lane that is not RECEIVING does nothing; on a RECEIVING lane the record is taken and counted, and the
intake tests in their order decide the one other counter it may rise: length or check, type, floor (R25, R27, R31 to
R34, R39).
Where the spec is silent the clauses follow the model's own choices that log 3 names. -/
def Obligations.LaneRecordDelivered : Prop :=
  (∀ (s : State) (i : Fin 4) (b : Byte), s.asserted = false →
    let lane := s.intake.lanes[i]
    let put (l : Lane) : State := { s with intake.lanes := s.intake.lanes.set i.val l }
    (lane.st = .disabled → exec (.laneStart i) s = .next s.finish ∧ exec (.laneByteReceived i b) s = .next s.finish) ∧
    (lane.st = .idle →
      exec (.laneStart i) s = .next (put { lane with st := .receiving ⟨none, none, [], 0⟩ }).finish ∧
      exec (.laneByteReceived i b) s = .next s.finish) ∧
    (∀ p, lane.st = .receiving p →
      exec (.laneStart i) s = .next (put { lane with
        st := .receiving ⟨none, none, [], 0⟩,
        counters := { lane.counters with checkFail := min (lane.counters.checkFail + 1) 65535 } }).finish ∧
      exec (.laneByteReceived i b) s = .next (put { lane with
        st := .receiving
          (if p.rssi = none then { p with rssi := some b }
           else if p.count = none then { p with count := some b }
           else { p with bytes := if p.bytes.length < 27 then p.bytes ++ [b] else p.bytes,
                         delivered := min (p.delivered + 1) 255 }) }).finish)) ∧
  (∀ (s : State) (i : Fin 4), s.asserted = false →
    let lane := s.intake.lanes[i]
    let put (c : LaneCounters) : State :=
      { s with intake.lanes := s.intake.lanes.set i.val { lane with st := .idle, counters := c } }
    ((∀ p, lane.st ≠ .receiving p) → exec (.laneRecordTaken i) s = .next s.finish) ∧
    (∀ p : PartialRecord, lane.st = .receiving p → p.rssi = none ∨ p.count = none →
      exec (.laneRecordTaken i) s = .next (put { lane.counters with
        taken := min (lane.counters.taken + 1) 65535,
        checkFail := min (lane.counters.checkFail + 1) 65535 }).finish) ∧
    (∀ (p : PartialRecord) (r n : Byte) (t : List Byte), lane.st = .receiving p → p.rssi = some r → p.count = some n →
      p.bytes = t →
      let c := { lane.counters with taken := min (lane.counters.taken + 1) 65535 }
      let long := p.delivered = n.toNat ∧ 15 ≤ n.toNat ∧ n.toNat ≤ 27 ∧ (byteAt t 0).toNat = n.toNat ∧
        (byteAt t 12).toNat ≤ 6 ∧ 15 + 2 * (byteAt t 12).toNat = n.toNat
      let checked := (crc16 (t.take (t.length - 2))).toNat = le (t.drop (t.length - 2))
      let typed := byteAt t 1 = 0x31 ∨ byteAt t 1 = 0x32
      let dbm : Int := if 0x74 ≤ r.toNat ∧ r.toNat ≤ 0xEC then (r.toNat : Int) - 256 else -20
      (¬ (long ∧ checked) →
        exec (.laneRecordTaken i) s = .next (put { c with checkFail := min (c.checkFail + 1) 65535 }).finish) ∧
      (long → checked → ¬ typed →
        exec (.laneRecordTaken i) s = .next (put { c with unsupported := min (c.unsupported + 1) 65535 }).finish) ∧
      (long → checked → typed → dbm < lane.floor →
        exec (.laneRecordTaken i) s = .next (put { c with belowFloor := min (c.belowFloor + 1) 65535 }).finish) ∧
      (long → checked → typed → lane.floor ≤ dbm →
        exec (.laneRecordTaken i) s = .next (State.finish (State.lookupRecord (copyOf t dbm i s.runClock) (put c))))))

/-- A record of 15 to 27 bytes as the layout has it (R30): the telegram bytes and its parts. -/
def telegram (answer : Bool) (serial register : Nat) (status seq : Byte) (intervals : List Nat) : List Byte :=
  let body : List Byte :=
    [BitVec.ofNat 8 (15 + 2 * intervals.length), if answer then 0x32 else 0x31] ++ toLE 4 serial ++ toLE 4 register
      ++ [status, seq, BitVec.ofNat 8 intervals.length] ++ intervals.flatMap (toLE 2)
  body ++ toLE 2 (crc16 body).toNat

/-- A good telegram reads back as it was sent (R30, R37): the copy handed over carries every field.

The journal's layouts read back (R26, R121, R122, R182, R184): every READING, MISS and CONFIRM record written is well
formed, of 48 to 60, 18 or 23 bytes, and each of its fields in range stands at the place of the layout with the value
written (the signal byte read as R26 reads it, the lanes with the late, woken and suspect bits, the case with the
attempts, the intervals two bytes each); an index record in range reads back as the batch it describes, undelivered.

The part's own frames read back too (R170, R182; layout 11.3): marker, length, kind, body and CRC-16 on the wire; a
reply's echoed kind, outcome code, flags and data; the fields of the READING, TAMPER, MISSED, LEG and FOREIGN notices
(R38, R72, R85, R113, R117), of which none carries a first status, the model's choice (log 35); and those of BATCH
HEAD, DATA and TAIL (R156 to R158). The codes, command kinds and attribute bits are those of R185 and 11.3, the CRC-16
is that of R183, and a record is one whose kind, length and check byte agree (R184), as an index record is one of good
signature and check (R122). -/
def Obligations.LayoutsReadBack : Prop :=
  ([Phase.none, .loading, .committing, .active, .closed].map Phase.code = [0, 1, 2, 3, 4] ∧
    [EntryState.pending, .queued, .sending, .await, .heard, .read, .verify, .missed, .excluded].map EntryState.code =
      [0, 1, 2, 3, 4, 5, 6, 7, 8] ∧
    [LegState.unvisited, .opened, .passed].map LegState.code = [0, 1, 2] ∧
    [JournalState.scanning, .opened, .full, .fault, .absent, .erasing].map JournalState.code = [0, 1, 2, 3, 4, 5] ∧
    [UploadState.idle, .sending, .awaitAck, .stalled, .done].map UploadState.code = [0, 1, 2, 3, 4] ∧
    [none, some .timeout, some .mismatch, some .readFailure, some .markFailure].map stallCode = [0, 1, 2, 3, 4] ∧
    [MoveCase.zero, .backstep, .forward, .reverse].map MoveCase.code = [0, 1, 2, 3] ∧
    [TamperOutcome.flagged, .suspect, .confirmed, .cleared, .unconfirmed].map TamperOutcome.code = [1, 2, 3, 4, 5] ∧
    [LongOp.recovery, .commit, .clear].map LongOp.code = [1, 2, 3] ∧
    [OpResult.running, .good, .readFailure, .eraseFailure].map OpResult.code = [0, 1, 2, 3] ∧
    [Cmd.identify, .restart, .radioSet, .flagsRead, .flagsClear, .flagsMask, .countersRead].map Cmd.kind =
      [1, 2, 3, 4, 5, 6, 7] ∧
    [Cmd.classWrite, .legWrite, .rosterBegin, .rosterLoad, .rosterCommit, .rosterEdit, .rosterQuery, .rosterDiscard,
      .missedRead].map Cmd.kind = [0x10, 0x11, 0x12, 0x13, 0x14, 0x15, 0x16, 0x17, 0x18] ∧
    [Cmd.legOpen, .legClose, .legStatus, .routeClose, .journalStatus, .batchSeal, .journalClear, .uploadStart,
      .batchReceived, .uploadStop].map Cmd.kind = [0x20, 0x21, 0x22, 0x23, 0x28, 0x29, 0x2A, 0x30, 0x31, 0x32] ∧
    (∀ (a : Attrs) (i : Nat), a.byte.getLsbD i =
      ((i == 0 && a.wake) || (i == 1 && a.wakeAllowed) || (i == 2 && a.excluded))) ∧
    (∀ k : LegCounts, k.bytes =
      toLE 2 k.total ++ toLE 2 k.read ++ toLE 2 k.missed ++ toLE 2 k.excluded ++ toLE 2 k.outstanding)) ∧
  (crc16 [0x31, 0x32, 0x33, 0x34, 0x35, 0x36, 0x37, 0x38, 0x39] = 0x29B1 ∧
    (∀ bs, crc16 bs = crcMore 0xFFFF bs) ∧ (∀ c, crcMore c [] = c) ∧
    (∀ (c : Word16) (b : Byte) (bs : List Byte), crcMore c (b :: bs) = crcMore ((List.range 8).foldl
      (fun r _ => if r.getLsbD 15 then (r <<< 1) ^^^ 0x1021#16 else r <<< 1) (c ^^^ (b.setWidth 16 <<< 8))) bs) ∧
    (∀ (kind : Byte) (b : List Byte), frameCrc kind b = crc16 (BitVec.ofNat 8 (b.length + 1) :: kind :: b))) ∧
  ((∀ kind len : Byte, recordSize kind len = true ↔
      (kind = 0x52 ∧ 48 ≤ len.toNat ∧ len.toNat ≤ 60 ∧ len.toNat % 2 = 0) ∨ (kind = 0x4D ∧ len.toNat = 18) ∨
        (kind = 0x43 ∧ len.toNat = 23)) ∧
    (∀ bs : List Byte, wellFormedRecord bs = true ↔ recordSize (byteAt bs 0) (byteAt bs 1) = true ∧
      (byteAt bs 1).toNat ≤ bs.length ∧ xorAll (bs.take (byteAt bs 1).toNat) = 0) ∧
    (∀ bs : List Byte, xorAll bs = bs.foldl (· ^^^ ·) 0) ∧
    (∀ bs : List Byte, parseIndex bs = if byteAt bs 0 = 0xB7 ∧ xorAll (bs.take 14) = byteAt bs 14 then
        some ⟨field bs 1 2, field bs 3 4, field bs 7 2, field bs 9 1, byteAt bs 10, (byteAt bs 11).getLsbD 0,
          (byteAt bs 11).getLsbD 1, BitVec.ofNat 16 (field bs 12 2), byteAt bs 15⟩
      else none)) ∧
  (∀ (answer : Bool) (serial register : Nat) (status seq : Byte) (intervals : List Nat) (dbm : Int) (i : Fin 4)
    (stamp : BitVec 32), serial < 4294967296 → register < 4294967296 → intervals.length ≤ 6 →
    (∀ x ∈ intervals, x < 65536) →
      let t := telegram answer serial register status seq intervals
      copyOf t dbm i stamp = ⟨serial, register, status, seq, answer, intervals, dbm, i, stamp⟩ ∧
      t.length = 15 + 2 * intervals.length ∧ (byteAt t 0).toNat = t.length ∧
      (crc16 (t.take (t.length - 2))).toNat = le (t.drop (t.length - 2))) ∧
  ((∀ r : ReadingRec, r.intervals.length ≤ 6 →
    wellFormedRecord r.bytes = true ∧ r.bytes.length = 48 + 2 * r.intervals.length ∧ byteAt r.bytes 0 = 0x52 ∧
    (r.routeId < 4294967296 → field r.bytes 3 4 = r.routeId) ∧ (r.serial < 4294967296 → field r.bytes 7 4 = r.serial) ∧
    byteAt r.bytes 11 = r.leg ∧ byteAt r.bytes 12 = r.cls.setWidth 8 ∧
    (r.register < 4294967296 → field r.bytes 13 4 = r.register) ∧ (r.amount < 4294967296 →
      field r.bytes 17 4 = r.amount) ∧
    (r.consumption < 281474976710656 → field r.bytes 21 6 = r.consumption) ∧ (r.rate < 4294967296 →
      field r.bytes 27 4 = r.rate) ∧
    (r.elapsed < 16777216 → field r.bytes 31 3 = r.elapsed) ∧
    byteAt r.bytes 34 = r.status ∧ byteAt r.bytes 35 = r.conds ∧ (r.visit < 256 → (byteAt r.bytes 36).toNat = r.visit) ∧
    (r.total < 256 → (byteAt r.bytes 37).toNat = r.total) ∧ (r.copies < 256 → (byteAt r.bytes 38).toNat = r.copies) ∧
    (∀ i < 8, (byteAt r.bytes 39).getLsbD i =
      (r.lanes.getLsbD i || (i == 4 && r.late) || (i == 5 && r.woken) || (i == 6 && r.suspect))) ∧
    (r.attempts < 8 → (byteAt r.bytes 40).toNat = r.case.code.toNat + 4 * r.attempts) ∧
    (-140 ≤ r.rssi → r.rssi ≤ -20 → rssiOf (byteAt r.bytes 41) = r.rssi) ∧ byteAt r.bytes 42 = r.seq ∧
    (r.routeTime < 4294967296 → field r.bytes 43 4 = r.routeTime) ∧ (byteAt r.bytes 47).toNat = r.intervals.length ∧
    (∀ (i x : Nat), r.intervals[i]? = some x → x < 65536 → field r.bytes (48 + 2 * i) 2 = x)) ∧
  (∀ r : MissRec, wellFormedRecord r.bytes = true ∧ r.bytes.length = 18 ∧ byteAt r.bytes 0 = 0x4D ∧
    (r.routeId < 4294967296 → field r.bytes 3 4 = r.routeId) ∧ (r.serial < 4294967296 → field r.bytes 7 4 = r.serial) ∧
    byteAt r.bytes 11 = r.leg ∧
    byteAt r.bytes 12 = (match r.reason with | .legClosed => 1 | .retries => 2 | .routeClosed => 3) ∧
    (r.attempts < 256 → (byteAt r.bytes 13).toNat = r.attempts) ∧
    (r.routeTime < 4294967296 → field r.bytes 14 4 = r.routeTime)) ∧
  (∀ r : ConfirmRec, wellFormedRecord r.bytes = true ∧ r.bytes.length = 23 ∧ byteAt r.bytes 0 = 0x43 ∧
    (r.routeId < 4294967296 → field r.bytes 3 4 = r.routeId) ∧ (r.serial < 4294967296 → field r.bytes 7 4 = r.serial) ∧
    (r.register < 4294967296 → field r.bytes 11 4 = r.register) ∧ byteAt r.bytes 15 = r.status ∧
    byteAt r.bytes 16 = r.conds ∧ byteAt r.bytes 17 = r.outcome.code ∧
    (r.routeTime < 4294967296 → field r.bytes 18 4 = r.routeTime) ∧
    (-140 ≤ r.rssi → r.rssi ≤ -20 → rssiOf (byteAt r.bytes 22) = r.rssi)) ∧
  (∀ (number first length count : Nat) (leg attrs : Byte) (crc : Word16), number < 65536 → first < 4294967296 →
    length < 65536 → count < 256 →
      (indexBytes number first length count leg attrs crc).length = 16 ∧
      parseIndex (indexBytes number first length count leg attrs crc) =
        some ⟨number, first, length, count, leg, attrs.getLsbD 0, attrs.getLsbD 1, crc, 0xFF⟩)) ∧
  (∀ (kind : Byte) (b : List Byte), b.length ≤ 250 →
    let w := wireBytes kind b
    w.length = b.length + 5 ∧ byteAt w 0 = 0xA5 ∧ (byteAt w 1).toNat = b.length + 1 ∧ byteAt w 2 = kind ∧
    (w.drop 3).take b.length = b ∧
    le (w.drop (b.length + 3)) = (crc16 ((w.drop 1).take (b.length + 2))).toNat) ∧
  (∀ r : Reply, (OutFrame.reply r).frame.1 = r.kind ∧
    let b := (OutFrame.reply r).frame.2
    byteAt b 0 = r.echoed ∧ field b 2 2 = r.flags.toNat ∧ b.drop 4 = r.data ∧
    byteAt b 1 = (match r.outcome with
      | .done => 0 | .check => 1 | .unknown => 2 | .notNow => 3 | .busy => 4 | .param => 5 | .order => 6 | .full => 7
      | .notFound => 8 | .incomplete => 9 | .undelivered => 10 | .mismatch => 11)) ∧
  ((∀ (r : ReadingRec) (d : Nat) (journalled : Bool), (OutFrame.notice (.reading r d journalled)).frame.1 = 0x40 ∧
    let b := (OutFrame.notice (.reading r d journalled)).frame.2
    b.length = 27 ∧ (r.serial < 4294967296 → field b 0 4 = r.serial) ∧
    (r.register < 4294967296 → field b 4 4 = r.register) ∧
    byteAt b 8 = (match r.case with | .zero => 0 | .backstep => 1 | .forward => 2 | .reverse => 3) ∧
    (r.consumption < 281474976710656 → field b 9 6 = r.consumption) ∧
    (r.rate < 4294967296 → field b 15 4 = r.rate) ∧ byteAt b 19 = r.conds ∧
    (r.visit < 256 → (byteAt b 20).toNat = r.visit) ∧ (r.total < 256 → (byteAt b 21).toNat = r.total) ∧
    (r.copies < 256 → (byteAt b 22).toNat = r.copies) ∧ byteAt b 23 = r.lanes.setWidth 8 ∧
    (-140 ≤ r.rssi → r.rssi ≤ -20 → rssiOf (byteAt b 24) = r.rssi) ∧ (d < 256 → (byteAt b 25).toNat = d) ∧
    (∀ i < 8, (byteAt b 26).getLsbD i =
      ((i == 0 && journalled) || (i == 1 && r.late) || (i == 2 && r.woken) || (i == 3 && r.suspect)))) ∧
  (∀ (n : Nat) (l c : Byte) (total : Nat) (i : Fin 4) (dbm : Int) (o : TamperOutcome) (why : MissReason), n < 4294967296 →
    (∃ b, (OutFrame.notice (.tamper n o c total)).frame = (0x41#8, b) ∧ b.length = 7 ∧ field b 0 4 = n ∧
      byteAt b 4 = (match o with
        | .flagged => 1 | .suspect => 2 | .confirmed => 3 | .cleared => 4 | .unconfirmed => 5) ∧
      byteAt b 5 = c ∧ (total < 256 → (byteAt b 6).toNat = total)) ∧
    (∃ b, (OutFrame.notice (.missed n l why)).frame = (0x42#8, b) ∧ b.length = 6 ∧ field b 0 4 = n ∧ byteAt b 4 = l ∧
      byteAt b 5 = (match why with | .legClosed => 1 | .retries => 2 | .routeClosed => 3)) ∧
    (∃ b, (OutFrame.notice (.foreign n i dbm)).frame = (0x44#8, b) ∧ b.length = 6 ∧ field b 0 4 = n ∧
      (byteAt b 4).toNat = i.val ∧ (-140 ≤ dbm → dbm ≤ -20 → rssiOf (byteAt b 5) = dbm))) ∧
  (∀ (l : Byte) (o : Occasion) (st : LegState) (k : LegCounts),
    (OutFrame.notice (.leg l o st k)).frame = (0x43#8,
      [l, (match o with | .settled => 1 | .closed => 2),
        (match st with | .unvisited => 0 | .opened => 1 | .passed => 2)] ++
        toLE 2 k.total ++ toLE 2 k.read ++ toLE 2 k.missed ++ toLE 2 k.excluded ++ toLE 2 k.outstanding))) ∧
  (∀ (k : BatchInfo) (n off : Nat) (bs : List Byte) (crc : Word16) (damaged : Bool), n < 65536 → off < 65536 →
    (∃ b, (OutFrame.upload (.head k)).frame = (0x50#8, b) ∧ b.length = 9 ∧ (k.number < 65536 → field b 0 2 = k.number) ∧
      (k.count < 256 → (byteAt b 2).toNat = k.count) ∧ (k.length < 65536 → field b 3 2 = k.length) ∧
      byteAt b 5 = k.leg ∧
      (∀ i < 8, (byteAt b 6).getLsbD i = ((i == 0 && k.recovered) || (i == 1 && k.void))) ∧
      field b 7 2 = k.crc.toNat) ∧
    (∃ b, (OutFrame.upload (.data n off bs)).frame = (0x51#8, b) ∧ field b 0 2 = n ∧ field b 2 2 = off ∧ b.drop 4 = bs) ∧
    (∃ b, (OutFrame.upload (.tail n crc damaged)).frame = (0x52#8, b) ∧ b.length = 5 ∧ field b 0 2 = n ∧
      field b 2 2 = crc.toNat ∧ byteAt b 4 = (if damaged then 1 else 0)))

/-- What the lookup makes of a record (R35, R36, R38, R45 to R48, R50 to R52): foreign outside ACTIVE, off the roster or
for an EXCLUDED meter; a repeat for a READ one; out of range above the register's modulus; a late copy of the first
reading a repeat; otherwise it joins its meter's HOLDING candidate, or is stale there, or opens one: in a FREE slot,
where the meter but one in VERIFY becomes HEARD, its window stops, its transmission is marked heard and its wake
request leaves the queue (R112), or with no FREE slot after the forced close of the oldest HOLDING candidate (R49). -/
def Obligations.RecordLookup : Prop :=
  ∀ (s : State) (c : Copy),
    let lane := s.intake.lanes[c.lane]
    let count (f : LaneCounters → LaneCounters) : State :=
      { s with intake.lanes := s.intake.lanes.set c.lane.val { lane with counters := f lane.counters } }
    let foreign := count fun k => { k with foreign := min (k.foreign + 1) 65535 }
    let repeated := count fun k => { k with repeated := min (k.repeated + 1) 65535 }
    ((s.roster.phase ≠ .active ∨ s.entry? c.serial = none) →
      s.lookupRecord c =
        if s.intake.forwarding then foreign.requestNotice (.foreign c.serial c.lane c.rssi) else foreign) ∧
    (∀ e, s.roster.phase = .active → s.entry? c.serial = some e →
      (e.st = .excluded → s.lookupRecord c = foreign) ∧
      (e.st = .read → s.lookupRecord c = repeated) ∧
      (e.st ≠ .excluded → e.st ≠ .read →
        let range := 10 ^ (s.roster.classes[e.loaded.cls.toNat]).digits
        (∀ k, s.candOf? c.serial = some k →
          (k.evaluated.isSome → s.lookupRecord c = s) ∧
          (k.evaluated = none → range ≤ c.register → s.lookupRecord c =
            { s with link.counters.outOfRange := min (s.link.counters.outOfRange + 1) 65535 }) ∧
          (k.evaluated = none → c.register < range → 128 ≤ (c.seq - k.best.seq).toNat → s.lookupRecord c =
            count fun k => { k with stale := min (k.stale + 1) 65535 }) ∧
          (k.evaluated = none → c.register < range → (c.seq - k.best.seq).toNat < 128 → s.lookupRecord c =
            s.updCand c.serial fun k => k.join c)) ∧
        (s.candOf? c.serial = none →
          (range ≤ c.register → s.lookupRecord c =
            { s with link.counters.outOfRange := min (s.link.counters.outOfRange + 1) 65535 }) ∧
          (c.register < range → e.st = .verify → e.lastSeq = some c.seq → s.lookupRecord c = repeated) ∧
          (c.register < range → (e.st = .verify → e.lastSeq ≠ some c.seq) →
            (s.pool.cands.length < 64 →
              let opened : Candidate :=
                { serial := c.serial, best := c, copies := 1, lanes := BitVec.twoPow 4 c.lane.val, woken := c.answer,
                  late := e.st == .missed || (s.leg e.loaded.leg).st == .passed, disagreements := 0,
                  opened := c.stamp, holdLeft := s.pool.holdTime * 10, evaluated := none }
              let u : State := { s with pool.cands := s.pool.cands ++ [opened] }
              let v := (if e.st = .verify then u else u.moveTo c.serial .heard).updEntry c.serial
                fun k => { k with window := none }
              let w : State := { v with
                sched.tx := s.sched.tx.map fun x =>
                  if x.serial = c.serial ∧ x.discarded = false then { x with heard := true } else x }
              s.lookupRecord c =
                if c.serial ∈ s.sched.confirms ∨ c.serial ∈ s.sched.sweeps then
                  State.offerLane (State.scan { w with
                    sched.confirms := s.sched.confirms.erase c.serial,
                    sched.sweeps := s.sched.sweeps.erase c.serial })
                else w) ∧
            (64 ≤ s.pool.cands.length → ∀ old, s.pool.cands.find? (fun k => k.evaluated.isNone) = some old →
              let t := State.closeCand old.serial false
                { s with link.counters.forcedClose := min (s.link.counters.forcedClose + 1) 65535 }
              s.lookupRecord c = if t.pool.cands.length < 64 then t.openCand c else t) ∧
            (64 ≤ s.pool.cands.length → (∀ k ∈ s.pool.cands, k.evaluated.isSome) → s.lookupRecord c = s)))))

/-- A further copy in a HOLDING candidate (R50 to R52): of the same transmission it counts and the best copy is the one
with the highest RSSI, the first to come among equals; of a later one it becomes the best copy; lanes and the woken mark
gather, and the copy count and the disagreement count stop at 255. -/
def Obligations.CopyJoins : Prop :=
  ∀ (k : Candidate) (c : Copy), k.copies ≤ 255 → k.disagreements ≤ 255 →
    let j := k.join c
    (c.seq = k.best.seq →
      j.best = (if k.best.rssi < c.rssi then c else k.best) ∧ k.best.rssi ≤ j.best.rssi ∧ c.rssi ≤ j.best.rssi ∧
      j.disagreements = (if c.register = k.best.register then k.disagreements else min (k.disagreements + 1) 255)) ∧
    (c.seq ≠ k.best.seq → j.best = c ∧ j.disagreements = k.disagreements) ∧
    j.copies = min (k.copies + 1) 255 ∧ j.copies ≤ 255 ∧ j.disagreements ≤ 255 ∧
    (∀ n, j.lanes.getLsbD n = (k.lanes.getLsbD n || (c.lane.val == n))) ∧ j.woken = (k.woken || c.answer) ∧
    j.late = k.late ∧ j.opened = k.opened ∧ j.holdLeft = k.holdLeft ∧ j.serial = k.serial ∧ j.evaluated = k.evaluated

/-- A hold timer's expiry closes the meter's HOLDING candidate (R55, R56, R69, R73, R86, R87, R93, R123): its record is
made by the reading evaluator or the confirmation evaluation and offered to the journal. Appended at once, its slot is
FREE, the record is in the buffer, and the meter is READ, or in VERIFY with its suspect set when the reading is
SUSPECT, or READ when a confirmation ended; with no room in the buffer the candidate is CLOSED and waits; refused for
space, which leaves the journal FULL, or by a FULL journal, an unread meter is PENDING again. With no HOLDING candidate
there is nothing to close.

Whatever the journal answers but to wait, the slot is FREE first and then the record's outcome follows, whose notices,
flag and moves WaitOrderRetriedAndReported states.
Where the spec is silent the clauses follow the model's own choices that log 2, 3 name. -/
def Obligations.HoldExpiryCloses : Prop :=
  ∀ (s : State) (n : Nat), s.asserted = false →
    (s.candOf? n = none ∨ (∃ c, s.candOf? n = some c ∧ c.evaluated.isSome) →
      exec (.holdExpiry n) s = .next s.finish) ∧
    (∀ c e, s.candOf? n = some c → c.evaluated = none → s.entry? n = some e →
      let ev := s.evaluate e c false
      let rec' := ev.record.bytes
      (s.journal.st = .opened → (s.journal.waits ≠ [] ∨ s.journal.room rec'.length = .noBuffer) →
        exec (.holdExpiry n) s = .next (State.finish
          { s with
            journal.waits := s.journal.waits ++ [.slot n],
            pool.cands := s.pool.cands.map fun k =>
              if k.serial = n then { k with evaluated := some ev, holdLeft := 0 } else k })) ∧
      ((s.journal.st = .full ∨
          s.journal.st = .opened ∧ s.journal.waits = [] ∧ s.journal.room rec'.length = .noSpace) →
        e.st = .heard → (s.leg e.loaded.leg).st ≠ .passed →
        ∃ t, exec (.holdExpiry n) s = .next t ∧ t.journal.st = .full ∧
          t.entry? n = some { e with st := .pending } ∧ t.candOf? n = none ∧
          t.flag .journalFull = true ∧ t.journal.buffer = s.journal.buffer ∧
          t.link.counters.refusal = min (s.link.counters.refusal + 1) 65535) ∧
      (s.roster.phase = .active → s.journal.st = .opened → s.journal.waits = [] →
        s.journal.room rec'.length = .fits →
        ∃ t, exec (.holdExpiry n) s = .next t ∧ t.candOf? n = none ∧
          t.pool.cands = s.pool.cands.filter (fun k => k.serial != n) ∧
          t.journal.buffer = s.journal.buffer ++ [rec'] ∧
          t.journal.recordEnd = s.journal.recordEnd + rec'.length ∧
          t.intake = s.intake ∧ t.flash.store = s.flash.store ∧
          (∀ r d fl m, ev = .reading r d fl m → e.st = .heard →
            (r.suspect = false →
              t.entry? n = some { e with
                st := .read, prevReg := r.register, readingMinute := some m, totalScore := r.total,
                lastSeq := some r.seq, refStatus := r.status } ∧
              (∀ k, k ≠ n → t.entry? k = s.entry? k) ∧ t.sched.confirms = s.sched.confirms ∧
              t.sched.sweeps = s.sched.sweeps ∧ t.sched.tx = s.sched.tx ∧ t.sched.credit = s.sched.credit) ∧
            (r.suspect = true → n ∉ s.sched.sweeps →
              ∃ x, t.entry? n = some x ∧ x.loaded = e.loaded ∧ x.st = .verify ∧
                x.confirm = some ⟨r.conds &&& 0x0B#8, r.status⟩ ∧ x.refStatus = e.refStatus ∧
                x.prevReg = r.register ∧ x.totalScore = r.total)) ∧
          (e.st = .verify →
            t.entry? n = some { e with st := .read, refStatus := c.best.status, confirm := none, window := none } ∧
            (∀ k, k ≠ n → t.entry? k = s.entry? k))) ∧
      (∀ a t, s.offer ev.record (.slot n) = (a, t) → a ≠ .waiting →
        exec (.holdExpiry n) s = .next (State.finish (State.outcome ev (a == .appended)
          { t with pool.cands := t.pool.cands.filter fun k => k.serial != n }))))

/-- The READING record made at a close (R59 to R62, R69 to R71, R78, R82 to R84): the meter's and the candidate's
fields, the arithmetic of the chapter, the visit and total score, and the suspect mark exactly when the reading is
flagged and its confirmation applies; the meter's time base is the last reading minute, or the previous age and the
route minute.

The conditions of a reading, each by its test (R78 to R81), and the visit score, the sum of the weights of those that
hold (R82).

The confirmation evaluation (R92): the CONFIRM record's fields, the recheck of STATUS_CHANGE, STATUS_ALARM and REVERSE
and of no other condition, CONFIRMED exactly when one of the suspect set holds again, else CLEARED; and the record of a
confirmation that ends unanswered (R95, R96).

The CONFIRM record carries no wake attempts, where R112 differs from R96 and its layout (log 33), and a record of a
state with no route identifier carries 0 (log 30); a READING record carries the entry's attempts as they stand, those
of an earlier opening among them where LEG OPEN left them (log 36): these are the model's choices. -/
def Obligations.ReadingRecordMade : Prop :=
  (∀ (s : State) (e : Entry) (c : Candidate) (routeClosing : Bool), e.st ≠ .verify →
    ∃ r d fl m, s.evaluate e c routeClosing = .reading r d fl m ∧ m = s.roster.routeClock.toNat / 60 ∧
      d = c.disagreements ∧ r.serial = e.loaded.serial ∧ r.leg = e.loaded.leg ∧ r.cls = e.loaded.cls ∧
      r.routeId = s.roster.routeId.getD 0 ∧ r.routeTime = s.roster.routeClock.toNat ∧ r.attempts = e.attempts ∧
      r.register = c.best.register ∧ r.status = c.best.status ∧ r.seq = c.best.seq ∧ r.rssi = c.best.rssi ∧
      r.intervals = c.best.intervals ∧ r.copies = c.copies ∧ r.lanes = c.lanes ∧ r.late = c.late ∧
      r.woken = c.woken ∧
      (let k := s.roster.classes[e.loaded.cls.toNat]
       let diff := forwardDiff r.register e.prevReg (10 ^ k.digits)
       let elapsed := match e.readingMinute with
         | none => e.loaded.prevAge + m
         | some m₀ => m - m₀
       r.conds = conditionsOf k (movementOf k e r.register m) r.status e.refStatus r.intervals ∧
       r.case = moveCase diff (10 ^ k.digits) k.tol ∧ r.amount = amountOf r.case diff (10 ^ k.digits) ∧
       r.consumption = deltaOf r.case diff * k.mult ∧ r.rate = dailyRate r.case r.consumption elapsed ∧
       r.elapsed = min elapsed 16777215 ∧ r.visit = visitScore k r.conds ∧ r.total = min (e.totalScore + r.visit) 255 ∧
       (fl = true ↔ k.threshold ≠ 0 ∧ k.threshold ≤ r.total) ∧
       (r.suspect = true ↔ fl = true ∧ k.confirm = true ∧ (e.attrs.wake = true ∨ e.attrs.wakeAllowed = true) ∧
         r.conds &&& 0x0B#8 ≠ 0 ∧ (s.leg e.loaded.leg).st = .opened ∧ routeClosing = false))) ∧
  (∀ (k : ClassRec) (m : Movement) (status ref : Byte) (iv : List Nat),
    let c := conditionsOf k m status ref iv
    (c.getLsbD 0 = true ↔ (status ^^^ ref) &&& k.watch ≠ 0) ∧
    (c.getLsbD 1 = true ↔ status &&& k.alarm ≠ 0) ∧
    (c.getLsbD 2 = true ↔ m.case = .backstep) ∧ (c.getLsbD 3 = true ↔ m.case = .reverse) ∧
    (c.getLsbD 4 = true ↔ k.rateLimit ≠ 0 ∧ k.rateLimit < m.rate) ∧
    (c.getLsbD 5 = true ↔ k.stopMinutes ≠ 0 ∧ m.case = .zero ∧ k.stopMinutes ≤ m.elapsed) ∧
    (c.getLsbD 6 = true ↔ k.leakHours ≠ 0 ∧ k.leakHours ≤ iv.length ∧ ∀ x ∈ iv.take k.leakHours, k.leakFloor ≤ x) ∧
    (c.getLsbD 7 = true ↔ m.case = .forward ∧ 1 ≤ iv.length ∧ 60 * iv.length ≤ m.elapsed ∧ m.delta < iv.sum)) ∧
  (∀ (k : ClassRec) (c : BitVec 8),
    let w (i : Fin 8) : Nat := if c.getLsbD i.val then k.weights[i] else 0
    visitScore k c = w 0 + w 1 + w 2 + w 3 + w 4 + w 5 + w 6 + w 7) ∧
  (∀ (s : State) (e : Entry) (c : Candidate) (routeClosing : Bool), e.st = .verify →
    ∃ r, s.evaluate e c routeClosing = .confirm r e.totalScore ∧ r.routeId = s.roster.routeId.getD 0 ∧
      r.serial = e.loaded.serial ∧ r.register = c.best.register ∧ r.status = c.best.status ∧
      r.routeTime = s.roster.routeClock.toNat ∧ r.rssi = c.best.rssi ∧
      (let k := s.roster.classes[e.loaded.cls.toNat]
       let diff := forwardDiff c.best.register e.prevReg (10 ^ k.digits)
       (r.conds.getLsbD 0 = true ↔ (c.best.status ^^^ e.refStatus) &&& k.watch ≠ 0) ∧
       (r.conds.getLsbD 1 = true ↔ c.best.status &&& k.alarm ≠ 0) ∧
       (r.conds.getLsbD 3 = true ↔ 10 ^ k.digits / 2 < diff ∧ k.tol < 10 ^ k.digits - diff) ∧
       (∀ i, i ≠ 0 → i ≠ 1 → i ≠ 3 → r.conds.getLsbD i = false)) ∧
      (∀ p, e.confirm = some p →
        (r.outcome = .confirmed ∨ r.outcome = .cleared) ∧
        (r.outcome = .confirmed ↔ ∃ i, r.conds.getLsbD i = true ∧ p.suspect.getLsbD i = true))) ∧
  (∀ (s : State) (e : Entry) (p : ConfirmPart), e.confirm = some p →
    s.unansweredRecord e =
      ⟨s.roster.routeId.getD 0, e.loaded.serial, e.prevReg, p.firstStatus, 0, .unconfirmed,
       s.roster.routeClock.toNat, -140⟩)

/-- R63: the forward difference lies in 0..M-1, is the number of counts from P up to R modulo M, is R - P when R is not
below P and R - P + M otherwise. -/
def Obligations.ForwardDifference : Prop :=
  ∀ r p m : Nat, r < m → p < m →
    forwardDiff r p m < m ∧ (p + forwardDiff r p m) % m = r ∧
    forwardDiff r p m = if p ≤ r then r - p else r + m - p

/-- R64, with the delta and the recorded amount of R65: the case by the ordered tests, the delta and the recorded
amount of each case and their ranges, and that the order of tests 2 and 3 changes nothing; for every modulus that a
class can have and every tolerance. Every READING record holds the case and the amount, in its four-byte field, of its
own meter's registers and class, its consumption is that of the delta, delta and amount are at most half the modulus,
and the conditions BACKSTEP and REVERSE stand exactly in those cases. -/
def Obligations.MovementCases : Prop :=
  (∀ g d t : Nat, 4 ≤ g → g ≤ 9 → d < 10 ^ g → t ≤ 255 →
    let m := 10 ^ g
    let k := moveCase d m t
    (k = .zero ↔ d = 0) ∧ (k = .backstep ↔ d ≠ 0 ∧ m - d ≤ t) ∧
    (k = .forward ↔ d ≠ 0 ∧ ¬ m - d ≤ t ∧ d ≤ m / 2) ∧ (k = .reverse ↔ d ≠ 0 ∧ ¬ m - d ≤ t ∧ ¬ d ≤ m / 2) ∧
    (d ≠ 0 → m - d ≤ t → ¬ d ≤ m / 2) ∧ (t = 0 → k ≠ .backstep) ∧ 2 * (m / 2) = m ∧
    deltaOf k d = (if k = .forward then d else 0) ∧ deltaOf k d ≤ m / 2 ∧ amountOf k d m ≤ m / 2 ∧
    (k = .zero → amountOf k d m = 0) ∧
    (k = .backstep → amountOf k d m = m - d ∧ 1 ≤ m - d ∧ m - d ≤ t) ∧
    (k = .forward → amountOf k d m = d ∧ 1 ≤ d ∧ d ≤ m / 2) ∧
    (k = .reverse → amountOf k d m = m - d ∧ t + 1 ≤ m - d ∧ m - d ≤ m / 2 - 1)) ∧
  (∀ (s : State) (e : Entry) (c : Candidate) (routeClosing : Bool) (r : ReadingRec) (n minute : Nat) (flagged : Bool),
    e.st ≠ .verify → s.evaluate e c routeClosing = .reading r n flagged minute →
      let k := s.roster.classes[e.loaded.cls.toNat]
      let m := 10 ^ k.digits
      let d := forwardDiff c.best.register e.prevReg m
      r.case = moveCase d m k.tol ∧ r.amount = amountOf r.case d m ∧ r.consumption = deltaOf r.case d * k.mult ∧
      (r.conds.getLsbD 2 = true ↔ r.case = .backstep) ∧ (r.conds.getLsbD 3 = true ↔ r.case = .reverse) ∧
      (4 ≤ k.digits → k.digits ≤ 9 → k.tol ≤ 255 → c.best.register < m → e.prevReg < m →
        deltaOf r.case d ≤ m / 2 ∧ r.amount ≤ m / 2 ∧ field r.bytes 17 4 = r.amount ∧
        (byteAt r.bytes 40).toNat % 4 = r.case.code.toNat))

/-- R67: the daily rate is C times 1,440 over the elapsed minutes, at least 1, rounded down and saturated, in FORWARD,
and 0 in the other cases; the product stays below 2^64; the reading's elapsed minutes stay as they are, and HIGH_RATE
compares the saturated rate. -/
def Obligations.DailyRate : Prop :=
  (∀ (k : MoveCase) (c e : Nat), c ≤ 32767500000000 →
    dailyRate k c e ≤ 4294967295 ∧ c * 1440 ≤ 47185200000000000 ∧ c * 1440 < 2 ^ 64 ∧
    (k ≠ .forward → dailyRate k c e = 0) ∧
    (k = .forward → e = 0 → dailyRate k c e = min (c * 1440) 4294967295) ∧
    (k = .forward → 1 ≤ e → dailyRate k c e < 4294967295 →
      dailyRate k c e * e ≤ c * 1440 ∧ c * 1440 < (dailyRate k c e + 1) * e) ∧
    (k = .forward → 1 ≤ e → (dailyRate k c e = 4294967295 ↔ 4294967295 * e ≤ c * 1440))) ∧
  (∀ (k : ClassRec) (e : Entry) (register minute : Nat),
    let m := movementOf k e register minute
    m.rate = dailyRate m.case m.consumption m.elapsed ∧
    m.elapsed = (match e.readingMinute with
      | none => e.loaded.prevAge + minute
      | some m₀ => minute - m₀) ∧
    (highRate k m = true ↔ k.rateLimit ≠ 0 ∧ k.rateLimit < m.rate))

/-! ## The journal, the flash and start-up -/

/-- The answer to an offer (R119, R120, R123, R124, R125, R132): outside OPEN refused and counted; behind waiting
records it waits; with less room than the record and an index record, or without a batch number for a batch it would
open, refused and the journal FULL; with more than 1,024 bytes to hold it waits; else appended. Of the scheduler's
records 4,096 wait at most.

An append (R125, R128, R133): the record joins the open batch, or a new one numbered next, begun at the record end
for the open leg or 255; the batch's count and CRC take it, the buffer holds it, the record end rises by its length; a
batch of 255 records is sealed; below a sixteenth of the store free, JOURNAL_LOW is set.
Where the spec is silent the clauses follow the model's own choices that log 28, 29 names. -/
def Obligations.RecordOfferedAndAppended : Prop :=
  (∀ (s : State) (r : JournalRecord) (w : WaitEntry),
    let len := r.bytes.length
    let space := s.journal.recordEnd + len + 16 ≤ s.journal.indexStart ∧
      (s.journal.openBatch = none → s.journal.nextBatch ≤ 65535)
    let wait : OfferOutcome × State :=
      if w.isHeld = true ∧ 4096 ≤ s.journal.waits.countP WaitEntry.isHeld then
        (.refused, { s with link.counters.refusal := min (s.link.counters.refusal + 1) 65535 })
      else (.waiting, { s with journal.waits := s.journal.waits ++ [w] })
    let counted : State := { s with link.counters.refusal := min (s.link.counters.refusal + 1) 65535 }
    (s.journal.st ≠ .opened → s.journal.st ≠ .full → s.offer r w = (.refused, counted)) ∧
    (s.journal.st = .full → s.offer r w = (.refused, counted.setFlag .journalFull)) ∧
    (s.journal.st = .opened → s.journal.waits ≠ [] → s.offer r w = wait) ∧
    (s.journal.st = .opened → s.journal.waits = [] →
      (¬ space → s.offer r w =
        (.refused, State.setFlag .journalFull { counted with journal.st := .full })) ∧
      (space → 1024 < s.journal.buffer.flatten.length + len → s.offer r w = wait) ∧
      (space → s.journal.buffer.flatten.length + len ≤ 1024 → s.offer r w = (.appended, s.append r.bytes)))) ∧
  (∀ (s : State) (bs : List Byte), s.journal.st = .opened →
    ∃ (b : OpenBatch), (∀ o, s.journal.openBatch = some o → b = o) ∧
      (s.journal.openBatch = none → b.number = s.journal.nextBatch ∧ b.first = s.journal.recordEnd ∧ b.count = 0 ∧
        b.crc = 0xFFFF#16 ∧ b.leg = (s.sched.openLeg.elim 255#8 OpenLeg.leg)) ∧
      let t := s.append bs
      let e := s.journal.recordEnd + bs.length
      t.journal.recordEnd = e ∧ t.journal.buffer = s.journal.buffer ++ [bs] ∧
      t.journal.nextBatch = (if s.journal.openBatch.isSome then s.journal.nextBatch else s.journal.nextBatch + 1) ∧
      (b.count < 254 → t.journal.openBatch = some { b with count := b.count + 1, crc := crcMore b.crc bs } ∧
        t.journal.seals = s.journal.seals ∧ t.journal.indexStart = s.journal.indexStart) ∧
      (254 ≤ b.count → t.journal.openBatch = none ∧ t.journal.indexStart = s.journal.indexStart - 16 ∧
        t.journal.seals = s.journal.seals ++
          [⟨b.number, b.first, e - b.first, b.count + 1, b.leg, crcMore b.crc bs, s.journal.indexStart - 16, false⟩]) ∧
      (t.journal.indexStart - e < s.journal.size / 16 → t.flag .journalLow = true) ∧
      t.roster = s.roster ∧ t.pool = s.pool ∧ t.sched = s.sched ∧ t.flash = s.flash ∧ t.journal.waits = s.journal.waits)

/-- BATCH SEAL (R128, R133, R136): with an open batch in OPEN or FULL, the batch goes to the seal list with the slot
below the index start, JOURNAL_LOW is tested, and the reply carries its number; else nothing happens and the reply
carries 0. Any other seal trigger seals in the same way. -/
def Obligations.BatchSealSeals : Prop :=
  (∀ s : State,
    (∀ b, s.journal.openBatch = some b → (s.journal.st = .opened ∨ s.journal.st = .full) →
      let slot := s.journal.indexStart - 16
      let u : State := { s with
        journal.openBatch := none, journal.indexStart := slot,
        journal.seals := s.journal.seals ++ [⟨b.number, b.first, s.journal.recordEnd - b.first, b.count, b.leg, b.crc,
          slot, false⟩] }
      s.sealOpen = if slot - s.journal.recordEnd < s.journal.size / 16 then u.setFlag .journalLow else u) ∧
    (s.journal.openBatch = none ∨ (s.journal.st ≠ .opened ∧ s.journal.st ≠ .full) → s.sealOpen = s)) ∧
  ∀ s : State, Listening s → s.longOp = false →
    (∀ b, s.journal.openBatch = some b → (s.journal.st = .opened ∨ s.journal.st = .full) →
      let slot := s.journal.indexStart - 16
      let sealed : SealedBatch :=
        { number := b.number, first := b.first, length := s.journal.recordEnd - b.first, count := b.count, leg := b.leg,
          crc := b.crc, slot := slot, requested := false }
      let u : State := { s.received with
        journal.openBatch := none, journal.indexStart := slot, journal.seals := s.journal.seals ++ [sealed] }
      exec (.batchSeal []) s = .next (State.finish (State.replied .batchSeal .done (toLE 2 b.number)
        (if slot - s.journal.recordEnd < s.journal.size / 16 then u.setFlag .journalLow else u)))) ∧
    (s.journal.openBatch = none ∨ (s.journal.st ≠ .opened ∧ s.journal.st ≠ .full) →
      exec (.batchSeal []) s = .next (State.finish (s.received.replied .batchSeal .done (toLE 2 0))))

/-- JOURNAL CLEAR in NONE of a present journal with every record delivered and no upload under way (R137, R138, R139):
the journal is ERASING and the sectors of the written bytes and of the index are erased in ascending order, each once,
the first being requested; with none to erase the clear is done at once. In FAULT with the record end below the index
start the sector that holds the record end is erased too.

The end of a sector erase (R119, R131, R138): good, the 65,536 bytes of the sector are 0xFF, every other byte stays and
the next one is requested, and after the last the journal is OPEN and empty; failed, the journal is in FAULT with the
failure captured, JOURNAL_FAULT and OPERATION_FAILED set, and its offsets, counts and numbers as they were. Where the
spec is silent the clauses follow the model's own choices that log 9, 27 names. -/
def Obligations.JournalClearRuns : Prop :=
  (∀ (m : List Host.Cell) (k a : Nat),
    Memory.read1 (Memory.eraseSector m k) a =
      if k * 65536 ≤ a ∧ a < (k + 1) * 65536 then 0xFF#8 else Memory.read1 m a) ∧
  (∀ s : State, Listening s → s.longOp = false → s.roster.phase = .none → s.upload.st ≠ .sending →
    s.upload.st ≠ .awaitAck → s.journal.st ≠ .absent → s.journal.delivered = s.journal.total →
    s.journal.seals = [] → s.journal.recordEnd = s.journal.newestEnd → s.journal.waits = [] →
      let ks := s.journal.clearSectors
      let u : State := { s.received with
        journal.st := .erasing, journal.lastOp := .clear, journal.lastResult := .running, journal.erasing := ks }
      exec (.journalClear []) s = .next (State.finish (State.replied .journalClear .done []
        (match ks with
         | [] => { u with
            journal.recordEnd := 0, journal.progEnd := 0, journal.indexStart := s.journal.size, journal.total := 0,
            journal.delivered := 0, journal.newestEnd := 0, journal.nextBatch := 1,
            journal.pointer := s.journal.size - 16, journal.st := .opened, journal.lastResult := .good }
         | k :: _ => { u with flash.waiting := s.flash.waiting ++ [.erase k] }))) ∧
      ks.Pairwise (· < ·) ∧
      (s.journal.st = .opened ∨ s.journal.st = .full → ∀ k, k ∈ ks ↔
        k * 65536 < s.journal.recordEnd ∨
          (s.journal.indexStart ≠ s.journal.size ∧ s.journal.indexStart < (k + 1) * 65536 ∧
            (k + 1) * 65536 ≤ s.journal.size)) ∧
      (s.journal.st = .fault → ∀ k, k ∈ ks ↔
        (if s.journal.recordEnd < s.journal.indexStart then k * 65536 ≤ s.journal.recordEnd
         else k * 65536 < s.journal.recordEnd) ∨
          (s.journal.indexStart ≠ s.journal.size ∧ s.journal.indexStart < (k + 1) * 65536 ∧
            (k + 1) * 65536 ≤ s.journal.size))) ∧
  (∀ (s : State) (k : Nat), s.asserted = false → s.flash.port = some (.erase k) →
    (∀ j rest, s.journal.erasing = k :: j :: rest → s.journal.seals = [] →
      ∃ t, exec (.sectorEraseEnd .good) s = .next t ∧ t.journal = { s.journal with erasing := j :: rest } ∧
        t.flash.store = Memory.eraseSector s.flash.store k ∧
        (.erase j ∈ t.flash.waiting ∨ t.flash.port = some (.erase j))) ∧
    (s.journal.erasing = [k] → s.journal.seals = [] →
      ∃ t, exec (.sectorEraseEnd .good) s = .next t ∧ t.flash.store = Memory.eraseSector s.flash.store k ∧
        t.journal = { s.journal with
          st := .opened, recordEnd := 0, progEnd := 0, indexStart := s.journal.size, total := 0, delivered := 0,
          newestEnd := 0, nextBatch := 1, pointer := s.journal.size - 16, lastResult := .good, erasing := [] }) ∧
    (∀ left, ∃ t, exec (.sectorEraseEnd (.failed left)) s = .next t ∧ t.journal.st = .fault ∧
      t.journal.erasing = [] ∧ t.journal.lastResult = .eraseFailure ∧ t.flag .journalFault = true ∧
      t.flag .operationFailed = true ∧
      t.journal.capture = (match s.journal.capture with
        | none => some (k * 65536, 1)
        | some (o, n) => some (o, min (n + 1) 65535)) ∧
      t.flash.store = Memory.overlay s.flash.store (k * 65536) (left.take 65536) ∧
      t.journal.size = s.journal.size ∧ t.journal.recordEnd = s.journal.recordEnd ∧
      t.journal.progEnd = s.journal.progEnd ∧ t.journal.indexStart = s.journal.indexStart ∧
      t.journal.total = s.journal.total ∧ t.journal.delivered = s.journal.delivered ∧
      t.journal.newestEnd = s.journal.newestEnd ∧ t.journal.nextBatch = s.journal.nextBatch ∧
      t.journal.pointer = s.journal.pointer ∧ t.journal.buffer = s.journal.buffer ∧
      t.journal.waits = s.journal.waits ∧ t.journal.openBatch = s.journal.openBatch ∧
      t.journal.lastOp = s.journal.lastOp ∧
      t.roster = s.roster ∧ t.pool = s.pool ∧ t.sched = s.sched ∧ t.intake = s.intake))

/-- PAGE_PROGRAM_END (R126): the bytes are in the store, they leave the buffer, the programmed end passes them, and the
wait order is retried. INDEX_PROGRAM_END (R129): the index record is in the store, the sealed batch is one of the
journal's batches, and an engine that is SENDING and waits for a batch to join chooses again (UploadStartsAndStops),
any other going on as it was (R155).

What leaves the buffer is what was programmed: the bytes behind stay in order (R126). Bytes programmed over blank bytes
read back as they were given, and every byte outside them stays (R119). Where the spec is silent the clauses follow the
model's own choices that log 10 names. -/
def Obligations.ProgramsEndGood : Prop :=
  (∀ s : State, s.asserted = false →
    (∀ off bs, s.flash.port = some (.page off bs) →
      exec .pageProgramEnd s = .next (State.finish (State.retry
        { s with
          flash.port := none, flash.portLeft := 0, flash.store := Memory.program s.flash.store off bs,
          journal.progEnd := s.journal.progEnd + bs.length, journal.buffer := dropHeld bs.length s.journal.buffer }))) ∧
    (∀ off bs b rest, s.flash.port = some (.index off bs) → s.journal.seals = b :: rest →
      exec .indexProgramEnd s = .next (State.finish (State.sealsChanged
        { s with
          flash.port := none, flash.portLeft := 0, flash.store := Memory.program s.flash.store off bs,
          journal.seals := rest, journal.total := s.journal.total + 1, journal.newestEnd := b.first + b.length })))) ∧
  (∀ s : State,
    (s.upload.st = .sending → s.upload.stage = .waitingSeal → s.sealsChanged = s.chooseBatch) ∧
    (s.upload.st ≠ .sending ∨ s.upload.stage ≠ .waitingSeal → s.sealsChanged = s)) ∧
  (∀ (n : Nat) (buf : List (List Byte)), (dropHeld n buf).flatten = buf.flatten.drop n) ∧
  (∀ (m : List Host.Cell) (off : Nat) (bs : List Byte), Memory.wf m →
    ((∀ i < bs.length, Memory.read1 m (off + i) = 0xFF#8) →
      Memory.readN (Memory.program m off bs) off bs.length = bs) ∧
    (∀ a, a < off ∨ off + bs.length ≤ a → Memory.read1 (Memory.program m off bs) a = Memory.read1 m a))

/-- A retry of the wait order (R124), one record at a time, for any record in front of any rest: in OPEN, with no room in
the buffer it stays and the retry ends; with room it is appended, its owner told, and the retry goes on; with no space
it is refused and counted, the journal is FULL with JOURNAL_FULL, its owner is told, and the rest is refused in turn;
outside OPEN each record is refused, in FULL with JOURNAL_FULL (R120, R123). With none waiting nothing happens.

What the owner does with the answer: a scheduler's record nothing; a CLOSED candidate's slot is FREE and its record's
outcome follows (R56); a moved record has only its notices and flag. An appended READING makes its meter READ, or
VERIFY with its suspect set, and requests READING, TAMPER when flagged or suspect, and its TAMPER flag (R72, R73, R85
to R87, R89); a refused one makes it PENDING, or MISSED in a PASSED leg after the READING notice (R18, R72; their
order is log 16's). An appended CONFIRM record, or any while the route is CLOSED, ends the confirmation with a TAMPER
notice (R93).
The notices of a suspect reading carry no status, where R90 differs from R72, R85 and the layout (log 35). Where the
spec is silent the clauses follow the model's own choices that log 16 and 29 name. -/
def Obligations.WaitOrderRetriedAndReported : Prop :=
  (∀ s : State,
    (s.journal.waits = [] → s.retry = s) ∧
    (∀ w rest r, s.journal.waits = w :: rest → s.waitRecord w = some r →
      let u : State := { s with journal.waits := rest }
      let refused : State := { u with link.counters.refusal := min (s.link.counters.refusal + 1) 65535 }
      (s.journal.st = .opened → s.journal.room r.bytes.length = .noBuffer → s.retry = s) ∧
      (s.journal.st = .opened → s.journal.room r.bytes.length = .fits →
        s.retry = State.retry (State.report w true (u.append r.bytes))) ∧
      (s.journal.st = .opened → s.journal.room r.bytes.length = .noSpace →
        s.retry = State.retry (State.report w false (State.setFlag .journalFull { refused with journal.st := .full }))) ∧
      (s.journal.st ≠ .opened → s.retry = State.retry (State.report w false
        (if s.journal.st = .full then refused.setFlag .journalFull else refused)))) ∧
    (∀ r rest, s.journal.waits = .held r :: rest → rest = [] → s.journal.st = .opened →
      s.journal.room r.bytes.length = .fits →
      s.retry = State.append r.bytes { s with journal.waits := [] }) ∧
    (s.journal.st ≠ .opened → (∀ w ∈ s.journal.waits, w.isHeld = true) → s.link.counters.refusal ≤ 65535 →
      s.retry.journal.waits = [] ∧ s.retry.roster = s.roster ∧
        s.retry.link.counters.refusal = min (s.link.counters.refusal + s.journal.waits.length) 65535)) ∧
  (∀ (s : State) (a : Bool),
    (∀ r, s.waitRecord (.held r) = some r ∧ s.report (.held r) a = s) ∧
    (∀ ev, s.waitRecord (.moved ev) = some ev.record ∧ s.report (.moved ev) a = s.orphanOutcome ev a) ∧
    (∀ n c ev, s.candOf? n = some c → c.evaluated = some ev →
      s.waitRecord (.slot n) = some ev.record ∧
      s.report (.slot n) a = State.outcome ev a { s with pool.cands := s.pool.cands.filter fun k => k.serial != n }) ∧
    (∀ r d fl m,
      let ev : Evaluated := .reading r d fl m
      let told : State := s.requestNotice (.reading r d a)
      let flagged (t : State) : State :=
        if fl = true then State.setFlag .tamper (t.requestNotice (.tamper r.serial .flagged r.conds r.total)) else t
      s.orphanOutcome ev a = (if a = true then flagged told else told) ∧
      (s.entry? r.serial = none → s.outcome ev a = s.orphanOutcome ev a) ∧
      (∀ e, s.entry? r.serial = some e →
        (a = true → r.suspect = false → s.outcome ev a = State.settleTest (flagged (State.requestNotice (.reading r d true)
          (State.moveTo r.serial .read (s.updEntry r.serial fun x =>
            { x with prevReg := r.register, readingMinute := some m, totalScore := r.total, lastSeq := some r.seq,
                     refStatus := r.status }))))) ∧
        (a = true → r.suspect = true →
          let v := State.requestNotice (.tamper r.serial .suspect r.conds r.total) (State.requestNotice (.reading r d true)
            (State.moveTo r.serial .verify (s.updEntry r.serial fun x =>
              { x with prevReg := r.register, readingMinute := some m, totalScore := r.total, lastSeq := some r.seq,
                       attempts := 0, confirm := some ⟨r.conds &&& 0x0B#8, r.status⟩ })))
          s.outcome ev a =
            (if s.roster.phase = .closed then v.endUnanswered r.serial true
             else if (s.leg r.leg).st = .opened then v.offerConfirm r.serial else v.endUnanswered r.serial false)) ∧
        (a = false → (s.leg r.leg).st ≠ .passed →
          s.outcome ev a = State.requestNotice (.reading r d false) (s.moveTo r.serial .pending)) ∧
        (a = false → (s.leg r.leg).st = .passed →
          s.outcome ev a = State.missMeter r.serial (if s.roster.phase = .closed then .routeClosed else .legClosed)
            (s.requestNotice (.reading r d false))))) ∧
    (∀ r k,
      let ev : Evaluated := .confirm r k
      let tell (total : Nat) (t : State) : State :=
        let v := t.requestNotice (.tamper r.serial r.outcome r.conds total)
        if r.outcome = .flagged ∨ r.outcome = .confirmed then v.setFlag .tamper else v
      s.orphanOutcome ev a = tell k s ∧
      (s.entry? r.serial = none → s.outcome ev a = s.orphanOutcome ev a) ∧
      (∀ e, s.entry? r.serial = some e →
        (a = true ∨ s.roster.phase = .closed → s.outcome ev a = State.settleTest (tell e.totalScore
          (State.moveTo r.serial .read (s.updEntry r.serial fun x =>
            { x with refStatus := r.status, confirm := none, window := none })))) ∧
        (a = false → s.roster.phase ≠ .closed → s.outcome ev a = s))))

/-- PROGRAM_FAILURE of a page or an index program (R130, R131): JOURNAL_FAULT, the failure captured, the journal in
FAULT, the buffered records counted as refusals and gone, the record end back at the programmed end, no open and no
sealed batch, the index start back at the first sealed batch's slot, above it for a failed page program and at it for a
failed index program, whose slot is used up (step 4), and no page or index program left waiting at the port (log 24);
then every waiting record is refused, the scheduler's counted and the roster as it was (step 6, R124), and an engine
that waits for a batch to join chooses again, the seal list being empty (R155; ProgramsEndGood spells sealsChanged). A
recovery seal's index program that fails ends the recovery in FAULT with the failure captured, the record end at the
index start and the good slots found as the batches (R150).

MARK_PROGRAM_END (R134, R155, R162): good, the batch's mark byte is 0, one more batch is delivered, the pointer is the
slot below, and the engine that waited for it chooses its next batch; failed, the batch stays undelivered, the failure
is a fault of the journal, and the engine that waited for it stalls with UPLOAD_STALLED. A mark that fails in FAULT
sets JOURNAL_FAULT and is captured, and changes nothing else of the journal (R130). Where the spec is silent the
clauses follow the model's own choices that log 9, 23, 24 name. -/
def Obligations.ProgramsEndFailedOrMarked : Prop :=
  (∀ (m : List Host.Cell) (off : Nat) (bs : List Byte) (a : Nat), Memory.wf m →
    Memory.read1 (Memory.overlay m off bs) a =
      if off ≤ a ∧ a < off + bs.length then byteAt bs (a - off) else Memory.read1 m a) ∧
  (∀ (s : State) (left : List Byte), s.asserted = false →
    (∀ off bs, s.flash.port = some (.page off bs) → (s.journal.st = .opened ∨ s.journal.st = .full) →
      s.journal.waits = [] → s.upload.st = .idle →
      ∃ t, exec (.programFailure left) s = .next t ∧ t.journal.st = .fault ∧ t.journal.buffer = [] ∧
        t.journal.seals = [] ∧ t.journal.openBatch = none ∧ t.journal.recordEnd = s.journal.progEnd ∧
        t.journal.progEnd = s.journal.progEnd ∧ t.flag .journalFault = true ∧
        t.journal.capture = (match s.journal.capture with
          | none => some (off, 1)
          | some (o, n) => some (o, min (n + 1) 65535)) ∧
        t.link.counters.refusal = min (s.link.counters.refusal + s.journal.buffer.length) 65535 ∧
        t.flash.store = Memory.overlay s.flash.store off (left.take bs.length) ∧
        (∀ o b, FlashReq.page o b ∉ t.flash.waiting ∧ FlashReq.index o b ∉ t.flash.waiting) ∧
        t.roster = s.roster ∧ t.pool = s.pool ∧ t.sched = s.sched ∧ t.intake = s.intake) ∧
    (∀ off bs r, s.flash.port = some (.recoveryIndex off bs) → s.startup = some (.scanning r) →
      ∃ t, exec (.programFailure left) s = .next t ∧ t.startup = none ∧ t.journal.st = .fault ∧
        t.flag .journalFault = true ∧ t.flash.store = Memory.overlay s.flash.store off (left.take bs.length) ∧
        exec (.recoveryIndexProgramEnd (.failed left)) s = .next t ∧
        t.journal.recordEnd = r.lowest ∧ t.journal.indexStart = r.lowest ∧ t.journal.total = r.total ∧
        t.journal.delivered = r.delivered ∧ t.journal.newestEnd = r.newestEnd ∧ t.journal.nextBatch = r.nextBatch ∧
        t.journal.pointer = r.pointer ∧ t.journal.size = r.size ∧ t.journal.lastResult = .good ∧
        t.journal.capture = (match s.journal.capture with
          | none => some (off, 1)
          | some (o, n) => some (o, min (n + 1) 65535)))) ∧
  (∀ (s : State) (slot : Nat) (b : BatchInfo), s.asserted = false → s.flash.port = some (.mark slot b) →
    ∃ u : State, u = { s with
      flash.port := none, flash.portLeft := 0, flash.store := Memory.write1 s.flash.store (slot + 15) 0,
      journal.delivered := s.journal.delivered + 1, journal.pointer := slot - 16 } ∧
    (s.upload.st = .sending → s.upload.stage = .marking →
      exec (.markProgramEnd .good) s = .next (State.finish u.chooseBatch)) ∧
    (¬ (s.upload.st = .sending ∧ s.upload.stage = .marking) → exec (.markProgramEnd .good) s = .next u.finish) ∧
    (∀ left, s.upload.st = .sending → s.upload.stage = .marking → s.journal.st = .opened ∨ s.journal.st = .full →
      s.journal.waits = [] →
      ∃ t, exec (.markProgramEnd (.failed left)) s = .next t ∧ t.upload.st = .stalled ∧
        t.upload.stall = some .markFailure ∧ t.flag .uploadStalled = true ∧ t.flag .journalFault = true ∧
        t.journal.st = .fault ∧ t.journal.delivered = s.journal.delivered ∧ t.journal.pointer = s.journal.pointer) ∧
    (∀ left, exec (.programFailure left) s = exec (.markProgramEnd (.failed left)) s ∧
      (let capture : Option (Nat × Nat) := match s.journal.capture with
         | none => some (slot + 15, 1)
         | some (o, n) => some (o, min (n + 1) 65535)
       let v : State := State.setFlag .journalFault { s with
         flash.port := none, flash.portLeft := 0, journal.capture := capture,
         flash.store := Memory.overlay s.flash.store (slot + 15) (left.take 1) }
       (s.journal.st = .fault →
         (s.upload.st = .sending → s.upload.stage = .marking →
           exec (.markProgramEnd (.failed left)) s = .next (State.finish (State.setFlag .uploadStalled
             { v with
               upload.st := .stalled, upload.stall := some .markFailure, upload.ready := none,
               upload.tailOut := false, upload.ackLeft := 0 }))) ∧
         (¬ (s.upload.st = .sending ∧ s.upload.stage = .marking) →
           exec (.markProgramEnd (.failed left)) s = .next v.finish)) ∧
       (s.journal.st = .opened ∨ s.journal.st = .full →
         ∃ t, exec (.markProgramEnd (.failed left)) s = .next t ∧ t.flag .journalFault = true ∧
           t.flash.store = v.flash.store ∧
           t.journal = { s.journal with
             st := .fault, buffer := [], recordEnd := s.journal.progEnd, seals := [], openBatch := none, waits := [],
             indexStart := match s.journal.seals with
               | [] => s.journal.indexStart
               | b :: _ => b.slot + 16,
             capture := capture })))) ∧
  (∀ (s : State) (left : List Byte) (off : Nat) (bs : List Byte) (index : Bool), s.asserted = false →
    s.flash.port = some (if index then .index off bs else .page off bs) →
    (s.journal.st = .opened ∨ s.journal.st = .full) →
      ∃ t, exec (.programFailure left) s = .next t ∧
        t.journal = { s.journal with
          st := .fault, buffer := [], recordEnd := s.journal.progEnd, seals := [], openBatch := none, waits := [],
          indexStart := match s.journal.seals with
            | [] => s.journal.indexStart
            | b :: _ => if index then b.slot else b.slot + 16,
          capture := match s.journal.capture with
            | none => some (off, 1)
            | some (o, n) => some (o, min (n + 1) 65535) } ∧
        t.flag .journalFault = true ∧ t.flash.store = Memory.overlay s.flash.store off (left.take bs.length) ∧
        ((∀ w ∈ s.journal.waits, w.isHeld = true) → t.roster = s.roster ∧
          t.link.counters.refusal =
            min (s.link.counters.refusal + s.journal.buffer.length + s.journal.waits.length) 65535)) ∧
  (∀ (s : State) (left : List Byte), s.asserted = false → (s.journal.st = .opened ∨ s.journal.st = .full) →
    let fallen (off n : Nat) (index : Bool) : State := State.sealsChanged (State.retry (State.setFlag .journalFault
      { s with
        flash.port := none, flash.portLeft := 0, flash.store := Memory.overlay s.flash.store off (left.take n),
        flash.waiting := s.flash.waiting.filter (fun r =>
          match r with
          | .page _ _ => false
          | .index _ _ => false
          | _ => true),
        link.counters.refusal := min (s.link.counters.refusal + s.journal.buffer.length) 65535,
        journal := { s.journal with
          st := .fault, buffer := [], recordEnd := s.journal.progEnd, seals := [], openBatch := none,
          indexStart := (match s.journal.seals with
            | [] => s.journal.indexStart
            | b :: _ => if index then b.slot else b.slot + 16),
          capture := (match s.journal.capture with
            | none => some (off, 1)
            | some (o, k) => some (o, min (k + 1) 65535)) } }))
    (∀ (off : Nat) (bs : List Byte) (index : Bool),
      s.flash.port = some (if index then .index off bs else .page off bs) →
        exec (.programFailure left) s = .next (State.finish (fallen off bs.length index))) ∧
    (∀ (slot : Nat) (k : BatchInfo), s.flash.port = some (.mark slot k) →
      let t := fallen (slot + 15) 1 false
      exec (.markProgramEnd (.failed left)) s = .next (State.finish
        (if t.upload.st = .sending ∧ t.upload.stage = .marking then State.setFlag .uploadStalled
           { t with upload.st := .stalled, upload.stall := some .markFailure, upload.ready := none,
                    upload.tailOut := false, upload.ackLeft := 0 }
         else t))))

/-- Start-up (R142 to R145, R151, R153): the flash ready, what it was finishing has ended and its identification is
asked for; a capacity code of 21 to 27 gives a store of 2 to that power bytes whose recovery scan reads slot 1 first,
with no batch found yet, the delivered run open and the pointer at slot 1; any other code, no answer or no ready flash
leaves the journal ABSENT and start-up over. Where the spec is silent the clauses follow the model's own choices that
log 2, 9 names. -/
def Obligations.StartUpIdentifies : Prop :=
  ∀ s : State, s.asserted = false →
    (∀ left, s.startup = some (.readyWait left) →
      (∀ e, exec (.flashReady e) s = .next (State.finish
        { s with
          startup := some .identWait, flash.waiting := s.flash.waiting ++ [.identify], flash.unfinished := none,
          flash.store := match s.flash.unfinished with
            | some r => r.effect e s.flash.store
            | none => s.flash.store })) ∧
      exec .flashReadyTimeout s = .next (State.finish
        { s with startup := none, journal.st := .absent, journal.lastResult := .good })) ∧
    (s.startup = some .identWait →
      (∀ (b0 b1 c : Byte), 21 ≤ c.toNat → c.toNat ≤ 27 →
        ∃ r, exec (.identificationResponse b0 b1 c) s = .next (State.finish
            { s with
              startup := some (.scanning r), flash.port := none, flash.portLeft := 0,
              flash.waiting := s.flash.waiting ++ [.read .recovery (2 ^ c.toNat - 16) 16] }) ∧
          r.size = 2 ^ c.toNat ∧ r.slot = 2 ^ c.toNat - 16 ∧ r.lowest = 2 ^ c.toNat ∧ r.stage = .indexWalk ∧
          r.total = 0 ∧ r.delivered = 0 ∧ r.nextBatch = 1 ∧ r.newestEnd = 0 ∧ r.maxEnd = 0 ∧ r.lastNumber = 0 ∧
          r.runOpen = true ∧ r.pointer = 2 ^ c.toNat - 16 ∧ r.recordEnd = 0) ∧
      (∀ (b0 b1 c : Byte), ¬ (21 ≤ c.toNat ∧ c.toNat ≤ 27) →
        exec (.identificationResponse b0 b1 c) s = .next (State.finish
          { s with startup := none, flash.port := none, flash.portLeft := 0, journal.st := .absent,
                   journal.lastResult := .good })) ∧
      exec .identificationTimeout s = .next (State.finish
        { s with startup := none, flash.port := none, flash.portLeft := 0, journal.st := .absent,
                 journal.lastResult := .good }))

/-- The recovery scan. Over a blank store (R144, R146, R149): a blank slot 1 ends the index walk, and blank first bytes
end the scan with an empty OPEN journal. A failed read leaves the journal in FAULT with OPERATION_FAILED, the record
end at the index start, the batches found so far and their delivered count, and nothing captured (R150).

The index walk (R144, R145): a blank slot ends it wherever it stands; a good index record is a batch and continues or
ends the delivered run; a slot neither blank nor good is dead; the walk goes on one slot lower while a slot can lie
there. The record walk (R146): a well formed record ending at most at the index start is passed, and the walk ends only
at the index start itself; blank bytes to the page's end end it; anything else is torn, also where no byte is left; a
torn record has the next blank page looked for, within 65,535 bytes and the store.

The seals (R147, R148): runs of 255 records become RECOVERED batches of leg 255, torn bytes a VOID batch up to the
blank page while they and its slot fit, else they join the last run, and the journal ends FULL; each seal's index
program takes the next slot down, requested at once with the CRC of the span as the store holds it and no read at the
port, which is the model's reading (log 21); one that cannot be made ends the recovery FULL; one that programs well
counts as a batch. Where the spec is silent the clauses follow the model's own choices that log 13, 14, 21, 22, 34
name. -/
def Obligations.RecoveryScanReads : Prop :=
  (∀ (s : State) (r : Recovery) (off len : Nat), s.asserted = false → s.startup = some (.scanning r) →
    (s.flash.port = some (.read .recovery off len) →
      (r.stage = .indexWalk → r.newestEnd < r.lowest →
        (∀ i < len, Memory.read1 s.flash.store (off + i) = 0xFF#8) →
        exec (.recoveryReadEnd true) s = .next (State.finish
          { s with
            startup := some (.scanning { r with recordEnd := r.newestEnd, stage := .recordWalk r.newestEnd [] }),
            flash.port := none, flash.portLeft := 0,
            flash.waiting := s.flash.waiting ++ [.read .recovery r.newestEnd (min 256 (r.size - r.newestEnd))] })) ∧
      (∀ p, r.stage = .recordWalk p [] → 0 < len →
        (∀ i < len, Memory.read1 s.flash.store (off + i) = 0xFF#8) →
        ∃ t, exec (.recoveryReadEnd true) s = .next t ∧ t.startup = none ∧ t.journal.st = .opened ∧
          t.journal.size = r.size ∧ t.journal.recordEnd = r.recordEnd ∧ t.journal.progEnd = r.recordEnd ∧
          t.journal.indexStart = r.lowest ∧ t.journal.total = r.total ∧ t.journal.delivered = r.delivered ∧
          t.journal.nextBatch = r.nextBatch ∧ t.journal.pointer = r.pointer ∧ t.journal.lastResult = .good ∧
          (r.lowest - r.recordEnd < r.size / 16 → t.flag .journalLow = true) ∧ t.flash.store = s.flash.store) ∧
      ∃ t, exec (.recoveryReadEnd false) s = .next t ∧ t.startup = none ∧ t.journal.st = .fault ∧
        t.journal.lastResult = .readFailure ∧ t.flag .operationFailed = true ∧ t.flash.store = s.flash.store ∧
        t.journal.recordEnd = r.lowest ∧ t.journal.indexStart = r.lowest ∧ t.journal.total = r.total ∧
        t.journal.delivered = r.delivered ∧ t.journal.newestEnd = r.newestEnd ∧ t.journal.nextBatch = r.nextBatch ∧
        t.journal.pointer = r.pointer ∧ t.journal.size = r.size ∧ t.journal.capture = s.journal.capture ∧
        t.flag .journalFault = s.flag .journalFault) ∧
    (∀ bs p full, s.flash.port = some (.recoveryIndex off bs) → r.stage = .sealing [p] full →
      ∃ t, exec (.recoveryIndexProgramEnd .good) s = .next t ∧ t.startup = none ∧
        t.journal.st = (if full then .full else .opened) ∧ t.journal.total = r.total + 1 ∧
        t.journal.recordEnd = p.stop ∧ t.journal.newestEnd = p.stop ∧ t.journal.indexStart = r.lowest ∧
        (full = true → t.flag .journalFull = true) ∧ t.flash.store = Memory.program s.flash.store off bs)) ∧
  (∀ (s : State) (r : Recovery) (off len : Nat), s.asserted = false → s.startup = some (.scanning r) →
    s.flash.port = some (.read .recovery off len) →
      let bs := Memory.readN s.flash.store off len
      let u : State := { s with flash.port := none, flash.portLeft := 0 }
      let ask (q : Recovery) (o n : Nat) : State :=
        { u with startup := some (.scanning q), flash.waiting := s.flash.waiting ++ [.read .recovery o n] }
      let below (g : Recovery) : State :=
        if 16 ≤ r.slot ∧ g.maxEnd ≤ r.slot - 16 then ask { g with slot := r.slot - 16 } (r.slot - 16) 16
        else u.walkTo g g.newestEnd []
      let hunt (q : Recovery) (p page : Nat) (recs : List (Nat × Nat)) : State :=
        if page - p ≤ 65535 ∧ page < r.size then ask { q with stage := .blankSearch p page recs } page 256
        else u.sealTorn q recs p none
      (r.stage = .indexWalk →
        ((∀ b ∈ bs, b = 0xFF#8) →
          exec (.recoveryReadEnd true) s = .next (State.finish (u.walkTo r r.newestEnd []))) ∧
        (∀ b, parseIndex bs = some b → r.lastNumber < b.number →
          let marked := r.runOpen && b.mark != 0xFF#8
          exec (.recoveryReadEnd true) s = .next (State.finish (below
            { r with
              lastNumber := b.number, newestEnd := b.first + b.length, maxEnd := max r.maxEnd (b.first + b.length),
              lowest := r.slot, total := r.total + 1, delivered := if marked then r.delivered + 1 else r.delivered,
              runOpen := marked, pointer := if marked then r.slot - 16 else r.pointer, nextBatch := b.number + 1 }))) ∧
        ((∃ b ∈ bs, b ≠ 0xFF#8) → (∀ b, parseIndex bs = some b → b.number ≤ r.lastNumber) →
          exec (.recoveryReadEnd true) s = .next (State.finish (below { r with lowest := r.slot })))) ∧
      (∀ p recs, r.stage = .recordWalk p recs →
        let n := (byteAt bs 1).toNat
        (wellFormedRecord bs = true → p + n ≤ r.lowest →
          exec (.recoveryReadEnd true) s = .next (State.finish (u.walkTo r (p + n) (recs ++ [(p, n)])))) ∧
        (0 < len → (∀ b ∈ bs.take (256 - p % 256), b = 0xFF#8) →
          exec (.recoveryReadEnd true) s = .next (State.finish (u.sealWalked r recs))) ∧
        ((byteAt bs 0 = 0xFF#8 ∧ (∃ b ∈ bs.take (256 - p % 256), b ≠ 0xFF#8)) ∨
            (byteAt bs 0 ≠ 0xFF#8 ∧ (wellFormedRecord bs = false ∨ r.lowest < p + n)) →
          exec (.recoveryReadEnd true) s = .next (State.finish (hunt { r with recordEnd := p } p ((p / 256 + 1) * 256) recs)))) ∧
      (∀ p page recs, r.stage = .blankSearch p page recs →
        ((∀ b ∈ bs, b = 0xFF#8) →
          exec (.recoveryReadEnd true) s = .next (State.finish (u.sealTorn r recs p (some page)))) ∧
        ((∃ b ∈ bs, b ≠ 0xFF#8) →
          exec (.recoveryReadEnd true) s = .next (State.finish (hunt r p (page + 256) recs))))) ∧
  (∀ (s : State) (r : Recovery) (p : Nat) (recs : List (Nat × Nat)),
    (p = r.lowest → s.walkTo r p recs = s.sealWalked { r with recordEnd := p } recs) ∧
    (p < r.lowest ∨ (p ≠ r.lowest ∧ p < r.size) → s.walkTo r p recs =
      { s with startup := some (.scanning { r with recordEnd := p, stage := .recordWalk p recs }),
               flash.waiting := s.flash.waiting ++ [.read .recovery p (min 256 (r.size - p))] }) ∧
    (r.lowest < p → r.size ≤ p → s.walkTo r p recs = s.sealTorn { r with recordEnd := p } recs p none)) ∧
  (∀ (s : State) (r : Recovery) (recs : List (Nat × Nat)) (t : Nat) (page : Option Nat),
    let runs := runSpans recs
    let stop := page.getD (t + 65535)
    let own := r.lowest - 16 * runs.length
    s.sealWalked r recs = s.nextSeal r runs false ∧
    runs.length = (recs.length + 254) / 255 ∧
    (∀ k a z, recs[255 * k]? = some a → recs[min (255 * k + 254) (recs.length - 1)]? = some z →
      runs[k]? = some ⟨a.1, z.1 + z.2, min 255 (recs.length - 255 * k), false⟩) ∧
    (16 * (runs.length + 1) ≤ r.lowest → t < own - 16 →
      s.sealTorn r recs t page = s.nextSeal r (runs ++ [⟨t, min stop (own - 16), 0, true⟩])
        (page.isNone || decide (own - 16 < stop))) ∧
    (r.lowest < 16 * (runs.length + 1) ∨ own - 16 ≤ t →
      (runs = [] → s.sealTorn r recs t page = s.nextSeal r [⟨t, stop, 0, true⟩] true) ∧
      (∀ front z, runs = front ++ [z] →
        s.sealTorn r recs t page = s.nextSeal r (front ++ [{ z with stop := max z.stop (min stop own) }]) true))) ∧
  (∀ (s : State) (r : Recovery) (p : Span) (rest : List Span) (full : Bool),
    (r.nextBatch ≤ 65535 → 16 ≤ r.lowest → p.stop ≤ r.lowest - 16 →
      s.nextSeal r (p :: rest) full =
        { s with
          startup := some (.scanning { r with
            lowest := r.lowest - 16, nextBatch := r.nextBatch + 1, stage := .sealing (p :: rest) full }),
          flash.waiting := s.flash.waiting ++ [.recoveryIndex (r.lowest - 16)
            (indexBytes r.nextBatch p.first (p.stop - p.first) p.count 255 (if p.void then 2 else 1)
              (crc16 (Memory.readN s.flash.store p.first (p.stop - p.first))))] }) ∧
    (65535 < r.nextBatch ∨ r.lowest < 16 ∨ r.lowest - 16 < p.stop →
      let t := s.nextSeal r (p :: rest) full
      t.startup = none ∧ t.journal.st = .full ∧ t.journal.recordEnd = r.lowest ∧ t.journal.indexStart = r.lowest ∧
      t.journal.total = r.total ∧ t.journal.delivered = r.delivered ∧ t.journal.nextBatch = r.nextBatch ∧
      t.journal.newestEnd = r.newestEnd ∧ t.flag .journalFull = true ∧ t.flash = s.flash) ∧
    (∀ off bs, s.asserted = false → s.startup = some (.scanning r) → s.flash.port = some (.recoveryIndex off bs) →
      r.stage = .sealing (p :: rest) full →
      exec (.recoveryIndexProgramEnd .good) s = .next (State.finish (State.nextSeal
        { r with total := r.total + 1, newestEnd := p.stop, recordEnd := p.stop } rest full
        { s with flash.port := none, flash.portLeft := 0, flash.store := Memory.program s.flash.store off bs }))))

/-- The commit rebuild scan begins once the buffer and the seal list are empty (R11): it takes the batches and the open
batch's span as they stand and reads slot 1; with no batch it walks the open batch's span first; with nothing to read
it ends (R14): a PENDING meter of a PASSED leg is MISSED, the leg counts are formed from the entries (R21), the route
clock starts at 0, and the phase is ACTIVE with COMMIT_DONE set. Before the buffer and the seal list are empty nothing
begins.

A read of the rebuild scan (R11 to R13, R15): failed, the loaded roster is staged again, nothing is live, every leg is
UNVISITED with zero counts and keeps its settings, the phase is LOADING and OPERATION_FAILED is set. A slot that holds
no further good index record is passed; a batch's records are walked unless it is VOID or empty; after the last batch
the open batch's span; then the scan ends. A record that cannot be one is counted and ends its batch's walk; the last
record of a batch has the next slot read. A record of a good check and of this route: a READING makes its meter READ
with what it restores, off the chain, a MISS makes a PENDING or MISSED meter MISSED at the back of the chain, and its
leg PASSED when the reason is a close, a CONFIRM does nothing, and a serial off the roster is counted; a bad check is
counted, another route passed over. A read that an index record puts outside the store stops the model (log 18). Where
the spec is silent the clauses follow the model's own choices that log 3, 13, 14 names. -/
def Obligations.RebuildScanRuns : Prop :=
  (∀ (s : State) (rb : Rebuild), s.asserted = false → s.roster.rebuild = some rb → rb.stage = .waiting →
    s.journal.buffer = [] → s.journal.seals = [] →
      (0 < s.journal.total → s.journal.indexStart ≤ s.journal.size - 16 →
        exec .rebuildScanStart s = .next (State.finish
          { s with
            roster.rebuild := some
              { stage := .slots, batches := s.journal.total,
                openSpan := s.journal.openBatch.map fun b => (b.first, s.journal.recordEnd),
                slot := s.journal.size - 16, visited := 0, lastNumber := 0 },
            flash.waiting := s.flash.waiting ++ [.read .rebuild (s.journal.size - 16) 16] })) ∧
      (∀ b, s.journal.total = 0 → s.journal.openBatch = some b →
        (b.first < s.journal.recordEnd →
          exec .rebuildScanStart s = .next (State.finish
            { s with
              roster.rebuild := some
                { stage := .records b.first s.journal.recordEnd true, batches := 0,
                  openSpan := some (b.first, s.journal.recordEnd), slot := s.journal.size - 16, visited := 0,
                  lastNumber := 0 },
              flash.waiting := s.flash.waiting ++ [.read .rebuild b.first (min 60 (s.journal.size - b.first))] })) ∧
        (s.journal.recordEnd ≤ b.first → exec .rebuildScanStart s = .next s.rebuildEnds.finish)) ∧
      (RosterInv s → s.journal.total = 0 → s.journal.openBatch = none →
        ∃ t, exec .rebuildScanStart s = .next t ∧ t.roster.phase = .active ∧ t.roster.rebuild = none ∧
          t.roster.routeClock = 0 ∧ t.flag .commitDone = true ∧ t.journal.lastResult = .good ∧
          t.roster.entries = s.roster.entries.map (fun e =>
            if e.st = .pending ∧ (s.leg e.loaded.leg).st = .passed then { e with st := .missed } else e) ∧
          (∀ l : Byte, (t.leg l).counts.total = t.roster.entries.countP fun e => e.loaded.leg == l))) ∧
  (∀ s : State, s.asserted = false →
    (s.journal.buffer.flatten ≠ [] ∨ s.journal.seals ≠ [] ∨ s.roster.rebuild = none ∨
      (∃ rb, s.roster.rebuild = some rb ∧ rb.stage ≠ .waiting)) →
      exec .rebuildScanStart s = .next s.finish) ∧
  (∀ (s : State) (rb : Rebuild) (off len : Nat), s.asserted = false → s.roster.rebuild = some rb →
    s.flash.port = some (.read .rebuild off len) →
      (∃ t, exec (.rebuildReadEnd false) s = .next t ∧ t.roster.phase = .loading ∧ t.roster.entries = [] ∧
        t.roster.missed = [] ∧ t.roster.rebuild = none ∧ t.roster.staging = s.roster.entries.map Entry.loaded ∧
        t.flag .operationFailed = true ∧ t.journal.lastResult = .readFailure ∧
        (∀ l : Byte, t.leg l = { s.leg l with st := .unvisited, counts := ⟨0, 0, 0, 0, 0⟩ })) ∧
      (s.journal.size ≤ off → exec (.rebuildReadEnd true) s = .fault .storeRange) ∧
      (∀ pos stop last, rb.stage = .records pos stop last → off < s.journal.size →
        let bs := Memory.readN s.flash.store off len
        let n := (byteAt bs 1).toNat
        recordSize (byteAt bs 0) (byteAt bs 1) = true → n ≤ len → pos + n < stop →
          let applied (u : State) : State :=
            { u with
              flash.port := none, flash.portLeft := 0,
              roster.rebuild := some { rb with stage := .records (pos + n) stop last },
              flash.waiting := s.flash.waiting ++ [.read .rebuild (pos + n) (min 60 (s.journal.size - (pos + n)))] }
          (xorAll (bs.take n) ≠ 0 → exec (.rebuildReadEnd true) s = .next (State.finish (applied
            { s with link.counters.badRecord := min (s.link.counters.badRecord + 1) 65535 }))) ∧
          (xorAll (bs.take n) = 0 → s.roster.routeId ≠ some (field bs 3 4) →
            exec (.rebuildReadEnd true) s = .next (State.finish (applied s))) ∧
          (xorAll (bs.take n) = 0 → s.roster.routeId = some (field bs 3 4) → s.entry? (field bs 7 4) = none →
            exec (.rebuildReadEnd true) s = .next (State.finish (applied
              { s with link.counters.unknownSerial := min (s.link.counters.unknownSerial + 1) 65535 }))) ∧
          (∀ e, xorAll (bs.take n) = 0 → s.roster.routeId = some (field bs 3 4) → s.entry? (field bs 7 4) = some e →
            byteAt bs 0 = 0x52 →
            ∃ t, exec (.rebuildReadEnd true) s = .next t ∧
              t.entry? (field bs 7 4) = some { e with
                st := .read, prevReg := field bs 13 4, refStatus := byteAt bs 34, totalScore := field bs 37 1,
                lastSeq := some (byteAt bs 42), readingMinute := some 0 } ∧
              (∀ k, k ≠ field bs 7 4 → t.entry? k = s.entry? k)))) ∧
  (∀ (s : State) (rb : Rebuild) (off len : Nat), s.asserted = false → s.roster.rebuild = some rb →
    s.flash.port = some (.read .rebuild off len) → off < s.journal.size →
      let bs := Memory.readN s.flash.store off len
      let n := (byteAt bs 1).toNat
      let u : State := { s with flash.port := none, flash.portLeft := 0 }
      let ask (v : State) (q : Rebuild) (o k : Nat) : State :=
        { v with roster.rebuild := some q, flash.waiting := v.flash.waiting ++ [.read .rebuild o k] }
      let records (v : State) (q : Rebuild) (a z : Nat) (last : Bool) : State :=
        ask v { q with stage := .records a z last } a (min 60 (s.journal.size - a))
      let slots (v : State) (q : Rebuild) : State :=
        if q.visited < q.batches ∧ s.journal.indexStart ≤ q.slot then ask v { q with stage := .slots } q.slot 16
        else match q.openSpan with
          | some (a, z) => if a < z then records v q a z true else v.rebuildEnds
          | none => v.rebuildEnds
      let under (q : Rebuild) : Rebuild :=
        if q.slot < 16 then { q with batches := q.visited } else { q with slot := q.slot - 16 }
      let goOn (v : State) (last : Bool) : State := if last then v.rebuildEnds else slots v rb
      (rb.stage = .slots →
        ((∀ b, parseIndex bs = some b → b.number ≤ rb.lastNumber) →
          exec (.rebuildReadEnd true) s = .next (State.finish (slots u (under rb)))) ∧
        (∀ b, parseIndex bs = some b → rb.lastNumber < b.number →
          let q := under { rb with visited := rb.visited + 1, lastNumber := b.number }
          exec (.rebuildReadEnd true) s = .next (State.finish
            (if b.void = true ∨ b.length = 0 then slots u q else records u q b.first (b.first + b.length) false)))) ∧
      (∀ pos stop last, rb.stage = .records pos stop last →
        (recordSize (byteAt bs 0) (byteAt bs 1) = false ∨ len < n →
          exec (.rebuildReadEnd true) s = .next (State.finish (goOn
            { u with link.counters.badRecord := min (s.link.counters.badRecord + 1) 65535 } last))) ∧
        (recordSize (byteAt bs 0) (byteAt bs 1) = true → n ≤ len → stop ≤ pos + n →
          exec (.rebuildReadEnd true) s = .next (State.finish (goOn (u.offerRecord (bs.take n)) last))) ∧
        (recordSize (byteAt bs 0) (byteAt bs 1) = true → n ≤ len → pos + n < stop →
          exec (.rebuildReadEnd true) s = .next (State.finish
            (records (u.offerRecord (bs.take n)) rb (pos + n) stop last))))) ∧
  (∀ (s : State) (bs : List Byte),
    let t := s.offerRecord bs
    (xorAll bs ≠ 0 → t = { s with link.counters.badRecord := min (s.link.counters.badRecord + 1) 65535 }) ∧
    (xorAll bs = 0 → s.roster.routeId ≠ some (field bs 3 4) → t = s) ∧
    (xorAll bs = 0 → s.roster.routeId = some (field bs 3 4) →
      (s.entry? (field bs 7 4) = none →
        t = { s with link.counters.unknownSerial := min (s.link.counters.unknownSerial + 1) 65535 }) ∧
      (∀ e, s.entry? (field bs 7 4) = some e →
        (byteAt bs 0 = 0x43 → t = s) ∧
        (byteAt bs 0 = 0x52 → t = { s with roster := { s.roster with
          entries := s.roster.entries.map (fun x =>
            if x.loaded.serial = field bs 7 4 then
              { x with st := .read, prevReg := field bs 13 4, refStatus := byteAt bs 34, totalScore := field bs 37 1,
                       lastSeq := some (byteAt bs 42), readingMinute := some 0 }
            else x),
          missed := if e.st = .missed then s.roster.missed.erase (field bs 7 4) else s.roster.missed } }) ∧
        (byteAt bs 0 = 0x4D →
          let m : State :=
            if e.st = .pending ∨ e.st = .missed then
              { s with roster := { s.roster with
                  entries := s.roster.entries.map fun x =>
                    if x.loaded.serial = field bs 7 4 then { x with st := .missed } else x,
                  missed := (if e.st = .missed then s.roster.missed.erase (field bs 7 4) else s.roster.missed) ++
                    [field bs 7 4] } }
            else s
          t = if byteAt bs 12 = 1 ∨ byteAt bs 12 = 3 then
              { m with roster.legs := s.roster.legs.set (byteAt bs 11).toNat { s.leg (byteAt bs 11) with st := .passed } }
            else m)))) ∧
  (∀ (es : List Entry) (l : Byte),
    let of (p : EntryState → Bool) : Nat := es.countP fun e => e.loaded.leg == l && p e.st
    countLeg es l = ⟨of fun _ => true, of fun st => st == .read, of fun st => st == .missed, of fun st => st == .excluded,
      of fun st => st != .read && st != .missed && st != .excluded⟩) ∧
  (∀ s : State, RosterInv s →
    let late := s.roster.entries.filter fun e => e.st == .pending && (s.leg e.loaded.leg).st == .passed
    let t := s.rebuildEnds
    t.roster.phase = .active ∧ t.roster.rebuild = none ∧ t.roster.routeClock = 0 ∧ t.roster.routeMs = 0 ∧
    t.flag .commitDone = true ∧ t.journal = { s.journal with lastResult := .good } ∧
    t.roster.entries = s.roster.entries.map (fun e =>
      if e.st = .pending ∧ (s.leg e.loaded.leg).st = .passed then { e with st := .missed } else e) ∧
    t.roster.missed = s.roster.missed ++ late.map (fun e => e.loaded.serial) ∧
    (∀ l : Byte, (t.leg l).st = (s.leg l).st ∧ (t.leg l).counts = countLeg t.roster.entries l))

/-! ## The upload engine -/

/-- UPLOAD START in NONE and CLOSED with no upload under way seals the open batch, starts the engine afresh and answers
with the undelivered batches at its taking and the engine's state (R154). UPLOAD STOP empties the engine, whose reads
in hand come to nothing, and answers with its state, batch, mismatches and stall reason (R164).

The engine chooses (R155): the batch of a mark program still in hand, at the port or waiting for it; else, with a batch
undelivered, the one of the slot at the pointer, whose index record is read; else it waits while a sealed batch is
still to join; else it is DONE and UPLOAD_DONE is set. Where the spec is silent the clauses follow the model's own
choices that log 17, 24, 32 name. -/
def Obligations.UploadStartsAndStops : Prop :=
  (∀ (q : FlashReq), q.orphan = (match q with
    | .read (.uploadSlot _) off len => .read (.uploadSlot true) off len
    | .read (.uploadData _) off len => .read (.uploadData true) off len
    | r => r)) ∧
  (∀ s : State, Listening s → s.longOp = false →
    ((s.roster.phase = .none ∨ s.roster.phase = .closed) → s.upload.st ≠ .sending → s.upload.st ≠ .awaitAck →
      ∃ u : State, u = State.chooseBatch
          { s.received.sealOpen with upload := ⟨.idle, .streaming, none, none, 0, 0, 0, none, 0, 0, none, false⟩ } ∧
        exec (.uploadStart []) s = .next (State.finish (u.replied .uploadStart .done
          (toLE 2 (s.journal.total - s.journal.delivered) ++ [u.upload.st.code])))) ∧
    exec (.uploadStop []) s = .next (State.finish (State.replied .uploadStop .done
      ([s.upload.st.code] ++ toLE 2 (s.upload.batch.elim 0 BatchInfo.number) ++
        [if s.upload.st = .idle then Config.absentMismatchCount s.draws else BitVec.ofNat 8 s.upload.mismatches,
         stallCode s.upload.stall])
      { s.received with
        upload := ⟨.idle, .streaming, none, none, 0, 0, 0, none, 0, 0, none, false⟩,
        flash.port := s.flash.port.map FlashReq.orphan,
        flash.waiting := s.flash.waiting.map FlashReq.orphan }))) ∧
  (∀ s : State,
    (∀ slot b, s.flash.port = some (.mark slot b) →
      s.chooseBatch = { s with
        upload.st := .sending, upload.stage := .marking, upload.batch := some b, upload.slot := slot }) ∧
    (∀ slot b front back, (∀ k c, s.flash.port ≠ some (.mark k c)) →
      s.flash.waiting = front ++ FlashReq.mark slot b :: back → (∀ k c, FlashReq.mark k c ∉ front) →
      s.chooseBatch = { s with
        upload.st := .sending, upload.stage := .marking, upload.batch := some b, upload.slot := slot }) ∧
    ((∀ slot b, s.flash.port ≠ some (.mark slot b) ∧ FlashReq.mark slot b ∉ s.flash.waiting) →
      (s.journal.delivered < s.journal.total →
        s.chooseBatch = { s with
          upload.st := .sending, upload.stage := .streaming, upload.mismatches := 0,
          upload.slot := s.journal.pointer,
          flash.waiting := s.flash.waiting ++ [.read (.uploadSlot false) s.journal.pointer 16] }) ∧
      (s.journal.total ≤ s.journal.delivered → s.journal.seals ≠ [] →
        s.chooseBatch = { s with
          upload.st := .sending, upload.stage := .waitingSeal, upload.batch := none }) ∧
      (s.journal.total ≤ s.journal.delivered → s.journal.seals = [] →
        s.chooseBatch = State.setFlag .uploadDone { s with upload.st := .done })))

/-- BATCH RECEIVED in AWAIT_ACK (R160, R161): naming the current batch with the tail's CRC it is DONE and the batch's
mark program is requested; with another CRC it is answered MISMATCH and the batch is sent again from its head, and at
the third time the engine stalls with UPLOAD_STALLED; naming another batch it is refused PARAM. -/
def Obligations.BatchReceivedAcknowledges : Prop :=
  ∀ (s : State) (k : BatchInfo) (number : Nat) (crc : Word16), Listening s → s.longOp = false →
    s.upload.st = .awaitAck → s.upload.batch = some k → number < 65536 →
      let body := toLE 2 number ++ toLE 2 crc.toNat
      (number = k.number → s.upload.tailCrc = some crc →
        exec (.batchReceived body) s = .next (State.finish (State.replied .batchReceived .done []
          { s.received with
            upload.st := .sending, upload.stage := .marking, upload.ackLeft := 0,
            flash.waiting := s.flash.waiting ++ [.mark s.upload.slot k] }))) ∧
      (number = k.number → s.upload.tailCrc ≠ some crc → s.upload.mismatches + 1 < 3 →
        exec (.batchReceived body) s = .next (State.finish (State.replied .batchReceived .mismatch []
          { s.received with
            upload.st := .sending, upload.stage := .streaming, upload.mismatches := s.upload.mismatches + 1,
            upload.ackLeft := 0, upload.sendOffset := 0, upload.runCrc := 0xFFFF, upload.tailCrc := none,
            upload.tailOut := false, upload.ready := some (.head k) }))) ∧
      (number = k.number → s.upload.tailCrc ≠ some crc → 3 ≤ s.upload.mismatches + 1 →
        exec (.batchReceived body) s = .next (State.finish (State.replied .batchReceived .mismatch []
          (State.setFlag .uploadStalled
            { s.received with
              upload.st := .stalled, upload.stall := some .mismatch, upload.mismatches := s.upload.mismatches + 1,
              upload.ackLeft := 0, upload.ready := none, upload.tailOut := false })))) ∧
      (number ≠ k.number →
        exec (.batchReceived body) s = .next (State.finish (s.received.replied .batchReceived .param [])))

/-- The ends of the engine's reads (R153, R156, R157, R159): a good index record makes its batch the current one with
its head ready to send; a dead slot is passed and the one below read; read data extend the running CRC and are the
ready frame; a failed read stalls the engine with UPLOAD_STALLED; a slot or a data read of an engine that UPLOAD STOP
has stopped frees the port and no more (R164).
A data read that an index record puts outside the store stops the model (log 18); what becomes of a stopped engine's
read is the model's reading (log 24), and the stalled engine's current batch stays (log 31). -/
def Obligations.UploadReadsEnd : Prop :=
  ∀ (s : State) (off len : Nat), s.asserted = false →
    (s.flash.port = some (.read (.uploadSlot false) off len) → s.upload.st = .sending → s.upload.stage = .streaming →
      (∀ b, parseIndex (Memory.readN s.flash.store s.upload.slot 16) = some b →
        exec .uploadSlotReadEnd s = .next (State.finish
          { s with
            flash.port := none, flash.portLeft := 0, upload.batch := some b, upload.sendOffset := 0,
            upload.runCrc := 0xFFFF, upload.tailCrc := none, upload.tailOut := false,
            upload.ready := some (.head b) })) ∧
      (parseIndex (Memory.readN s.flash.store s.upload.slot 16) = none →
        exec .uploadSlotReadEnd s = .next (State.finish
          { s with
            flash.port := none, flash.portLeft := 0, upload.slot := s.upload.slot - 16,
            flash.waiting := s.flash.waiting ++ [.read (.uploadSlot false) (s.upload.slot - 16) 16] }))) ∧
    (s.flash.port = some (.read (.uploadData false) off len) → s.upload.st = .sending → s.upload.stage = .streaming →
      (∀ b, s.upload.batch = some b → off + len ≤ s.journal.size →
        let bs := Memory.readN s.flash.store off len
        exec .uploadDataReadEnd s = .next (State.finish
          { s with
            flash.port := none, flash.portLeft := 0, upload.runCrc := crcMore s.upload.runCrc bs,
            upload.ready := some (.data b.number s.upload.sendOffset bs),
            upload.sendOffset := s.upload.sendOffset + len })) ∧
      (s.journal.size < off + len → exec .uploadDataReadEnd s = .fault .storeRange)) ∧
    ((s.flash.port = some (.read (.uploadSlot false) off len) ∨
        s.flash.port = some (.read (.uploadData false) off len)) →
      s.upload.st = .sending → s.upload.stage = .streaming →
      exec .uploadReadFailure s = .next (State.finish (State.setFlag .uploadStalled
        { s with
          flash.port := none, flash.portLeft := 0, upload.st := .stalled, upload.stall := some .readFailure,
          upload.ready := none, upload.tailOut := false, upload.ackLeft := 0 }))) ∧
    (s.flash.port = some (.read (.uploadData true) off len) →
      exec .uploadDataReadEnd s = .next (State.finish { s with flash.port := none, flash.portLeft := 0 }) ∧
      exec .uploadReadFailure s = .next (State.finish { s with flash.port := none, flash.portLeft := 0 })) ∧
    (s.flash.port = some (.read (.uploadSlot true) off len) →
      exec .uploadSlotReadEnd s = .next (State.finish { s with flash.port := none, flash.portLeft := 0 }) ∧
      exec .uploadReadFailure s = .next (State.finish { s with flash.port := none, flash.portLeft := 0 }))
end

