-- ==== Sys2Proof/Laws/State.lean ====
section
/-!
SUPPORT. What each plain update of the state leaves as it was, one lemma a field, true by rfl.
-/

namespace Sys2Proof.Machine

variable (s : State)

/-! ### setFlag -/

@[simp] theorem State.setFlag_asserted (f : Flag) : (s.setFlag f).asserted = s.asserted := rfl
@[simp] theorem State.setFlag_straps (f : Flag) : (s.setFlag f).straps = s.straps := rfl
@[simp] theorem State.setFlag_runClock (f : Flag) : (s.setFlag f).runClock = s.runClock := rfl
@[simp] theorem State.setFlag_intake (f : Flag) : (s.setFlag f).intake = s.intake := rfl
@[simp] theorem State.setFlag_roster (f : Flag) : (s.setFlag f).roster = s.roster := rfl
@[simp] theorem State.setFlag_pool (f : Flag) : (s.setFlag f).pool = s.pool := rfl
@[simp] theorem State.setFlag_sched (f : Flag) : (s.setFlag f).sched = s.sched := rfl
@[simp] theorem State.setFlag_journal (f : Flag) : (s.setFlag f).journal = s.journal := rfl
@[simp] theorem State.setFlag_flash (f : Flag) : (s.setFlag f).flash = s.flash := rfl
@[simp] theorem State.setFlag_startup (f : Flag) : (s.setFlag f).startup = s.startup := rfl
@[simp] theorem State.setFlag_upload (f : Flag) : (s.setFlag f).upload = s.upload := rfl
@[simp] theorem State.setFlag_link_rate (f : Flag) : (s.setFlag f).link.rate = s.link.rate := rfl
@[simp] theorem State.setFlag_link_rx (f : Flag) : (s.setFlag f).link.rx = s.link.rx := rfl
@[simp] theorem State.setFlag_link_gapLeft (f : Flag) : (s.setFlag f).link.gapLeft = s.link.gapLeft := rfl
@[simp] theorem State.setFlag_link_replies (f : Flag) : (s.setFlag f).link.replies = s.link.replies := rfl
@[simp] theorem State.setFlag_link_sending (f : Flag) : (s.setFlag f).link.sending = s.link.sending := rfl
@[simp] theorem State.setFlag_link_restarting (f : Flag) : (s.setFlag f).link.restarting = s.link.restarting := rfl
@[simp] theorem State.setFlag_link_notices (f : Flag) : (s.setFlag f).link.notices = s.link.notices := rfl
@[simp] theorem State.setFlag_link_mask (f : Flag) : (s.setFlag f).link.mask = s.link.mask := rfl
@[simp] theorem State.setFlag_link_attention (f : Flag) : (s.setFlag f).link.attention = s.link.attention := rfl
@[simp] theorem State.setFlag_link_counters (f : Flag) : (s.setFlag f).link.counters = s.link.counters := rfl
@[simp] theorem State.setFlag_indicator (f : Flag) : (s.setFlag f).indicator = s.indicator := rfl
@[simp] theorem State.setFlag_pending (f : Flag) : (s.setFlag f).pending = s.pending := rfl
@[simp] theorem State.setFlag_draws (f : Flag) : (s.setFlag f).draws = s.draws := rfl

/-! ### clearFlags -/

@[simp] theorem State.clearFlags_asserted (n : BitVec 13) : (s.clearFlags n).asserted = s.asserted := rfl
@[simp] theorem State.clearFlags_straps (n : BitVec 13) : (s.clearFlags n).straps = s.straps := rfl
@[simp] theorem State.clearFlags_runClock (n : BitVec 13) : (s.clearFlags n).runClock = s.runClock := rfl
@[simp] theorem State.clearFlags_intake (n : BitVec 13) : (s.clearFlags n).intake = s.intake := rfl
@[simp] theorem State.clearFlags_roster (n : BitVec 13) : (s.clearFlags n).roster = s.roster := rfl
@[simp] theorem State.clearFlags_pool (n : BitVec 13) : (s.clearFlags n).pool = s.pool := rfl
@[simp] theorem State.clearFlags_sched (n : BitVec 13) : (s.clearFlags n).sched = s.sched := rfl
@[simp] theorem State.clearFlags_journal (n : BitVec 13) : (s.clearFlags n).journal = s.journal := rfl
@[simp] theorem State.clearFlags_flash (n : BitVec 13) : (s.clearFlags n).flash = s.flash := rfl
@[simp] theorem State.clearFlags_startup (n : BitVec 13) : (s.clearFlags n).startup = s.startup := rfl
@[simp] theorem State.clearFlags_upload (n : BitVec 13) : (s.clearFlags n).upload = s.upload := rfl
@[simp] theorem State.clearFlags_link_rate (n : BitVec 13) : (s.clearFlags n).link.rate = s.link.rate := rfl
@[simp] theorem State.clearFlags_link_rx (n : BitVec 13) : (s.clearFlags n).link.rx = s.link.rx := rfl
@[simp] theorem State.clearFlags_link_gapLeft (n : BitVec 13) : (s.clearFlags n).link.gapLeft = s.link.gapLeft := rfl
@[simp] theorem State.clearFlags_link_replies (n : BitVec 13) : (s.clearFlags n).link.replies = s.link.replies := rfl
@[simp] theorem State.clearFlags_link_sending (n : BitVec 13) : (s.clearFlags n).link.sending = s.link.sending := rfl
@[simp] theorem State.clearFlags_link_restarting (n : BitVec 13) : (s.clearFlags n).link.restarting = s.link.restarting := rfl
@[simp] theorem State.clearFlags_link_notices (n : BitVec 13) : (s.clearFlags n).link.notices = s.link.notices := rfl
@[simp] theorem State.clearFlags_link_mask (n : BitVec 13) : (s.clearFlags n).link.mask = s.link.mask := rfl
@[simp] theorem State.clearFlags_link_attention (n : BitVec 13) : (s.clearFlags n).link.attention = s.link.attention := rfl
@[simp] theorem State.clearFlags_link_counters (n : BitVec 13) : (s.clearFlags n).link.counters = s.link.counters := rfl
@[simp] theorem State.clearFlags_indicator (n : BitVec 13) : (s.clearFlags n).indicator = s.indicator := rfl
@[simp] theorem State.clearFlags_pending (n : BitVec 13) : (s.clearFlags n).pending = s.pending := rfl
@[simp] theorem State.clearFlags_draws (n : BitVec 13) : (s.clearFlags n).draws = s.draws := rfl

/-! ### refreshLines -/

@[simp] theorem State.refreshLines_asserted : (s.refreshLines).asserted = s.asserted := rfl
@[simp] theorem State.refreshLines_straps : (s.refreshLines).straps = s.straps := rfl
@[simp] theorem State.refreshLines_runClock : (s.refreshLines).runClock = s.runClock := rfl
@[simp] theorem State.refreshLines_intake : (s.refreshLines).intake = s.intake := rfl
@[simp] theorem State.refreshLines_roster : (s.refreshLines).roster = s.roster := rfl
@[simp] theorem State.refreshLines_pool : (s.refreshLines).pool = s.pool := rfl
@[simp] theorem State.refreshLines_sched : (s.refreshLines).sched = s.sched := rfl
@[simp] theorem State.refreshLines_journal : (s.refreshLines).journal = s.journal := rfl
@[simp] theorem State.refreshLines_flash : (s.refreshLines).flash = s.flash := rfl
@[simp] theorem State.refreshLines_startup : (s.refreshLines).startup = s.startup := rfl
@[simp] theorem State.refreshLines_upload : (s.refreshLines).upload = s.upload := rfl
@[simp] theorem State.refreshLines_link_rate : (s.refreshLines).link.rate = s.link.rate := rfl
@[simp] theorem State.refreshLines_link_rx : (s.refreshLines).link.rx = s.link.rx := rfl
@[simp] theorem State.refreshLines_link_gapLeft : (s.refreshLines).link.gapLeft = s.link.gapLeft := rfl
@[simp] theorem State.refreshLines_link_replies : (s.refreshLines).link.replies = s.link.replies := rfl
@[simp] theorem State.refreshLines_link_sending : (s.refreshLines).link.sending = s.link.sending := rfl
@[simp] theorem State.refreshLines_link_restarting : (s.refreshLines).link.restarting = s.link.restarting := rfl
@[simp] theorem State.refreshLines_link_notices : (s.refreshLines).link.notices = s.link.notices := rfl
@[simp] theorem State.refreshLines_link_flags : (s.refreshLines).link.flags = s.link.flags := rfl
@[simp] theorem State.refreshLines_link_mask : (s.refreshLines).link.mask = s.link.mask := rfl
@[simp] theorem State.refreshLines_link_counters : (s.refreshLines).link.counters = s.link.counters := rfl
@[simp] theorem State.refreshLines_pending : (s.refreshLines).pending = s.pending := rfl
@[simp] theorem State.refreshLines_draws : (s.refreshLines).draws = s.draws := rfl

/-! ### countRefusals -/

@[simp] theorem State.countRefusals_asserted (n : Nat) : (s.countRefusals n).asserted = s.asserted := rfl
@[simp] theorem State.countRefusals_straps (n : Nat) : (s.countRefusals n).straps = s.straps := rfl
@[simp] theorem State.countRefusals_runClock (n : Nat) : (s.countRefusals n).runClock = s.runClock := rfl
@[simp] theorem State.countRefusals_intake (n : Nat) : (s.countRefusals n).intake = s.intake := rfl
@[simp] theorem State.countRefusals_roster (n : Nat) : (s.countRefusals n).roster = s.roster := rfl
@[simp] theorem State.countRefusals_pool (n : Nat) : (s.countRefusals n).pool = s.pool := rfl
@[simp] theorem State.countRefusals_sched (n : Nat) : (s.countRefusals n).sched = s.sched := rfl
@[simp] theorem State.countRefusals_journal (n : Nat) : (s.countRefusals n).journal = s.journal := rfl
@[simp] theorem State.countRefusals_flash (n : Nat) : (s.countRefusals n).flash = s.flash := rfl
@[simp] theorem State.countRefusals_startup (n : Nat) : (s.countRefusals n).startup = s.startup := rfl
@[simp] theorem State.countRefusals_upload (n : Nat) : (s.countRefusals n).upload = s.upload := rfl
@[simp] theorem State.countRefusals_link_rate (n : Nat) : (s.countRefusals n).link.rate = s.link.rate := rfl
@[simp] theorem State.countRefusals_link_rx (n : Nat) : (s.countRefusals n).link.rx = s.link.rx := rfl
@[simp] theorem State.countRefusals_link_gapLeft (n : Nat) : (s.countRefusals n).link.gapLeft = s.link.gapLeft := rfl
@[simp] theorem State.countRefusals_link_replies (n : Nat) : (s.countRefusals n).link.replies = s.link.replies := rfl
@[simp] theorem State.countRefusals_link_sending (n : Nat) : (s.countRefusals n).link.sending = s.link.sending := rfl
@[simp] theorem State.countRefusals_link_restarting (n : Nat) : (s.countRefusals n).link.restarting = s.link.restarting := rfl
@[simp] theorem State.countRefusals_link_notices (n : Nat) : (s.countRefusals n).link.notices = s.link.notices := rfl
@[simp] theorem State.countRefusals_link_flags (n : Nat) : (s.countRefusals n).link.flags = s.link.flags := rfl
@[simp] theorem State.countRefusals_link_mask (n : Nat) : (s.countRefusals n).link.mask = s.link.mask := rfl
@[simp] theorem State.countRefusals_link_attention (n : Nat) : (s.countRefusals n).link.attention = s.link.attention := rfl
@[simp] theorem State.countRefusals_indicator (n : Nat) : (s.countRefusals n).indicator = s.indicator := rfl
@[simp] theorem State.countRefusals_pending (n : Nat) : (s.countRefusals n).pending = s.pending := rfl
@[simp] theorem State.countRefusals_draws (n : Nat) : (s.countRefusals n).draws = s.draws := rfl

/-! ### countOutOfRange -/

@[simp] theorem State.countOutOfRange_asserted : (s.countOutOfRange).asserted = s.asserted := rfl
@[simp] theorem State.countOutOfRange_straps : (s.countOutOfRange).straps = s.straps := rfl
@[simp] theorem State.countOutOfRange_runClock : (s.countOutOfRange).runClock = s.runClock := rfl
@[simp] theorem State.countOutOfRange_intake : (s.countOutOfRange).intake = s.intake := rfl
@[simp] theorem State.countOutOfRange_roster : (s.countOutOfRange).roster = s.roster := rfl
@[simp] theorem State.countOutOfRange_pool : (s.countOutOfRange).pool = s.pool := rfl
@[simp] theorem State.countOutOfRange_sched : (s.countOutOfRange).sched = s.sched := rfl
@[simp] theorem State.countOutOfRange_journal : (s.countOutOfRange).journal = s.journal := rfl
@[simp] theorem State.countOutOfRange_flash : (s.countOutOfRange).flash = s.flash := rfl
@[simp] theorem State.countOutOfRange_startup : (s.countOutOfRange).startup = s.startup := rfl
@[simp] theorem State.countOutOfRange_upload : (s.countOutOfRange).upload = s.upload := rfl
@[simp] theorem State.countOutOfRange_link_rate : (s.countOutOfRange).link.rate = s.link.rate := rfl
@[simp] theorem State.countOutOfRange_link_rx : (s.countOutOfRange).link.rx = s.link.rx := rfl
@[simp] theorem State.countOutOfRange_link_gapLeft : (s.countOutOfRange).link.gapLeft = s.link.gapLeft := rfl
@[simp] theorem State.countOutOfRange_link_replies : (s.countOutOfRange).link.replies = s.link.replies := rfl
@[simp] theorem State.countOutOfRange_link_sending : (s.countOutOfRange).link.sending = s.link.sending := rfl
@[simp] theorem State.countOutOfRange_link_restarting : (s.countOutOfRange).link.restarting = s.link.restarting := rfl
@[simp] theorem State.countOutOfRange_link_notices : (s.countOutOfRange).link.notices = s.link.notices := rfl
@[simp] theorem State.countOutOfRange_link_flags : (s.countOutOfRange).link.flags = s.link.flags := rfl
@[simp] theorem State.countOutOfRange_link_mask : (s.countOutOfRange).link.mask = s.link.mask := rfl
@[simp] theorem State.countOutOfRange_link_attention : (s.countOutOfRange).link.attention = s.link.attention := rfl
@[simp] theorem State.countOutOfRange_indicator : (s.countOutOfRange).indicator = s.indicator := rfl
@[simp] theorem State.countOutOfRange_pending : (s.countOutOfRange).pending = s.pending := rfl
@[simp] theorem State.countOutOfRange_draws : (s.countOutOfRange).draws = s.draws := rfl

/-! ### countForcedClose -/

@[simp] theorem State.countForcedClose_asserted : (s.countForcedClose).asserted = s.asserted := rfl
@[simp] theorem State.countForcedClose_straps : (s.countForcedClose).straps = s.straps := rfl
@[simp] theorem State.countForcedClose_runClock : (s.countForcedClose).runClock = s.runClock := rfl
@[simp] theorem State.countForcedClose_intake : (s.countForcedClose).intake = s.intake := rfl
@[simp] theorem State.countForcedClose_roster : (s.countForcedClose).roster = s.roster := rfl
@[simp] theorem State.countForcedClose_pool : (s.countForcedClose).pool = s.pool := rfl
@[simp] theorem State.countForcedClose_sched : (s.countForcedClose).sched = s.sched := rfl
@[simp] theorem State.countForcedClose_journal : (s.countForcedClose).journal = s.journal := rfl
@[simp] theorem State.countForcedClose_flash : (s.countForcedClose).flash = s.flash := rfl
@[simp] theorem State.countForcedClose_startup : (s.countForcedClose).startup = s.startup := rfl
@[simp] theorem State.countForcedClose_upload : (s.countForcedClose).upload = s.upload := rfl
@[simp] theorem State.countForcedClose_link_rate : (s.countForcedClose).link.rate = s.link.rate := rfl
@[simp] theorem State.countForcedClose_link_rx : (s.countForcedClose).link.rx = s.link.rx := rfl
@[simp] theorem State.countForcedClose_link_gapLeft : (s.countForcedClose).link.gapLeft = s.link.gapLeft := rfl
@[simp] theorem State.countForcedClose_link_replies : (s.countForcedClose).link.replies = s.link.replies := rfl
@[simp] theorem State.countForcedClose_link_sending : (s.countForcedClose).link.sending = s.link.sending := rfl
@[simp] theorem State.countForcedClose_link_restarting : (s.countForcedClose).link.restarting = s.link.restarting := rfl
@[simp] theorem State.countForcedClose_link_notices : (s.countForcedClose).link.notices = s.link.notices := rfl
@[simp] theorem State.countForcedClose_link_flags : (s.countForcedClose).link.flags = s.link.flags := rfl
@[simp] theorem State.countForcedClose_link_mask : (s.countForcedClose).link.mask = s.link.mask := rfl
@[simp] theorem State.countForcedClose_link_attention : (s.countForcedClose).link.attention = s.link.attention := rfl
@[simp] theorem State.countForcedClose_indicator : (s.countForcedClose).indicator = s.indicator := rfl
@[simp] theorem State.countForcedClose_pending : (s.countForcedClose).pending = s.pending := rfl
@[simp] theorem State.countForcedClose_draws : (s.countForcedClose).draws = s.draws := rfl

/-! ### countNoticeDropped -/

@[simp] theorem State.countNoticeDropped_asserted : (s.countNoticeDropped).asserted = s.asserted := rfl
@[simp] theorem State.countNoticeDropped_straps : (s.countNoticeDropped).straps = s.straps := rfl
@[simp] theorem State.countNoticeDropped_runClock : (s.countNoticeDropped).runClock = s.runClock := rfl
@[simp] theorem State.countNoticeDropped_intake : (s.countNoticeDropped).intake = s.intake := rfl
@[simp] theorem State.countNoticeDropped_roster : (s.countNoticeDropped).roster = s.roster := rfl
@[simp] theorem State.countNoticeDropped_pool : (s.countNoticeDropped).pool = s.pool := rfl
@[simp] theorem State.countNoticeDropped_sched : (s.countNoticeDropped).sched = s.sched := rfl
@[simp] theorem State.countNoticeDropped_journal : (s.countNoticeDropped).journal = s.journal := rfl
@[simp] theorem State.countNoticeDropped_flash : (s.countNoticeDropped).flash = s.flash := rfl
@[simp] theorem State.countNoticeDropped_startup : (s.countNoticeDropped).startup = s.startup := rfl
@[simp] theorem State.countNoticeDropped_upload : (s.countNoticeDropped).upload = s.upload := rfl
@[simp] theorem State.countNoticeDropped_link_rate : (s.countNoticeDropped).link.rate = s.link.rate := rfl
@[simp] theorem State.countNoticeDropped_link_rx : (s.countNoticeDropped).link.rx = s.link.rx := rfl
@[simp] theorem State.countNoticeDropped_link_gapLeft : (s.countNoticeDropped).link.gapLeft = s.link.gapLeft := rfl
@[simp] theorem State.countNoticeDropped_link_replies : (s.countNoticeDropped).link.replies = s.link.replies := rfl
@[simp] theorem State.countNoticeDropped_link_sending : (s.countNoticeDropped).link.sending = s.link.sending := rfl
@[simp] theorem State.countNoticeDropped_link_restarting : (s.countNoticeDropped).link.restarting = s.link.restarting := rfl
@[simp] theorem State.countNoticeDropped_link_notices : (s.countNoticeDropped).link.notices = s.link.notices := rfl
@[simp] theorem State.countNoticeDropped_link_flags : (s.countNoticeDropped).link.flags = s.link.flags := rfl
@[simp] theorem State.countNoticeDropped_link_mask : (s.countNoticeDropped).link.mask = s.link.mask := rfl
@[simp] theorem State.countNoticeDropped_link_attention : (s.countNoticeDropped).link.attention = s.link.attention := rfl
@[simp] theorem State.countNoticeDropped_indicator : (s.countNoticeDropped).indicator = s.indicator := rfl
@[simp] theorem State.countNoticeDropped_pending : (s.countNoticeDropped).pending = s.pending := rfl
@[simp] theorem State.countNoticeDropped_draws : (s.countNoticeDropped).draws = s.draws := rfl

/-! ### countLinkCheck -/

@[simp] theorem State.countLinkCheck_asserted : (s.countLinkCheck).asserted = s.asserted := rfl
@[simp] theorem State.countLinkCheck_straps : (s.countLinkCheck).straps = s.straps := rfl
@[simp] theorem State.countLinkCheck_runClock : (s.countLinkCheck).runClock = s.runClock := rfl
@[simp] theorem State.countLinkCheck_intake : (s.countLinkCheck).intake = s.intake := rfl
@[simp] theorem State.countLinkCheck_roster : (s.countLinkCheck).roster = s.roster := rfl
@[simp] theorem State.countLinkCheck_pool : (s.countLinkCheck).pool = s.pool := rfl
@[simp] theorem State.countLinkCheck_sched : (s.countLinkCheck).sched = s.sched := rfl
@[simp] theorem State.countLinkCheck_journal : (s.countLinkCheck).journal = s.journal := rfl
@[simp] theorem State.countLinkCheck_flash : (s.countLinkCheck).flash = s.flash := rfl
@[simp] theorem State.countLinkCheck_startup : (s.countLinkCheck).startup = s.startup := rfl
@[simp] theorem State.countLinkCheck_upload : (s.countLinkCheck).upload = s.upload := rfl
@[simp] theorem State.countLinkCheck_link_rate : (s.countLinkCheck).link.rate = s.link.rate := rfl
@[simp] theorem State.countLinkCheck_link_rx : (s.countLinkCheck).link.rx = s.link.rx := rfl
@[simp] theorem State.countLinkCheck_link_gapLeft : (s.countLinkCheck).link.gapLeft = s.link.gapLeft := rfl
@[simp] theorem State.countLinkCheck_link_replies : (s.countLinkCheck).link.replies = s.link.replies := rfl
@[simp] theorem State.countLinkCheck_link_sending : (s.countLinkCheck).link.sending = s.link.sending := rfl
@[simp] theorem State.countLinkCheck_link_restarting : (s.countLinkCheck).link.restarting = s.link.restarting := rfl
@[simp] theorem State.countLinkCheck_link_notices : (s.countLinkCheck).link.notices = s.link.notices := rfl
@[simp] theorem State.countLinkCheck_link_flags : (s.countLinkCheck).link.flags = s.link.flags := rfl
@[simp] theorem State.countLinkCheck_link_mask : (s.countLinkCheck).link.mask = s.link.mask := rfl
@[simp] theorem State.countLinkCheck_link_attention : (s.countLinkCheck).link.attention = s.link.attention := rfl
@[simp] theorem State.countLinkCheck_indicator : (s.countLinkCheck).indicator = s.indicator := rfl
@[simp] theorem State.countLinkCheck_pending : (s.countLinkCheck).pending = s.pending := rfl
@[simp] theorem State.countLinkCheck_draws : (s.countLinkCheck).draws = s.draws := rfl

/-! ### countOverrun -/

@[simp] theorem State.countOverrun_asserted : (s.countOverrun).asserted = s.asserted := rfl
@[simp] theorem State.countOverrun_straps : (s.countOverrun).straps = s.straps := rfl
@[simp] theorem State.countOverrun_runClock : (s.countOverrun).runClock = s.runClock := rfl
@[simp] theorem State.countOverrun_intake : (s.countOverrun).intake = s.intake := rfl
@[simp] theorem State.countOverrun_roster : (s.countOverrun).roster = s.roster := rfl
@[simp] theorem State.countOverrun_pool : (s.countOverrun).pool = s.pool := rfl
@[simp] theorem State.countOverrun_sched : (s.countOverrun).sched = s.sched := rfl
@[simp] theorem State.countOverrun_journal : (s.countOverrun).journal = s.journal := rfl
@[simp] theorem State.countOverrun_flash : (s.countOverrun).flash = s.flash := rfl
@[simp] theorem State.countOverrun_startup : (s.countOverrun).startup = s.startup := rfl
@[simp] theorem State.countOverrun_upload : (s.countOverrun).upload = s.upload := rfl
@[simp] theorem State.countOverrun_link_rate : (s.countOverrun).link.rate = s.link.rate := rfl
@[simp] theorem State.countOverrun_link_rx : (s.countOverrun).link.rx = s.link.rx := rfl
@[simp] theorem State.countOverrun_link_gapLeft : (s.countOverrun).link.gapLeft = s.link.gapLeft := rfl
@[simp] theorem State.countOverrun_link_replies : (s.countOverrun).link.replies = s.link.replies := rfl
@[simp] theorem State.countOverrun_link_sending : (s.countOverrun).link.sending = s.link.sending := rfl
@[simp] theorem State.countOverrun_link_restarting : (s.countOverrun).link.restarting = s.link.restarting := rfl
@[simp] theorem State.countOverrun_link_notices : (s.countOverrun).link.notices = s.link.notices := rfl
@[simp] theorem State.countOverrun_link_flags : (s.countOverrun).link.flags = s.link.flags := rfl
@[simp] theorem State.countOverrun_link_mask : (s.countOverrun).link.mask = s.link.mask := rfl
@[simp] theorem State.countOverrun_link_attention : (s.countOverrun).link.attention = s.link.attention := rfl
@[simp] theorem State.countOverrun_indicator : (s.countOverrun).indicator = s.indicator := rfl
@[simp] theorem State.countOverrun_pending : (s.countOverrun).pending = s.pending := rfl
@[simp] theorem State.countOverrun_draws : (s.countOverrun).draws = s.draws := rfl

/-! ### countGapAbort -/

@[simp] theorem State.countGapAbort_asserted : (s.countGapAbort).asserted = s.asserted := rfl
@[simp] theorem State.countGapAbort_straps : (s.countGapAbort).straps = s.straps := rfl
@[simp] theorem State.countGapAbort_runClock : (s.countGapAbort).runClock = s.runClock := rfl
@[simp] theorem State.countGapAbort_intake : (s.countGapAbort).intake = s.intake := rfl
@[simp] theorem State.countGapAbort_roster : (s.countGapAbort).roster = s.roster := rfl
@[simp] theorem State.countGapAbort_pool : (s.countGapAbort).pool = s.pool := rfl
@[simp] theorem State.countGapAbort_sched : (s.countGapAbort).sched = s.sched := rfl
@[simp] theorem State.countGapAbort_journal : (s.countGapAbort).journal = s.journal := rfl
@[simp] theorem State.countGapAbort_flash : (s.countGapAbort).flash = s.flash := rfl
@[simp] theorem State.countGapAbort_startup : (s.countGapAbort).startup = s.startup := rfl
@[simp] theorem State.countGapAbort_upload : (s.countGapAbort).upload = s.upload := rfl
@[simp] theorem State.countGapAbort_link_rate : (s.countGapAbort).link.rate = s.link.rate := rfl
@[simp] theorem State.countGapAbort_link_rx : (s.countGapAbort).link.rx = s.link.rx := rfl
@[simp] theorem State.countGapAbort_link_gapLeft : (s.countGapAbort).link.gapLeft = s.link.gapLeft := rfl
@[simp] theorem State.countGapAbort_link_replies : (s.countGapAbort).link.replies = s.link.replies := rfl
@[simp] theorem State.countGapAbort_link_sending : (s.countGapAbort).link.sending = s.link.sending := rfl
@[simp] theorem State.countGapAbort_link_restarting : (s.countGapAbort).link.restarting = s.link.restarting := rfl
@[simp] theorem State.countGapAbort_link_notices : (s.countGapAbort).link.notices = s.link.notices := rfl
@[simp] theorem State.countGapAbort_link_flags : (s.countGapAbort).link.flags = s.link.flags := rfl
@[simp] theorem State.countGapAbort_link_mask : (s.countGapAbort).link.mask = s.link.mask := rfl
@[simp] theorem State.countGapAbort_link_attention : (s.countGapAbort).link.attention = s.link.attention := rfl
@[simp] theorem State.countGapAbort_indicator : (s.countGapAbort).indicator = s.indicator := rfl
@[simp] theorem State.countGapAbort_pending : (s.countGapAbort).pending = s.pending := rfl
@[simp] theorem State.countGapAbort_draws : (s.countGapAbort).draws = s.draws := rfl

/-! ### countTransmitTimeout -/

@[simp] theorem State.countTransmitTimeout_asserted : (s.countTransmitTimeout).asserted = s.asserted := rfl
@[simp] theorem State.countTransmitTimeout_straps : (s.countTransmitTimeout).straps = s.straps := rfl
@[simp] theorem State.countTransmitTimeout_runClock : (s.countTransmitTimeout).runClock = s.runClock := rfl
@[simp] theorem State.countTransmitTimeout_intake : (s.countTransmitTimeout).intake = s.intake := rfl
@[simp] theorem State.countTransmitTimeout_roster : (s.countTransmitTimeout).roster = s.roster := rfl
@[simp] theorem State.countTransmitTimeout_pool : (s.countTransmitTimeout).pool = s.pool := rfl
@[simp] theorem State.countTransmitTimeout_sched : (s.countTransmitTimeout).sched = s.sched := rfl
@[simp] theorem State.countTransmitTimeout_journal : (s.countTransmitTimeout).journal = s.journal := rfl
@[simp] theorem State.countTransmitTimeout_flash : (s.countTransmitTimeout).flash = s.flash := rfl
@[simp] theorem State.countTransmitTimeout_startup : (s.countTransmitTimeout).startup = s.startup := rfl
@[simp] theorem State.countTransmitTimeout_upload : (s.countTransmitTimeout).upload = s.upload := rfl
@[simp] theorem State.countTransmitTimeout_link_rate : (s.countTransmitTimeout).link.rate = s.link.rate := rfl
@[simp] theorem State.countTransmitTimeout_link_rx : (s.countTransmitTimeout).link.rx = s.link.rx := rfl
@[simp] theorem State.countTransmitTimeout_link_gapLeft : (s.countTransmitTimeout).link.gapLeft = s.link.gapLeft := rfl
@[simp] theorem State.countTransmitTimeout_link_replies : (s.countTransmitTimeout).link.replies = s.link.replies := rfl
@[simp] theorem State.countTransmitTimeout_link_sending : (s.countTransmitTimeout).link.sending = s.link.sending := rfl
@[simp] theorem State.countTransmitTimeout_link_restarting : (s.countTransmitTimeout).link.restarting = s.link.restarting := rfl
@[simp] theorem State.countTransmitTimeout_link_notices : (s.countTransmitTimeout).link.notices = s.link.notices := rfl
@[simp] theorem State.countTransmitTimeout_link_flags : (s.countTransmitTimeout).link.flags = s.link.flags := rfl
@[simp] theorem State.countTransmitTimeout_link_mask : (s.countTransmitTimeout).link.mask = s.link.mask := rfl
@[simp] theorem State.countTransmitTimeout_link_attention : (s.countTransmitTimeout).link.attention = s.link.attention := rfl
@[simp] theorem State.countTransmitTimeout_indicator : (s.countTransmitTimeout).indicator = s.indicator := rfl
@[simp] theorem State.countTransmitTimeout_pending : (s.countTransmitTimeout).pending = s.pending := rfl
@[simp] theorem State.countTransmitTimeout_draws : (s.countTransmitTimeout).draws = s.draws := rfl

/-! ### countUnknownSerial -/

@[simp] theorem State.countUnknownSerial_asserted : (s.countUnknownSerial).asserted = s.asserted := rfl
@[simp] theorem State.countUnknownSerial_straps : (s.countUnknownSerial).straps = s.straps := rfl
@[simp] theorem State.countUnknownSerial_runClock : (s.countUnknownSerial).runClock = s.runClock := rfl
@[simp] theorem State.countUnknownSerial_intake : (s.countUnknownSerial).intake = s.intake := rfl
@[simp] theorem State.countUnknownSerial_roster : (s.countUnknownSerial).roster = s.roster := rfl
@[simp] theorem State.countUnknownSerial_pool : (s.countUnknownSerial).pool = s.pool := rfl
@[simp] theorem State.countUnknownSerial_sched : (s.countUnknownSerial).sched = s.sched := rfl
@[simp] theorem State.countUnknownSerial_journal : (s.countUnknownSerial).journal = s.journal := rfl
@[simp] theorem State.countUnknownSerial_flash : (s.countUnknownSerial).flash = s.flash := rfl
@[simp] theorem State.countUnknownSerial_startup : (s.countUnknownSerial).startup = s.startup := rfl
@[simp] theorem State.countUnknownSerial_upload : (s.countUnknownSerial).upload = s.upload := rfl
@[simp] theorem State.countUnknownSerial_link_rate : (s.countUnknownSerial).link.rate = s.link.rate := rfl
@[simp] theorem State.countUnknownSerial_link_rx : (s.countUnknownSerial).link.rx = s.link.rx := rfl
@[simp] theorem State.countUnknownSerial_link_gapLeft : (s.countUnknownSerial).link.gapLeft = s.link.gapLeft := rfl
@[simp] theorem State.countUnknownSerial_link_replies : (s.countUnknownSerial).link.replies = s.link.replies := rfl
@[simp] theorem State.countUnknownSerial_link_sending : (s.countUnknownSerial).link.sending = s.link.sending := rfl
@[simp] theorem State.countUnknownSerial_link_restarting : (s.countUnknownSerial).link.restarting = s.link.restarting := rfl
@[simp] theorem State.countUnknownSerial_link_notices : (s.countUnknownSerial).link.notices = s.link.notices := rfl
@[simp] theorem State.countUnknownSerial_link_flags : (s.countUnknownSerial).link.flags = s.link.flags := rfl
@[simp] theorem State.countUnknownSerial_link_mask : (s.countUnknownSerial).link.mask = s.link.mask := rfl
@[simp] theorem State.countUnknownSerial_link_attention : (s.countUnknownSerial).link.attention = s.link.attention := rfl
@[simp] theorem State.countUnknownSerial_indicator : (s.countUnknownSerial).indicator = s.indicator := rfl
@[simp] theorem State.countUnknownSerial_pending : (s.countUnknownSerial).pending = s.pending := rfl
@[simp] theorem State.countUnknownSerial_draws : (s.countUnknownSerial).draws = s.draws := rfl

/-! ### countBadRecord -/

@[simp] theorem State.countBadRecord_asserted : (s.countBadRecord).asserted = s.asserted := rfl
@[simp] theorem State.countBadRecord_straps : (s.countBadRecord).straps = s.straps := rfl
@[simp] theorem State.countBadRecord_runClock : (s.countBadRecord).runClock = s.runClock := rfl
@[simp] theorem State.countBadRecord_intake : (s.countBadRecord).intake = s.intake := rfl
@[simp] theorem State.countBadRecord_roster : (s.countBadRecord).roster = s.roster := rfl
@[simp] theorem State.countBadRecord_pool : (s.countBadRecord).pool = s.pool := rfl
@[simp] theorem State.countBadRecord_sched : (s.countBadRecord).sched = s.sched := rfl
@[simp] theorem State.countBadRecord_journal : (s.countBadRecord).journal = s.journal := rfl
@[simp] theorem State.countBadRecord_flash : (s.countBadRecord).flash = s.flash := rfl
@[simp] theorem State.countBadRecord_startup : (s.countBadRecord).startup = s.startup := rfl
@[simp] theorem State.countBadRecord_upload : (s.countBadRecord).upload = s.upload := rfl
@[simp] theorem State.countBadRecord_link_rate : (s.countBadRecord).link.rate = s.link.rate := rfl
@[simp] theorem State.countBadRecord_link_rx : (s.countBadRecord).link.rx = s.link.rx := rfl
@[simp] theorem State.countBadRecord_link_gapLeft : (s.countBadRecord).link.gapLeft = s.link.gapLeft := rfl
@[simp] theorem State.countBadRecord_link_replies : (s.countBadRecord).link.replies = s.link.replies := rfl
@[simp] theorem State.countBadRecord_link_sending : (s.countBadRecord).link.sending = s.link.sending := rfl
@[simp] theorem State.countBadRecord_link_restarting : (s.countBadRecord).link.restarting = s.link.restarting := rfl
@[simp] theorem State.countBadRecord_link_notices : (s.countBadRecord).link.notices = s.link.notices := rfl
@[simp] theorem State.countBadRecord_link_flags : (s.countBadRecord).link.flags = s.link.flags := rfl
@[simp] theorem State.countBadRecord_link_mask : (s.countBadRecord).link.mask = s.link.mask := rfl
@[simp] theorem State.countBadRecord_link_attention : (s.countBadRecord).link.attention = s.link.attention := rfl
@[simp] theorem State.countBadRecord_indicator : (s.countBadRecord).indicator = s.indicator := rfl
@[simp] theorem State.countBadRecord_pending : (s.countBadRecord).pending = s.pending := rfl
@[simp] theorem State.countBadRecord_draws : (s.countBadRecord).draws = s.draws := rfl

/-! ### updLane -/

@[simp] theorem State.updLane_asserted (i : Fin 4) (f : Lane → Lane) : (s.updLane i f).asserted = s.asserted := rfl
@[simp] theorem State.updLane_straps (i : Fin 4) (f : Lane → Lane) : (s.updLane i f).straps = s.straps := rfl
@[simp] theorem State.updLane_runClock (i : Fin 4) (f : Lane → Lane) : (s.updLane i f).runClock = s.runClock := rfl
@[simp] theorem State.updLane_intake_forwarding (i : Fin 4) (f : Lane → Lane) : (s.updLane i f).intake.forwarding = s.intake.forwarding := rfl
@[simp] theorem State.updLane_roster (i : Fin 4) (f : Lane → Lane) : (s.updLane i f).roster = s.roster := rfl
@[simp] theorem State.updLane_pool (i : Fin 4) (f : Lane → Lane) : (s.updLane i f).pool = s.pool := rfl
@[simp] theorem State.updLane_sched (i : Fin 4) (f : Lane → Lane) : (s.updLane i f).sched = s.sched := rfl
@[simp] theorem State.updLane_journal (i : Fin 4) (f : Lane → Lane) : (s.updLane i f).journal = s.journal := rfl
@[simp] theorem State.updLane_flash (i : Fin 4) (f : Lane → Lane) : (s.updLane i f).flash = s.flash := rfl
@[simp] theorem State.updLane_startup (i : Fin 4) (f : Lane → Lane) : (s.updLane i f).startup = s.startup := rfl
@[simp] theorem State.updLane_upload (i : Fin 4) (f : Lane → Lane) : (s.updLane i f).upload = s.upload := rfl
@[simp] theorem State.updLane_link (i : Fin 4) (f : Lane → Lane) : (s.updLane i f).link = s.link := rfl
@[simp] theorem State.updLane_indicator (i : Fin 4) (f : Lane → Lane) : (s.updLane i f).indicator = s.indicator := rfl
@[simp] theorem State.updLane_pending (i : Fin 4) (f : Lane → Lane) : (s.updLane i f).pending = s.pending := rfl
@[simp] theorem State.updLane_draws (i : Fin 4) (f : Lane → Lane) : (s.updLane i f).draws = s.draws := rfl

/-! ### clearCounters -/

@[simp] theorem State.clearCounters_asserted : (s.clearCounters).asserted = s.asserted := rfl
@[simp] theorem State.clearCounters_straps : (s.clearCounters).straps = s.straps := rfl
@[simp] theorem State.clearCounters_runClock : (s.clearCounters).runClock = s.runClock := rfl
@[simp] theorem State.clearCounters_intake_forwarding : (s.clearCounters).intake.forwarding = s.intake.forwarding := rfl
@[simp] theorem State.clearCounters_roster : (s.clearCounters).roster = s.roster := rfl
@[simp] theorem State.clearCounters_pool : (s.clearCounters).pool = s.pool := rfl
@[simp] theorem State.clearCounters_sched : (s.clearCounters).sched = s.sched := rfl
@[simp] theorem State.clearCounters_journal : (s.clearCounters).journal = s.journal := rfl
@[simp] theorem State.clearCounters_flash : (s.clearCounters).flash = s.flash := rfl
@[simp] theorem State.clearCounters_startup : (s.clearCounters).startup = s.startup := rfl
@[simp] theorem State.clearCounters_upload : (s.clearCounters).upload = s.upload := rfl
@[simp] theorem State.clearCounters_link_rate : (s.clearCounters).link.rate = s.link.rate := rfl
@[simp] theorem State.clearCounters_link_rx : (s.clearCounters).link.rx = s.link.rx := rfl
@[simp] theorem State.clearCounters_link_gapLeft : (s.clearCounters).link.gapLeft = s.link.gapLeft := rfl
@[simp] theorem State.clearCounters_link_replies : (s.clearCounters).link.replies = s.link.replies := rfl
@[simp] theorem State.clearCounters_link_sending : (s.clearCounters).link.sending = s.link.sending := rfl
@[simp] theorem State.clearCounters_link_restarting : (s.clearCounters).link.restarting = s.link.restarting := rfl
@[simp] theorem State.clearCounters_link_notices : (s.clearCounters).link.notices = s.link.notices := rfl
@[simp] theorem State.clearCounters_link_flags : (s.clearCounters).link.flags = s.link.flags := rfl
@[simp] theorem State.clearCounters_link_mask : (s.clearCounters).link.mask = s.link.mask := rfl
@[simp] theorem State.clearCounters_link_attention : (s.clearCounters).link.attention = s.link.attention := rfl
@[simp] theorem State.clearCounters_indicator : (s.clearCounters).indicator = s.indicator := rfl
@[simp] theorem State.clearCounters_pending : (s.clearCounters).pending = s.pending := rfl
@[simp] theorem State.clearCounters_draws : (s.clearCounters).draws = s.draws := rfl

/-! ### updEntry -/

@[simp] theorem State.updEntry_asserted (n : Nat) (f : Entry → Entry) : (s.updEntry n f).asserted = s.asserted := rfl
@[simp] theorem State.updEntry_straps (n : Nat) (f : Entry → Entry) : (s.updEntry n f).straps = s.straps := rfl
@[simp] theorem State.updEntry_runClock (n : Nat) (f : Entry → Entry) : (s.updEntry n f).runClock = s.runClock := rfl
@[simp] theorem State.updEntry_intake (n : Nat) (f : Entry → Entry) : (s.updEntry n f).intake = s.intake := rfl
@[simp] theorem State.updEntry_roster_classes (n : Nat) (f : Entry → Entry) : (s.updEntry n f).roster.classes = s.roster.classes := rfl
@[simp] theorem State.updEntry_roster_legs (n : Nat) (f : Entry → Entry) : (s.updEntry n f).roster.legs = s.roster.legs := rfl
@[simp] theorem State.updEntry_roster_phase (n : Nat) (f : Entry → Entry) : (s.updEntry n f).roster.phase = s.roster.phase := rfl
@[simp] theorem State.updEntry_roster_routeId (n : Nat) (f : Entry → Entry) : (s.updEntry n f).roster.routeId = s.roster.routeId := rfl
@[simp] theorem State.updEntry_roster_announced (n : Nat) (f : Entry → Entry) : (s.updEntry n f).roster.announced = s.roster.announced := rfl
@[simp] theorem State.updEntry_roster_staging (n : Nat) (f : Entry → Entry) : (s.updEntry n f).roster.staging = s.roster.staging := rfl
@[simp] theorem State.updEntry_roster_missed (n : Nat) (f : Entry → Entry) : (s.updEntry n f).roster.missed = s.roster.missed := rfl
@[simp] theorem State.updEntry_roster_routeClock (n : Nat) (f : Entry → Entry) : (s.updEntry n f).roster.routeClock = s.roster.routeClock := rfl
@[simp] theorem State.updEntry_roster_routeMs (n : Nat) (f : Entry → Entry) : (s.updEntry n f).roster.routeMs = s.roster.routeMs := rfl
@[simp] theorem State.updEntry_roster_rebuild (n : Nat) (f : Entry → Entry) : (s.updEntry n f).roster.rebuild = s.roster.rebuild := rfl
@[simp] theorem State.updEntry_pool (n : Nat) (f : Entry → Entry) : (s.updEntry n f).pool = s.pool := rfl
@[simp] theorem State.updEntry_sched (n : Nat) (f : Entry → Entry) : (s.updEntry n f).sched = s.sched := rfl
@[simp] theorem State.updEntry_journal (n : Nat) (f : Entry → Entry) : (s.updEntry n f).journal = s.journal := rfl
@[simp] theorem State.updEntry_flash (n : Nat) (f : Entry → Entry) : (s.updEntry n f).flash = s.flash := rfl
@[simp] theorem State.updEntry_startup (n : Nat) (f : Entry → Entry) : (s.updEntry n f).startup = s.startup := rfl
@[simp] theorem State.updEntry_upload (n : Nat) (f : Entry → Entry) : (s.updEntry n f).upload = s.upload := rfl
@[simp] theorem State.updEntry_link (n : Nat) (f : Entry → Entry) : (s.updEntry n f).link = s.link := rfl
@[simp] theorem State.updEntry_indicator (n : Nat) (f : Entry → Entry) : (s.updEntry n f).indicator = s.indicator := rfl
@[simp] theorem State.updEntry_pending (n : Nat) (f : Entry → Entry) : (s.updEntry n f).pending = s.pending := rfl
@[simp] theorem State.updEntry_draws (n : Nat) (f : Entry → Entry) : (s.updEntry n f).draws = s.draws := rfl

/-! ### updLeg -/

@[simp] theorem State.updLeg_asserted (l : Byte) (f : Leg → Leg) : (s.updLeg l f).asserted = s.asserted := rfl
@[simp] theorem State.updLeg_straps (l : Byte) (f : Leg → Leg) : (s.updLeg l f).straps = s.straps := rfl
@[simp] theorem State.updLeg_runClock (l : Byte) (f : Leg → Leg) : (s.updLeg l f).runClock = s.runClock := rfl
@[simp] theorem State.updLeg_intake (l : Byte) (f : Leg → Leg) : (s.updLeg l f).intake = s.intake := rfl
@[simp] theorem State.updLeg_roster_classes (l : Byte) (f : Leg → Leg) : (s.updLeg l f).roster.classes = s.roster.classes := rfl
@[simp] theorem State.updLeg_roster_phase (l : Byte) (f : Leg → Leg) : (s.updLeg l f).roster.phase = s.roster.phase := rfl
@[simp] theorem State.updLeg_roster_routeId (l : Byte) (f : Leg → Leg) : (s.updLeg l f).roster.routeId = s.roster.routeId := rfl
@[simp] theorem State.updLeg_roster_announced (l : Byte) (f : Leg → Leg) : (s.updLeg l f).roster.announced = s.roster.announced := rfl
@[simp] theorem State.updLeg_roster_staging (l : Byte) (f : Leg → Leg) : (s.updLeg l f).roster.staging = s.roster.staging := rfl
@[simp] theorem State.updLeg_roster_entries (l : Byte) (f : Leg → Leg) : (s.updLeg l f).roster.entries = s.roster.entries := rfl
@[simp] theorem State.updLeg_roster_missed (l : Byte) (f : Leg → Leg) : (s.updLeg l f).roster.missed = s.roster.missed := rfl
@[simp] theorem State.updLeg_roster_routeClock (l : Byte) (f : Leg → Leg) : (s.updLeg l f).roster.routeClock = s.roster.routeClock := rfl
@[simp] theorem State.updLeg_roster_routeMs (l : Byte) (f : Leg → Leg) : (s.updLeg l f).roster.routeMs = s.roster.routeMs := rfl
@[simp] theorem State.updLeg_roster_rebuild (l : Byte) (f : Leg → Leg) : (s.updLeg l f).roster.rebuild = s.roster.rebuild := rfl
@[simp] theorem State.updLeg_pool (l : Byte) (f : Leg → Leg) : (s.updLeg l f).pool = s.pool := rfl
@[simp] theorem State.updLeg_sched (l : Byte) (f : Leg → Leg) : (s.updLeg l f).sched = s.sched := rfl
@[simp] theorem State.updLeg_journal (l : Byte) (f : Leg → Leg) : (s.updLeg l f).journal = s.journal := rfl
@[simp] theorem State.updLeg_flash (l : Byte) (f : Leg → Leg) : (s.updLeg l f).flash = s.flash := rfl
@[simp] theorem State.updLeg_startup (l : Byte) (f : Leg → Leg) : (s.updLeg l f).startup = s.startup := rfl
@[simp] theorem State.updLeg_upload (l : Byte) (f : Leg → Leg) : (s.updLeg l f).upload = s.upload := rfl
@[simp] theorem State.updLeg_link (l : Byte) (f : Leg → Leg) : (s.updLeg l f).link = s.link := rfl
@[simp] theorem State.updLeg_indicator (l : Byte) (f : Leg → Leg) : (s.updLeg l f).indicator = s.indicator := rfl
@[simp] theorem State.updLeg_pending (l : Byte) (f : Leg → Leg) : (s.updLeg l f).pending = s.pending := rfl
@[simp] theorem State.updLeg_draws (l : Byte) (f : Leg → Leg) : (s.updLeg l f).draws = s.draws := rfl

/-! ### recount -/

@[simp] theorem State.recount_asserted : (s.recount).asserted = s.asserted := by unfold State.recount; rfl
@[simp] theorem State.recount_straps : (s.recount).straps = s.straps := by unfold State.recount; rfl
@[simp] theorem State.recount_runClock : (s.recount).runClock = s.runClock := by unfold State.recount; rfl
@[simp] theorem State.recount_intake : (s.recount).intake = s.intake := by unfold State.recount; rfl
@[simp] theorem State.recount_roster_classes : (s.recount).roster.classes = s.roster.classes := by unfold State.recount; rfl
@[simp] theorem State.recount_roster_phase : (s.recount).roster.phase = s.roster.phase := by unfold State.recount; rfl
@[simp] theorem State.recount_roster_routeId : (s.recount).roster.routeId = s.roster.routeId := by unfold State.recount; rfl
@[simp] theorem State.recount_roster_announced : (s.recount).roster.announced = s.roster.announced := by unfold State.recount; rfl
@[simp] theorem State.recount_roster_staging : (s.recount).roster.staging = s.roster.staging := by unfold State.recount; rfl
@[simp] theorem State.recount_roster_entries : (s.recount).roster.entries = s.roster.entries := by unfold State.recount; rfl
@[simp] theorem State.recount_roster_missed : (s.recount).roster.missed = s.roster.missed := by unfold State.recount; rfl
@[simp] theorem State.recount_roster_routeClock : (s.recount).roster.routeClock = s.roster.routeClock := by unfold State.recount; rfl
@[simp] theorem State.recount_roster_routeMs : (s.recount).roster.routeMs = s.roster.routeMs := by unfold State.recount; rfl
@[simp] theorem State.recount_roster_rebuild : (s.recount).roster.rebuild = s.roster.rebuild := by unfold State.recount; rfl
@[simp] theorem State.recount_pool : (s.recount).pool = s.pool := by unfold State.recount; rfl
@[simp] theorem State.recount_sched : (s.recount).sched = s.sched := by unfold State.recount; rfl
@[simp] theorem State.recount_journal : (s.recount).journal = s.journal := by unfold State.recount; rfl
@[simp] theorem State.recount_flash : (s.recount).flash = s.flash := by unfold State.recount; rfl
@[simp] theorem State.recount_startup : (s.recount).startup = s.startup := by unfold State.recount; rfl
@[simp] theorem State.recount_upload : (s.recount).upload = s.upload := by unfold State.recount; rfl
@[simp] theorem State.recount_link : (s.recount).link = s.link := by unfold State.recount; rfl
@[simp] theorem State.recount_indicator : (s.recount).indicator = s.indicator := by unfold State.recount; rfl
@[simp] theorem State.recount_pending : (s.recount).pending = s.pending := by unfold State.recount; rfl
@[simp] theorem State.recount_draws : (s.recount).draws = s.draws := by unfold State.recount; rfl

/-! ### clearLegs -/

@[simp] theorem State.clearLegs_asserted : (s.clearLegs).asserted = s.asserted := rfl
@[simp] theorem State.clearLegs_straps : (s.clearLegs).straps = s.straps := rfl
@[simp] theorem State.clearLegs_runClock : (s.clearLegs).runClock = s.runClock := rfl
@[simp] theorem State.clearLegs_intake : (s.clearLegs).intake = s.intake := rfl
@[simp] theorem State.clearLegs_roster_classes : (s.clearLegs).roster.classes = s.roster.classes := rfl
@[simp] theorem State.clearLegs_roster_phase : (s.clearLegs).roster.phase = s.roster.phase := rfl
@[simp] theorem State.clearLegs_roster_routeId : (s.clearLegs).roster.routeId = s.roster.routeId := rfl
@[simp] theorem State.clearLegs_roster_announced : (s.clearLegs).roster.announced = s.roster.announced := rfl
@[simp] theorem State.clearLegs_roster_staging : (s.clearLegs).roster.staging = s.roster.staging := rfl
@[simp] theorem State.clearLegs_roster_entries : (s.clearLegs).roster.entries = s.roster.entries := rfl
@[simp] theorem State.clearLegs_roster_missed : (s.clearLegs).roster.missed = s.roster.missed := rfl
@[simp] theorem State.clearLegs_roster_routeClock : (s.clearLegs).roster.routeClock = s.roster.routeClock := rfl
@[simp] theorem State.clearLegs_roster_routeMs : (s.clearLegs).roster.routeMs = s.roster.routeMs := rfl
@[simp] theorem State.clearLegs_roster_rebuild : (s.clearLegs).roster.rebuild = s.roster.rebuild := rfl
@[simp] theorem State.clearLegs_pool : (s.clearLegs).pool = s.pool := rfl
@[simp] theorem State.clearLegs_sched : (s.clearLegs).sched = s.sched := rfl
@[simp] theorem State.clearLegs_journal : (s.clearLegs).journal = s.journal := rfl
@[simp] theorem State.clearLegs_flash : (s.clearLegs).flash = s.flash := rfl
@[simp] theorem State.clearLegs_startup : (s.clearLegs).startup = s.startup := rfl
@[simp] theorem State.clearLegs_upload : (s.clearLegs).upload = s.upload := rfl
@[simp] theorem State.clearLegs_link : (s.clearLegs).link = s.link := rfl
@[simp] theorem State.clearLegs_indicator : (s.clearLegs).indicator = s.indicator := rfl
@[simp] theorem State.clearLegs_pending : (s.clearLegs).pending = s.pending := rfl
@[simp] theorem State.clearLegs_draws : (s.clearLegs).draws = s.draws := rfl

/-! ### freeSlot -/

@[simp] theorem State.freeSlot_asserted (n : Nat) : (s.freeSlot n).asserted = s.asserted := rfl
@[simp] theorem State.freeSlot_straps (n : Nat) : (s.freeSlot n).straps = s.straps := rfl
@[simp] theorem State.freeSlot_runClock (n : Nat) : (s.freeSlot n).runClock = s.runClock := rfl
@[simp] theorem State.freeSlot_intake (n : Nat) : (s.freeSlot n).intake = s.intake := rfl
@[simp] theorem State.freeSlot_roster (n : Nat) : (s.freeSlot n).roster = s.roster := rfl
@[simp] theorem State.freeSlot_pool_holdTime (n : Nat) : (s.freeSlot n).pool.holdTime = s.pool.holdTime := rfl
@[simp] theorem State.freeSlot_sched (n : Nat) : (s.freeSlot n).sched = s.sched := rfl
@[simp] theorem State.freeSlot_journal (n : Nat) : (s.freeSlot n).journal = s.journal := rfl
@[simp] theorem State.freeSlot_flash (n : Nat) : (s.freeSlot n).flash = s.flash := rfl
@[simp] theorem State.freeSlot_startup (n : Nat) : (s.freeSlot n).startup = s.startup := rfl
@[simp] theorem State.freeSlot_upload (n : Nat) : (s.freeSlot n).upload = s.upload := rfl
@[simp] theorem State.freeSlot_link (n : Nat) : (s.freeSlot n).link = s.link := rfl
@[simp] theorem State.freeSlot_indicator (n : Nat) : (s.freeSlot n).indicator = s.indicator := rfl
@[simp] theorem State.freeSlot_pending (n : Nat) : (s.freeSlot n).pending = s.pending := rfl
@[simp] theorem State.freeSlot_draws (n : Nat) : (s.freeSlot n).draws = s.draws := rfl

/-! ### updCand -/

@[simp] theorem State.updCand_asserted (n : Nat) (f : Candidate → Candidate) : (s.updCand n f).asserted = s.asserted := rfl
@[simp] theorem State.updCand_straps (n : Nat) (f : Candidate → Candidate) : (s.updCand n f).straps = s.straps := rfl
@[simp] theorem State.updCand_runClock (n : Nat) (f : Candidate → Candidate) : (s.updCand n f).runClock = s.runClock := rfl
@[simp] theorem State.updCand_intake (n : Nat) (f : Candidate → Candidate) : (s.updCand n f).intake = s.intake := rfl
@[simp] theorem State.updCand_roster (n : Nat) (f : Candidate → Candidate) : (s.updCand n f).roster = s.roster := rfl
@[simp] theorem State.updCand_pool_holdTime (n : Nat) (f : Candidate → Candidate) : (s.updCand n f).pool.holdTime = s.pool.holdTime := rfl
@[simp] theorem State.updCand_sched (n : Nat) (f : Candidate → Candidate) : (s.updCand n f).sched = s.sched := rfl
@[simp] theorem State.updCand_journal (n : Nat) (f : Candidate → Candidate) : (s.updCand n f).journal = s.journal := rfl
@[simp] theorem State.updCand_flash (n : Nat) (f : Candidate → Candidate) : (s.updCand n f).flash = s.flash := rfl
@[simp] theorem State.updCand_startup (n : Nat) (f : Candidate → Candidate) : (s.updCand n f).startup = s.startup := rfl
@[simp] theorem State.updCand_upload (n : Nat) (f : Candidate → Candidate) : (s.updCand n f).upload = s.upload := rfl
@[simp] theorem State.updCand_link (n : Nat) (f : Candidate → Candidate) : (s.updCand n f).link = s.link := rfl
@[simp] theorem State.updCand_indicator (n : Nat) (f : Candidate → Candidate) : (s.updCand n f).indicator = s.indicator := rfl
@[simp] theorem State.updCand_pending (n : Nat) (f : Candidate → Candidate) : (s.updCand n f).pending = s.pending := rfl
@[simp] theorem State.updCand_draws (n : Nat) (f : Candidate → Candidate) : (s.updCand n f).draws = s.draws := rfl

/-! ### requestFlash -/

@[simp] theorem State.requestFlash_asserted (r : FlashReq) : (s.requestFlash r).asserted = s.asserted := rfl
@[simp] theorem State.requestFlash_straps (r : FlashReq) : (s.requestFlash r).straps = s.straps := rfl
@[simp] theorem State.requestFlash_runClock (r : FlashReq) : (s.requestFlash r).runClock = s.runClock := rfl
@[simp] theorem State.requestFlash_intake (r : FlashReq) : (s.requestFlash r).intake = s.intake := rfl
@[simp] theorem State.requestFlash_roster (r : FlashReq) : (s.requestFlash r).roster = s.roster := rfl
@[simp] theorem State.requestFlash_pool (r : FlashReq) : (s.requestFlash r).pool = s.pool := rfl
@[simp] theorem State.requestFlash_sched (r : FlashReq) : (s.requestFlash r).sched = s.sched := rfl
@[simp] theorem State.requestFlash_journal (r : FlashReq) : (s.requestFlash r).journal = s.journal := rfl
@[simp] theorem State.requestFlash_flash_store (r : FlashReq) : (s.requestFlash r).flash.store = s.flash.store := rfl
@[simp] theorem State.requestFlash_flash_port (r : FlashReq) : (s.requestFlash r).flash.port = s.flash.port := rfl
@[simp] theorem State.requestFlash_flash_portLeft (r : FlashReq) : (s.requestFlash r).flash.portLeft = s.flash.portLeft := rfl
@[simp] theorem State.requestFlash_flash_unfinished (r : FlashReq) : (s.requestFlash r).flash.unfinished = s.flash.unfinished := rfl
@[simp] theorem State.requestFlash_startup (r : FlashReq) : (s.requestFlash r).startup = s.startup := rfl
@[simp] theorem State.requestFlash_upload (r : FlashReq) : (s.requestFlash r).upload = s.upload := rfl
@[simp] theorem State.requestFlash_link (r : FlashReq) : (s.requestFlash r).link = s.link := rfl
@[simp] theorem State.requestFlash_indicator (r : FlashReq) : (s.requestFlash r).indicator = s.indicator := rfl
@[simp] theorem State.requestFlash_pending (r : FlashReq) : (s.requestFlash r).pending = s.pending := rfl
@[simp] theorem State.requestFlash_draws (r : FlashReq) : (s.requestFlash r).draws = s.draws := rfl

/-! ### freePort -/

@[simp] theorem State.freePort_asserted : (s.freePort).asserted = s.asserted := rfl
@[simp] theorem State.freePort_straps : (s.freePort).straps = s.straps := rfl
@[simp] theorem State.freePort_runClock : (s.freePort).runClock = s.runClock := rfl
@[simp] theorem State.freePort_intake : (s.freePort).intake = s.intake := rfl
@[simp] theorem State.freePort_roster : (s.freePort).roster = s.roster := rfl
@[simp] theorem State.freePort_pool : (s.freePort).pool = s.pool := rfl
@[simp] theorem State.freePort_sched : (s.freePort).sched = s.sched := rfl
@[simp] theorem State.freePort_journal : (s.freePort).journal = s.journal := rfl
@[simp] theorem State.freePort_flash_store : (s.freePort).flash.store = s.flash.store := rfl
@[simp] theorem State.freePort_flash_waiting : (s.freePort).flash.waiting = s.flash.waiting := rfl
@[simp] theorem State.freePort_flash_unfinished : (s.freePort).flash.unfinished = s.flash.unfinished := rfl
@[simp] theorem State.freePort_startup : (s.freePort).startup = s.startup := rfl
@[simp] theorem State.freePort_upload : (s.freePort).upload = s.upload := rfl
@[simp] theorem State.freePort_link : (s.freePort).link = s.link := rfl
@[simp] theorem State.freePort_indicator : (s.freePort).indicator = s.indicator := rfl
@[simp] theorem State.freePort_pending : (s.freePort).pending = s.pending := rfl
@[simp] theorem State.freePort_draws : (s.freePort).draws = s.draws := rfl

/-! ### popWait -/

@[simp] theorem State.popWait_asserted : (s.popWait).asserted = s.asserted := rfl
@[simp] theorem State.popWait_straps : (s.popWait).straps = s.straps := rfl
@[simp] theorem State.popWait_runClock : (s.popWait).runClock = s.runClock := rfl
@[simp] theorem State.popWait_intake : (s.popWait).intake = s.intake := rfl
@[simp] theorem State.popWait_roster : (s.popWait).roster = s.roster := rfl
@[simp] theorem State.popWait_pool : (s.popWait).pool = s.pool := rfl
@[simp] theorem State.popWait_sched : (s.popWait).sched = s.sched := rfl
@[simp] theorem State.popWait_journal_st : (s.popWait).journal.st = s.journal.st := rfl
@[simp] theorem State.popWait_journal_size : (s.popWait).journal.size = s.journal.size := rfl
@[simp] theorem State.popWait_journal_recordEnd : (s.popWait).journal.recordEnd = s.journal.recordEnd := rfl
@[simp] theorem State.popWait_journal_indexStart : (s.popWait).journal.indexStart = s.journal.indexStart := rfl
@[simp] theorem State.popWait_journal_progEnd : (s.popWait).journal.progEnd = s.journal.progEnd := rfl
@[simp] theorem State.popWait_journal_total : (s.popWait).journal.total = s.journal.total := rfl
@[simp] theorem State.popWait_journal_delivered : (s.popWait).journal.delivered = s.journal.delivered := rfl
@[simp] theorem State.popWait_journal_nextBatch : (s.popWait).journal.nextBatch = s.journal.nextBatch := rfl
@[simp] theorem State.popWait_journal_pointer : (s.popWait).journal.pointer = s.journal.pointer := rfl
@[simp] theorem State.popWait_journal_newestEnd : (s.popWait).journal.newestEnd = s.journal.newestEnd := rfl
@[simp] theorem State.popWait_journal_openBatch : (s.popWait).journal.openBatch = s.journal.openBatch := rfl
@[simp] theorem State.popWait_journal_seals : (s.popWait).journal.seals = s.journal.seals := rfl
@[simp] theorem State.popWait_journal_buffer : (s.popWait).journal.buffer = s.journal.buffer := rfl
@[simp] theorem State.popWait_journal_capture : (s.popWait).journal.capture = s.journal.capture := rfl
@[simp] theorem State.popWait_journal_lastOp : (s.popWait).journal.lastOp = s.journal.lastOp := rfl
@[simp] theorem State.popWait_journal_lastResult : (s.popWait).journal.lastResult = s.journal.lastResult := rfl
@[simp] theorem State.popWait_journal_erasing : (s.popWait).journal.erasing = s.journal.erasing := rfl
@[simp] theorem State.popWait_flash : (s.popWait).flash = s.flash := rfl
@[simp] theorem State.popWait_startup : (s.popWait).startup = s.startup := rfl
@[simp] theorem State.popWait_upload : (s.popWait).upload = s.upload := rfl
@[simp] theorem State.popWait_link : (s.popWait).link = s.link := rfl
@[simp] theorem State.popWait_indicator : (s.popWait).indicator = s.indicator := rfl
@[simp] theorem State.popWait_pending : (s.popWait).pending = s.pending := rfl
@[simp] theorem State.popWait_draws : (s.popWait).draws = s.draws := rfl

/-! ### captureFault -/

@[simp] theorem State.captureFault_asserted (n : Nat) : (s.captureFault n).asserted = s.asserted := rfl
@[simp] theorem State.captureFault_straps (n : Nat) : (s.captureFault n).straps = s.straps := rfl
@[simp] theorem State.captureFault_runClock (n : Nat) : (s.captureFault n).runClock = s.runClock := rfl
@[simp] theorem State.captureFault_intake (n : Nat) : (s.captureFault n).intake = s.intake := rfl
@[simp] theorem State.captureFault_roster (n : Nat) : (s.captureFault n).roster = s.roster := rfl
@[simp] theorem State.captureFault_pool (n : Nat) : (s.captureFault n).pool = s.pool := rfl
@[simp] theorem State.captureFault_sched (n : Nat) : (s.captureFault n).sched = s.sched := rfl
@[simp] theorem State.captureFault_journal_st (n : Nat) : (s.captureFault n).journal.st = s.journal.st := rfl
@[simp] theorem State.captureFault_journal_size (n : Nat) : (s.captureFault n).journal.size = s.journal.size := rfl
@[simp] theorem State.captureFault_journal_recordEnd (n : Nat) : (s.captureFault n).journal.recordEnd = s.journal.recordEnd := rfl
@[simp] theorem State.captureFault_journal_indexStart (n : Nat) : (s.captureFault n).journal.indexStart = s.journal.indexStart := rfl
@[simp] theorem State.captureFault_journal_progEnd (n : Nat) : (s.captureFault n).journal.progEnd = s.journal.progEnd := rfl
@[simp] theorem State.captureFault_journal_total (n : Nat) : (s.captureFault n).journal.total = s.journal.total := rfl
@[simp] theorem State.captureFault_journal_delivered (n : Nat) : (s.captureFault n).journal.delivered = s.journal.delivered := rfl
@[simp] theorem State.captureFault_journal_nextBatch (n : Nat) : (s.captureFault n).journal.nextBatch = s.journal.nextBatch := rfl
@[simp] theorem State.captureFault_journal_pointer (n : Nat) : (s.captureFault n).journal.pointer = s.journal.pointer := rfl
@[simp] theorem State.captureFault_journal_newestEnd (n : Nat) : (s.captureFault n).journal.newestEnd = s.journal.newestEnd := rfl
@[simp] theorem State.captureFault_journal_openBatch (n : Nat) : (s.captureFault n).journal.openBatch = s.journal.openBatch := rfl
@[simp] theorem State.captureFault_journal_seals (n : Nat) : (s.captureFault n).journal.seals = s.journal.seals := rfl
@[simp] theorem State.captureFault_journal_buffer (n : Nat) : (s.captureFault n).journal.buffer = s.journal.buffer := rfl
@[simp] theorem State.captureFault_journal_waits (n : Nat) : (s.captureFault n).journal.waits = s.journal.waits := rfl
@[simp] theorem State.captureFault_journal_lastOp (n : Nat) : (s.captureFault n).journal.lastOp = s.journal.lastOp := rfl
@[simp] theorem State.captureFault_journal_lastResult (n : Nat) : (s.captureFault n).journal.lastResult = s.journal.lastResult := rfl
@[simp] theorem State.captureFault_journal_erasing (n : Nat) : (s.captureFault n).journal.erasing = s.journal.erasing := rfl
@[simp] theorem State.captureFault_flash (n : Nat) : (s.captureFault n).flash = s.flash := rfl
@[simp] theorem State.captureFault_startup (n : Nat) : (s.captureFault n).startup = s.startup := rfl
@[simp] theorem State.captureFault_upload (n : Nat) : (s.captureFault n).upload = s.upload := rfl
@[simp] theorem State.captureFault_link (n : Nat) : (s.captureFault n).link = s.link := rfl
@[simp] theorem State.captureFault_indicator (n : Nat) : (s.captureFault n).indicator = s.indicator := rfl
@[simp] theorem State.captureFault_pending (n : Nat) : (s.captureFault n).pending = s.pending := rfl
@[simp] theorem State.captureFault_draws (n : Nat) : (s.captureFault n).draws = s.draws := rfl

/-! ### joinBuffer -/

@[simp] theorem State.joinBuffer_asserted (bs : List Byte) : (s.joinBuffer bs).asserted = s.asserted := rfl
@[simp] theorem State.joinBuffer_straps (bs : List Byte) : (s.joinBuffer bs).straps = s.straps := rfl
@[simp] theorem State.joinBuffer_runClock (bs : List Byte) : (s.joinBuffer bs).runClock = s.runClock := rfl
@[simp] theorem State.joinBuffer_intake (bs : List Byte) : (s.joinBuffer bs).intake = s.intake := rfl
@[simp] theorem State.joinBuffer_roster (bs : List Byte) : (s.joinBuffer bs).roster = s.roster := rfl
@[simp] theorem State.joinBuffer_pool (bs : List Byte) : (s.joinBuffer bs).pool = s.pool := rfl
@[simp] theorem State.joinBuffer_sched (bs : List Byte) : (s.joinBuffer bs).sched = s.sched := rfl
@[simp] theorem State.joinBuffer_journal_st (bs : List Byte) : (s.joinBuffer bs).journal.st = s.journal.st := rfl
@[simp] theorem State.joinBuffer_journal_size (bs : List Byte) : (s.joinBuffer bs).journal.size = s.journal.size := rfl
@[simp] theorem State.joinBuffer_journal_indexStart (bs : List Byte) : (s.joinBuffer bs).journal.indexStart = s.journal.indexStart := rfl
@[simp] theorem State.joinBuffer_journal_progEnd (bs : List Byte) : (s.joinBuffer bs).journal.progEnd = s.journal.progEnd := rfl
@[simp] theorem State.joinBuffer_journal_total (bs : List Byte) : (s.joinBuffer bs).journal.total = s.journal.total := rfl
@[simp] theorem State.joinBuffer_journal_delivered (bs : List Byte) : (s.joinBuffer bs).journal.delivered = s.journal.delivered := rfl
@[simp] theorem State.joinBuffer_journal_pointer (bs : List Byte) : (s.joinBuffer bs).journal.pointer = s.journal.pointer := rfl
@[simp] theorem State.joinBuffer_journal_newestEnd (bs : List Byte) : (s.joinBuffer bs).journal.newestEnd = s.journal.newestEnd := rfl
@[simp] theorem State.joinBuffer_journal_seals (bs : List Byte) : (s.joinBuffer bs).journal.seals = s.journal.seals := rfl
@[simp] theorem State.joinBuffer_journal_waits (bs : List Byte) : (s.joinBuffer bs).journal.waits = s.journal.waits := rfl
@[simp] theorem State.joinBuffer_journal_capture (bs : List Byte) : (s.joinBuffer bs).journal.capture = s.journal.capture := rfl
@[simp] theorem State.joinBuffer_journal_lastOp (bs : List Byte) : (s.joinBuffer bs).journal.lastOp = s.journal.lastOp := rfl
@[simp] theorem State.joinBuffer_journal_lastResult (bs : List Byte) : (s.joinBuffer bs).journal.lastResult = s.journal.lastResult := rfl
@[simp] theorem State.joinBuffer_journal_erasing (bs : List Byte) : (s.joinBuffer bs).journal.erasing = s.journal.erasing := rfl
@[simp] theorem State.joinBuffer_flash (bs : List Byte) : (s.joinBuffer bs).flash = s.flash := rfl
@[simp] theorem State.joinBuffer_startup (bs : List Byte) : (s.joinBuffer bs).startup = s.startup := rfl
@[simp] theorem State.joinBuffer_upload (bs : List Byte) : (s.joinBuffer bs).upload = s.upload := rfl
@[simp] theorem State.joinBuffer_link (bs : List Byte) : (s.joinBuffer bs).link = s.link := rfl
@[simp] theorem State.joinBuffer_indicator (bs : List Byte) : (s.joinBuffer bs).indicator = s.indicator := rfl
@[simp] theorem State.joinBuffer_pending (bs : List Byte) : (s.joinBuffer bs).pending = s.pending := rfl
@[simp] theorem State.joinBuffer_draws (bs : List Byte) : (s.joinBuffer bs).draws = s.draws := rfl

/-! ### startWindow -/

@[simp] theorem State.startWindow_asserted (n : Nat) : (s.startWindow n).asserted = s.asserted := rfl
@[simp] theorem State.startWindow_straps (n : Nat) : (s.startWindow n).straps = s.straps := rfl
@[simp] theorem State.startWindow_runClock (n : Nat) : (s.startWindow n).runClock = s.runClock := rfl
@[simp] theorem State.startWindow_intake (n : Nat) : (s.startWindow n).intake = s.intake := rfl
@[simp] theorem State.startWindow_roster_classes (n : Nat) : (s.startWindow n).roster.classes = s.roster.classes := rfl
@[simp] theorem State.startWindow_roster_legs (n : Nat) : (s.startWindow n).roster.legs = s.roster.legs := rfl
@[simp] theorem State.startWindow_roster_phase (n : Nat) : (s.startWindow n).roster.phase = s.roster.phase := rfl
@[simp] theorem State.startWindow_roster_routeId (n : Nat) : (s.startWindow n).roster.routeId = s.roster.routeId := rfl
@[simp] theorem State.startWindow_roster_announced (n : Nat) : (s.startWindow n).roster.announced = s.roster.announced := rfl
@[simp] theorem State.startWindow_roster_staging (n : Nat) : (s.startWindow n).roster.staging = s.roster.staging := rfl
@[simp] theorem State.startWindow_roster_missed (n : Nat) : (s.startWindow n).roster.missed = s.roster.missed := rfl
@[simp] theorem State.startWindow_roster_routeClock (n : Nat) : (s.startWindow n).roster.routeClock = s.roster.routeClock := rfl
@[simp] theorem State.startWindow_roster_routeMs (n : Nat) : (s.startWindow n).roster.routeMs = s.roster.routeMs := rfl
@[simp] theorem State.startWindow_roster_rebuild (n : Nat) : (s.startWindow n).roster.rebuild = s.roster.rebuild := rfl
@[simp] theorem State.startWindow_pool (n : Nat) : (s.startWindow n).pool = s.pool := rfl
@[simp] theorem State.startWindow_sched (n : Nat) : (s.startWindow n).sched = s.sched := rfl
@[simp] theorem State.startWindow_journal (n : Nat) : (s.startWindow n).journal = s.journal := rfl
@[simp] theorem State.startWindow_flash (n : Nat) : (s.startWindow n).flash = s.flash := rfl
@[simp] theorem State.startWindow_startup (n : Nat) : (s.startWindow n).startup = s.startup := rfl
@[simp] theorem State.startWindow_upload (n : Nat) : (s.startWindow n).upload = s.upload := rfl
@[simp] theorem State.startWindow_link (n : Nat) : (s.startWindow n).link = s.link := rfl
@[simp] theorem State.startWindow_indicator (n : Nat) : (s.startWindow n).indicator = s.indicator := rfl
@[simp] theorem State.startWindow_pending (n : Nat) : (s.startWindow n).pending = s.pending := rfl
@[simp] theorem State.startWindow_draws (n : Nat) : (s.startWindow n).draws = s.draws := rfl

/-! ### stopWindow -/

@[simp] theorem State.stopWindow_asserted (n : Nat) : (s.stopWindow n).asserted = s.asserted := rfl
@[simp] theorem State.stopWindow_straps (n : Nat) : (s.stopWindow n).straps = s.straps := rfl
@[simp] theorem State.stopWindow_runClock (n : Nat) : (s.stopWindow n).runClock = s.runClock := rfl
@[simp] theorem State.stopWindow_intake (n : Nat) : (s.stopWindow n).intake = s.intake := rfl
@[simp] theorem State.stopWindow_roster_classes (n : Nat) : (s.stopWindow n).roster.classes = s.roster.classes := rfl
@[simp] theorem State.stopWindow_roster_legs (n : Nat) : (s.stopWindow n).roster.legs = s.roster.legs := rfl
@[simp] theorem State.stopWindow_roster_phase (n : Nat) : (s.stopWindow n).roster.phase = s.roster.phase := rfl
@[simp] theorem State.stopWindow_roster_routeId (n : Nat) : (s.stopWindow n).roster.routeId = s.roster.routeId := rfl
@[simp] theorem State.stopWindow_roster_announced (n : Nat) : (s.stopWindow n).roster.announced = s.roster.announced := rfl
@[simp] theorem State.stopWindow_roster_staging (n : Nat) : (s.stopWindow n).roster.staging = s.roster.staging := rfl
@[simp] theorem State.stopWindow_roster_missed (n : Nat) : (s.stopWindow n).roster.missed = s.roster.missed := rfl
@[simp] theorem State.stopWindow_roster_routeClock (n : Nat) : (s.stopWindow n).roster.routeClock = s.roster.routeClock := rfl
@[simp] theorem State.stopWindow_roster_routeMs (n : Nat) : (s.stopWindow n).roster.routeMs = s.roster.routeMs := rfl
@[simp] theorem State.stopWindow_roster_rebuild (n : Nat) : (s.stopWindow n).roster.rebuild = s.roster.rebuild := rfl
@[simp] theorem State.stopWindow_pool (n : Nat) : (s.stopWindow n).pool = s.pool := rfl
@[simp] theorem State.stopWindow_sched (n : Nat) : (s.stopWindow n).sched = s.sched := rfl
@[simp] theorem State.stopWindow_journal (n : Nat) : (s.stopWindow n).journal = s.journal := rfl
@[simp] theorem State.stopWindow_flash (n : Nat) : (s.stopWindow n).flash = s.flash := rfl
@[simp] theorem State.stopWindow_startup (n : Nat) : (s.stopWindow n).startup = s.startup := rfl
@[simp] theorem State.stopWindow_upload (n : Nat) : (s.stopWindow n).upload = s.upload := rfl
@[simp] theorem State.stopWindow_link (n : Nat) : (s.stopWindow n).link = s.link := rfl
@[simp] theorem State.stopWindow_indicator (n : Nat) : (s.stopWindow n).indicator = s.indicator := rfl
@[simp] theorem State.stopWindow_pending (n : Nat) : (s.stopWindow n).pending = s.pending := rfl
@[simp] theorem State.stopWindow_draws (n : Nat) : (s.stopWindow n).draws = s.draws := rfl

/-! ### markHeard -/

@[simp] theorem State.markHeard_asserted (n : Nat) : (s.markHeard n).asserted = s.asserted := rfl
@[simp] theorem State.markHeard_straps (n : Nat) : (s.markHeard n).straps = s.straps := rfl
@[simp] theorem State.markHeard_runClock (n : Nat) : (s.markHeard n).runClock = s.runClock := rfl
@[simp] theorem State.markHeard_intake (n : Nat) : (s.markHeard n).intake = s.intake := rfl
@[simp] theorem State.markHeard_roster (n : Nat) : (s.markHeard n).roster = s.roster := rfl
@[simp] theorem State.markHeard_pool (n : Nat) : (s.markHeard n).pool = s.pool := rfl
@[simp] theorem State.markHeard_sched_openLeg (n : Nat) : (s.markHeard n).sched.openLeg = s.sched.openLeg := rfl
@[simp] theorem State.markHeard_sched_confirms (n : Nat) : (s.markHeard n).sched.confirms = s.sched.confirms := rfl
@[simp] theorem State.markHeard_sched_sweeps (n : Nat) : (s.markHeard n).sched.sweeps = s.sched.sweeps := rfl
@[simp] theorem State.markHeard_sched_credit (n : Nat) : (s.markHeard n).sched.credit = s.sched.credit := rfl
@[simp] theorem State.markHeard_sched_capacity (n : Nat) : (s.markHeard n).sched.capacity = s.sched.capacity := rfl
@[simp] theorem State.markHeard_sched_refill (n : Nat) : (s.markHeard n).sched.refill = s.sched.refill := rfl
@[simp] theorem State.markHeard_sched_refillLeft (n : Nat) : (s.markHeard n).sched.refillLeft = s.sched.refillLeft := rfl
@[simp] theorem State.markHeard_sched_wakeDur (n : Nat) : (s.markHeard n).sched.wakeDur = s.sched.wakeDur := rfl
@[simp] theorem State.markHeard_sched_replyWin (n : Nat) : (s.markHeard n).sched.replyWin = s.sched.replyWin := rfl
@[simp] theorem State.markHeard_journal (n : Nat) : (s.markHeard n).journal = s.journal := rfl
@[simp] theorem State.markHeard_flash (n : Nat) : (s.markHeard n).flash = s.flash := rfl
@[simp] theorem State.markHeard_startup (n : Nat) : (s.markHeard n).startup = s.startup := rfl
@[simp] theorem State.markHeard_upload (n : Nat) : (s.markHeard n).upload = s.upload := rfl
@[simp] theorem State.markHeard_link (n : Nat) : (s.markHeard n).link = s.link := rfl
@[simp] theorem State.markHeard_indicator (n : Nat) : (s.markHeard n).indicator = s.indicator := rfl
@[simp] theorem State.markHeard_pending (n : Nat) : (s.markHeard n).pending = s.pending := rfl
@[simp] theorem State.markHeard_draws (n : Nat) : (s.markHeard n).draws = s.draws := rfl

/-! ### pushReply -/

@[simp] theorem State.pushReply_asserted (k e : Byte) (o : ReplyCode) (d : List Byte) (r : Bool) : (s.pushReply k e o d r).asserted = s.asserted := rfl
@[simp] theorem State.pushReply_straps (k e : Byte) (o : ReplyCode) (d : List Byte) (r : Bool) : (s.pushReply k e o d r).straps = s.straps := rfl
@[simp] theorem State.pushReply_runClock (k e : Byte) (o : ReplyCode) (d : List Byte) (r : Bool) : (s.pushReply k e o d r).runClock = s.runClock := rfl
@[simp] theorem State.pushReply_intake (k e : Byte) (o : ReplyCode) (d : List Byte) (r : Bool) : (s.pushReply k e o d r).intake = s.intake := rfl
@[simp] theorem State.pushReply_roster (k e : Byte) (o : ReplyCode) (d : List Byte) (r : Bool) : (s.pushReply k e o d r).roster = s.roster := rfl
@[simp] theorem State.pushReply_pool (k e : Byte) (o : ReplyCode) (d : List Byte) (r : Bool) : (s.pushReply k e o d r).pool = s.pool := rfl
@[simp] theorem State.pushReply_sched (k e : Byte) (o : ReplyCode) (d : List Byte) (r : Bool) : (s.pushReply k e o d r).sched = s.sched := rfl
@[simp] theorem State.pushReply_journal (k e : Byte) (o : ReplyCode) (d : List Byte) (r : Bool) : (s.pushReply k e o d r).journal = s.journal := rfl
@[simp] theorem State.pushReply_flash (k e : Byte) (o : ReplyCode) (d : List Byte) (r : Bool) : (s.pushReply k e o d r).flash = s.flash := rfl
@[simp] theorem State.pushReply_startup (k e : Byte) (o : ReplyCode) (d : List Byte) (r : Bool) : (s.pushReply k e o d r).startup = s.startup := rfl
@[simp] theorem State.pushReply_upload (k e : Byte) (o : ReplyCode) (d : List Byte) (r : Bool) : (s.pushReply k e o d r).upload = s.upload := rfl
@[simp] theorem State.pushReply_link_rate (k e : Byte) (o : ReplyCode) (d : List Byte) (r : Bool) : (s.pushReply k e o d r).link.rate = s.link.rate := rfl
@[simp] theorem State.pushReply_link_rx (k e : Byte) (o : ReplyCode) (d : List Byte) (r : Bool) : (s.pushReply k e o d r).link.rx = s.link.rx := rfl
@[simp] theorem State.pushReply_link_gapLeft (k e : Byte) (o : ReplyCode) (d : List Byte) (r : Bool) : (s.pushReply k e o d r).link.gapLeft = s.link.gapLeft := rfl
@[simp] theorem State.pushReply_link_sending (k e : Byte) (o : ReplyCode) (d : List Byte) (r : Bool) : (s.pushReply k e o d r).link.sending = s.link.sending := rfl
@[simp] theorem State.pushReply_link_restarting (k e : Byte) (o : ReplyCode) (d : List Byte) (r : Bool) : (s.pushReply k e o d r).link.restarting = s.link.restarting := rfl
@[simp] theorem State.pushReply_link_notices (k e : Byte) (o : ReplyCode) (d : List Byte) (r : Bool) : (s.pushReply k e o d r).link.notices = s.link.notices := rfl
@[simp] theorem State.pushReply_link_flags (k e : Byte) (o : ReplyCode) (d : List Byte) (r : Bool) : (s.pushReply k e o d r).link.flags = s.link.flags := rfl
@[simp] theorem State.pushReply_link_mask (k e : Byte) (o : ReplyCode) (d : List Byte) (r : Bool) : (s.pushReply k e o d r).link.mask = s.link.mask := rfl
@[simp] theorem State.pushReply_link_attention (k e : Byte) (o : ReplyCode) (d : List Byte) (r : Bool) : (s.pushReply k e o d r).link.attention = s.link.attention := rfl
@[simp] theorem State.pushReply_link_counters (k e : Byte) (o : ReplyCode) (d : List Byte) (r : Bool) : (s.pushReply k e o d r).link.counters = s.link.counters := rfl
@[simp] theorem State.pushReply_indicator (k e : Byte) (o : ReplyCode) (d : List Byte) (r : Bool) : (s.pushReply k e o d r).indicator = s.indicator := rfl
@[simp] theorem State.pushReply_pending (k e : Byte) (o : ReplyCode) (d : List Byte) (r : Bool) : (s.pushReply k e o d r).pending = s.pending := rfl

/-! ### setRx -/

@[simp] theorem State.setRx_asserted (r : Receiver) : (s.setRx r).asserted = s.asserted := rfl
@[simp] theorem State.setRx_straps (r : Receiver) : (s.setRx r).straps = s.straps := rfl
@[simp] theorem State.setRx_runClock (r : Receiver) : (s.setRx r).runClock = s.runClock := rfl
@[simp] theorem State.setRx_intake (r : Receiver) : (s.setRx r).intake = s.intake := rfl
@[simp] theorem State.setRx_roster (r : Receiver) : (s.setRx r).roster = s.roster := rfl
@[simp] theorem State.setRx_pool (r : Receiver) : (s.setRx r).pool = s.pool := rfl
@[simp] theorem State.setRx_sched (r : Receiver) : (s.setRx r).sched = s.sched := rfl
@[simp] theorem State.setRx_journal (r : Receiver) : (s.setRx r).journal = s.journal := rfl
@[simp] theorem State.setRx_flash (r : Receiver) : (s.setRx r).flash = s.flash := rfl
@[simp] theorem State.setRx_startup (r : Receiver) : (s.setRx r).startup = s.startup := rfl
@[simp] theorem State.setRx_upload (r : Receiver) : (s.setRx r).upload = s.upload := rfl
@[simp] theorem State.setRx_link_rate (r : Receiver) : (s.setRx r).link.rate = s.link.rate := rfl
@[simp] theorem State.setRx_link_replies (r : Receiver) : (s.setRx r).link.replies = s.link.replies := rfl
@[simp] theorem State.setRx_link_sending (r : Receiver) : (s.setRx r).link.sending = s.link.sending := rfl
@[simp] theorem State.setRx_link_restarting (r : Receiver) : (s.setRx r).link.restarting = s.link.restarting := rfl
@[simp] theorem State.setRx_link_notices (r : Receiver) : (s.setRx r).link.notices = s.link.notices := rfl
@[simp] theorem State.setRx_link_flags (r : Receiver) : (s.setRx r).link.flags = s.link.flags := rfl
@[simp] theorem State.setRx_link_mask (r : Receiver) : (s.setRx r).link.mask = s.link.mask := rfl
@[simp] theorem State.setRx_link_attention (r : Receiver) : (s.setRx r).link.attention = s.link.attention := rfl
@[simp] theorem State.setRx_link_counters (r : Receiver) : (s.setRx r).link.counters = s.link.counters := rfl
@[simp] theorem State.setRx_indicator (r : Receiver) : (s.setRx r).indicator = s.indicator := rfl
@[simp] theorem State.setRx_pending (r : Receiver) : (s.setRx r).pending = s.pending := rfl
@[simp] theorem State.setRx_draws (r : Receiver) : (s.setRx r).draws = s.draws := rfl

/-! ### withScan -/

@[simp] theorem State.withScan_asserted (r : Recovery) : (s.withScan r).asserted = s.asserted := rfl
@[simp] theorem State.withScan_straps (r : Recovery) : (s.withScan r).straps = s.straps := rfl
@[simp] theorem State.withScan_runClock (r : Recovery) : (s.withScan r).runClock = s.runClock := rfl
@[simp] theorem State.withScan_intake (r : Recovery) : (s.withScan r).intake = s.intake := rfl
@[simp] theorem State.withScan_roster (r : Recovery) : (s.withScan r).roster = s.roster := rfl
@[simp] theorem State.withScan_pool (r : Recovery) : (s.withScan r).pool = s.pool := rfl
@[simp] theorem State.withScan_sched (r : Recovery) : (s.withScan r).sched = s.sched := rfl
@[simp] theorem State.withScan_journal (r : Recovery) : (s.withScan r).journal = s.journal := rfl
@[simp] theorem State.withScan_flash (r : Recovery) : (s.withScan r).flash = s.flash := rfl
@[simp] theorem State.withScan_upload (r : Recovery) : (s.withScan r).upload = s.upload := rfl
@[simp] theorem State.withScan_link (r : Recovery) : (s.withScan r).link = s.link := rfl
@[simp] theorem State.withScan_indicator (r : Recovery) : (s.withScan r).indicator = s.indicator := rfl
@[simp] theorem State.withScan_pending (r : Recovery) : (s.withScan r).pending = s.pending := rfl
@[simp] theorem State.withScan_draws (r : Recovery) : (s.withScan r).draws = s.draws := rfl

/-! ### endOp -/

@[simp] theorem State.endOp_asserted (r : FlashReq) (e : FlashEnd) : (s.endOp r e).asserted = s.asserted := rfl
@[simp] theorem State.endOp_straps (r : FlashReq) (e : FlashEnd) : (s.endOp r e).straps = s.straps := rfl
@[simp] theorem State.endOp_runClock (r : FlashReq) (e : FlashEnd) : (s.endOp r e).runClock = s.runClock := rfl
@[simp] theorem State.endOp_intake (r : FlashReq) (e : FlashEnd) : (s.endOp r e).intake = s.intake := rfl
@[simp] theorem State.endOp_roster (r : FlashReq) (e : FlashEnd) : (s.endOp r e).roster = s.roster := rfl
@[simp] theorem State.endOp_pool (r : FlashReq) (e : FlashEnd) : (s.endOp r e).pool = s.pool := rfl
@[simp] theorem State.endOp_sched (r : FlashReq) (e : FlashEnd) : (s.endOp r e).sched = s.sched := rfl
@[simp] theorem State.endOp_journal (r : FlashReq) (e : FlashEnd) : (s.endOp r e).journal = s.journal := rfl
@[simp] theorem State.endOp_flash_waiting (r : FlashReq) (e : FlashEnd) : (s.endOp r e).flash.waiting = s.flash.waiting := rfl
@[simp] theorem State.endOp_flash_unfinished (r : FlashReq) (e : FlashEnd) : (s.endOp r e).flash.unfinished = s.flash.unfinished := rfl
@[simp] theorem State.endOp_startup (r : FlashReq) (e : FlashEnd) : (s.endOp r e).startup = s.startup := rfl
@[simp] theorem State.endOp_upload (r : FlashReq) (e : FlashEnd) : (s.endOp r e).upload = s.upload := rfl
@[simp] theorem State.endOp_link (r : FlashReq) (e : FlashEnd) : (s.endOp r e).link = s.link := rfl
@[simp] theorem State.endOp_indicator (r : FlashReq) (e : FlashEnd) : (s.endOp r e).indicator = s.indicator := rfl
@[simp] theorem State.endOp_pending (r : FlashReq) (e : FlashEnd) : (s.endOp r e).pending = s.pending := rfl
@[simp] theorem State.endOp_draws (r : FlashReq) (e : FlashEnd) : (s.endOp r e).draws = s.draws := rfl

/-! ### buildHead -/

@[simp] theorem State.buildHead_asserted (b : BatchInfo) : (s.buildHead b).asserted = s.asserted := rfl
@[simp] theorem State.buildHead_straps (b : BatchInfo) : (s.buildHead b).straps = s.straps := rfl
@[simp] theorem State.buildHead_runClock (b : BatchInfo) : (s.buildHead b).runClock = s.runClock := rfl
@[simp] theorem State.buildHead_intake (b : BatchInfo) : (s.buildHead b).intake = s.intake := rfl
@[simp] theorem State.buildHead_roster (b : BatchInfo) : (s.buildHead b).roster = s.roster := rfl
@[simp] theorem State.buildHead_pool (b : BatchInfo) : (s.buildHead b).pool = s.pool := rfl
@[simp] theorem State.buildHead_sched (b : BatchInfo) : (s.buildHead b).sched = s.sched := rfl
@[simp] theorem State.buildHead_journal (b : BatchInfo) : (s.buildHead b).journal = s.journal := rfl
@[simp] theorem State.buildHead_flash (b : BatchInfo) : (s.buildHead b).flash = s.flash := rfl
@[simp] theorem State.buildHead_startup (b : BatchInfo) : (s.buildHead b).startup = s.startup := rfl
@[simp] theorem State.buildHead_upload_st (b : BatchInfo) : (s.buildHead b).upload.st = s.upload.st := rfl
@[simp] theorem State.buildHead_upload_stage (b : BatchInfo) : (s.buildHead b).upload.stage = s.upload.stage := rfl
@[simp] theorem State.buildHead_upload_stall (b : BatchInfo) : (s.buildHead b).upload.stall = s.upload.stall := rfl
@[simp] theorem State.buildHead_upload_slot (b : BatchInfo) : (s.buildHead b).upload.slot = s.upload.slot := rfl
@[simp] theorem State.buildHead_upload_mismatches (b : BatchInfo) : (s.buildHead b).upload.mismatches = s.upload.mismatches := rfl
@[simp] theorem State.buildHead_upload_ackLeft (b : BatchInfo) : (s.buildHead b).upload.ackLeft = s.upload.ackLeft := rfl
@[simp] theorem State.buildHead_link (b : BatchInfo) : (s.buildHead b).link = s.link := rfl
@[simp] theorem State.buildHead_indicator (b : BatchInfo) : (s.buildHead b).indicator = s.indicator := rfl
@[simp] theorem State.buildHead_pending (b : BatchInfo) : (s.buildHead b).pending = s.pending := rfl
@[simp] theorem State.buildHead_draws (b : BatchInfo) : (s.buildHead b).draws = s.draws := rfl

end Sys2Proof.Machine
end

