-- ==== Sys2Proof/Laws/Moves.lean ====
section
/-!
SUPPORT. What the operations on meters, wake requests, candidates and records can do, said once: each is a run of the
small changes `Micro` (`moves_<operation>`). A property that every small change keeps holds after every one of them.
-/

namespace Sys2Proof.Machine

/-- The link apart from the notice queue, the flags and the counters. -/
def Link.bare (l : Link) : Link := { l with notices := [], flags := 0, counters := .zero }

/-- The scheduler's settings. -/
def Sched.settings (q : Sched) : Nat × Nat × Nat × Nat × Nat := (q.capacity, q.refill, q.refillLeft, q.wakeDur, q.replyWin)

/-- The journal apart from the state, the offsets of a record, the open batch, the seals, the buffer and the waits. -/
def Journal.bare (j : Journal) : Journal :=
  { j with st := .opened, recordEnd := 0, indexStart := 0, nextBatch := 0, openBatch := none, seals := [], buffer := [],
           waits := [] }

/-- The held-record list counts the scheduler's records of the wait order (R124). -/
def Journal.heldRecords (j : Journal) : Nat := j.waits.countP WaitEntry.isHeld

/-- The intake apart from the lane counters. -/
def Intake.bare (k : Intake) : Intake := { k with lanes := k.lanes.map fun l => { l with counters := .zero } }

/-- One small change. -/
inductive Micro : State → State → Prop
  | link (s : State) (l : Link) (h : l.bare = s.link.bare)
      (hn : s.link.notices.length ≤ 48 → l.notices.length ≤ 48) (hf : l.flags &&& s.link.flags = s.link.flags) :
      Micro s { s with link := l }
  | entry (s : State) (n : Nat) (f : Entry → Entry) (h : ∀ e, (f e).loaded = e.loaded ∧ (f e).st = e.st) :
      Micro s (s.updEntry n f)
  | move (s : State) (n : Nat) (st : EntryState) : Micro s (s.moveTo n st)
  | sched (s : State) (q : Sched) (h : q.settings = s.sched.settings) (hc : q.credit ≤ s.sched.credit)
      (hq : s.sched.queued ≤ 32 → q.queued ≤ 32) : Micro s { s with sched := q }
  | journal (s : State) (j : Journal) (h : j.bare = s.journal.bare)
      (hb : s.journal.held.length ≤ 1024 → j.held.length ≤ 1024)
      (hw : s.journal.heldRecords ≤ 4096 → j.heldRecords ≤ 4096) : Micro s { s with journal := j }
  | pool (s : State) (p : List Candidate) (h : (p.map Candidate.serial).Sublist (s.pool.cands.map Candidate.serial)) :
      Micro s { s with pool.cands := p }
  | intake (s : State) (k : Intake) (h : k.bare = s.intake.bare) : Micro s { s with intake := k }

/-- A run of small changes. -/
abbrev Moves : State → State → Prop := Relation.ReflTransGen Micro

theorem Moves.one {s t : State} (h : Micro s t) : Moves s t := .single h

/-- A property that every small change keeps is kept by a run of them. -/
theorem Moves.keeps {P : State → Prop} (hP : ∀ s t, Micro s t → P s → P t) {s t : State} (h : Moves s t) (hs : P s) :
    P t := by
  induction h with
  | refl => exact hs
  | tail _ h ih => exact hP _ _ h ih

/-- A value that no small change alters is unaltered by a run of them. -/
theorem Moves.same {α : Sort*} (v : State → α) (hv : ∀ s t, Micro s t → v t = v s) {s t : State} (h : Moves s t) :
    v t = v s := by
  induction h with
  | refl => rfl
  | tail _ h ih => exact (hv _ _ h).trans ih

/-! ## Flags, counters and notices -/

theorem flags_grow (a b : BitVec 13) : (a ||| b) &&& a = a := by
  ext i
  simp
  tauto

theorem moves_setFlag (f : Flag) (s : State) : Moves s (s.setFlag f) := .one (.link s _ rfl id (flags_grow _ _))
theorem moves_countRefusals (n : Nat) (s : State) : Moves s (s.countRefusals n) :=
  .one (.link s _ rfl id (BitVec.and_self))
theorem moves_countOutOfRange (s : State) : Moves s s.countOutOfRange :=
  .one (.link s _ rfl id (BitVec.and_self))
theorem moves_countForcedClose (s : State) : Moves s s.countForcedClose :=
  .one (.link s _ rfl id (BitVec.and_self))
theorem moves_countNoticeDropped (s : State) : Moves s s.countNoticeDropped :=
  .one (.link s _ rfl id (BitVec.and_self))
theorem moves_countTransmitTimeout (s : State) : Moves s s.countTransmitTimeout :=
  .one (.link s _ rfl id (BitVec.and_self))

theorem moves_requestNotice (n : Notice) (s : State) : Moves s (s.requestNotice n) := by
  unfold State.requestNotice
  split
  · rename_i h
    refine .one (.link s { s.link with notices := s.link.notices ++ [n] } rfl (fun _ => ?_) BitVec.and_self)
    have : s.link.notices.length ≤ 47 := by
      cases n <;> simp [noticeFits] at h <;> omega
    simp; omega
  · exact (moves_countNoticeDropped s).trans (moves_setFlag _ _)

/-! ## The roster and the pool -/

theorem moves_moveTo (n : Nat) (st : EntryState) (s : State) : Moves s (s.moveTo n st) := .one (.move s n st)
theorem moves_startWindow (n : Nat) (s : State) : Moves s (s.startWindow n) := .one (.entry s n _ (by simp))
theorem moves_stopWindow (n : Nat) (s : State) : Moves s (s.stopWindow n) := .one (.entry s n _ (by simp))

theorem moves_freeSlot (n : Nat) (s : State) : Moves s (s.freeSlot n) :=
  .one (.pool s _ (List.filter_sublist.map _))

theorem moves_updCand (n : Nat) (f : Candidate → Candidate) (hf : ∀ c, (f c).serial = c.serial) (s : State) :
    Moves s (s.updCand n f) := by
  refine .one (.pool s _ ?_)
  have h : (s.pool.cands.map fun c => if c.serial = n then f c else c).map Candidate.serial
      = s.pool.cands.map Candidate.serial := by
    rw [List.map_map]
    refine List.map_congr_left fun c _ => ?_
    simp only [Function.comp_apply]
    split <;> simp [hf]
  rw [h]

theorem moves_foldl {α : Type} (f : State → α → State) (hf : ∀ t a, Moves t (f t a)) (as : List α) (s : State) :
    Moves s (as.foldl f s) := by
  induction as generalizing s with
  | nil => exact .refl
  | cons a as ih => exact (hf s a).trans (ih _)

/-! ## The journal -/

theorem moves_testLow (s : State) : Moves s s.testLow := by
  unfold State.testLow
  split
  · exact moves_setFlag _ s
  · exact .refl

theorem moves_sealOpen (s : State) : Moves s s.sealOpen := by
  unfold State.sealOpen
  split
  · exact .refl
  · split
    · refine .trans ?_ (moves_testLow _)
      exact Moves.one (.journal s _ rfl id id)
    · exact .refl

theorem moves_sealFull (s : State) : Moves s s.sealFull := by
  unfold State.sealFull
  split
  · split
    · exact moves_sealOpen s
    · exact .refl
  · exact .refl

/-- A record that the buffer test lets in. -/
theorem room_fits {j : Journal} {n : Nat} (h : j.room n = .fits) : j.held.length + n ≤ 1024 := by
  unfold Journal.room at h
  split at h
  · cases h
  · split at h
    · cases h
    · omega

theorem moves_append (bs : List Byte) (s : State) (h : s.journal.room bs.length = .fits) : Moves s (s.append bs) := by
  have hj : Moves s (s.joinBuffer bs) := by
    refine .one (.journal s _ rfl (fun _ => ?_) id)
    have := room_fits h
    simpa [Journal.held] using this
  exact (hj.trans (moves_testLow _)).trans (moves_sealFull _)

theorem moves_refuseByState (s : State) : Moves s s.refuseByState := by
  unfold State.refuseByState
  dsimp only
  split
  · exact (moves_countRefusals _ s).trans (moves_setFlag _ _)
  · exact moves_countRefusals _ s

theorem moves_refuseForSpace (s : State) : Moves s s.refuseForSpace :=
  .trans (.trans (moves_countRefusals 1 s)
    (Moves.one (.journal (s.countRefusals 1) { s.journal with st := .full } rfl id id))) (moves_setFlag _ _)

theorem moves_joinWait (w : WaitEntry) (s : State) : Moves s (s.joinWait w).2 := by
  unfold State.joinWait
  split
  · exact moves_countRefusals _ s
  · rename_i h
    refine .one (.journal s _ rfl id fun _ => ?_)
    simp only [Journal.heldRecords, List.countP_append, List.countP_singleton]
    split
    · rename_i hw
      have : ¬ 4096 ≤ s.journal.waits.countP WaitEntry.isHeld := fun hc => h ⟨hw, hc⟩
      omega
    · simpa [Journal.heldRecords] using ‹_›

theorem moves_popWait (s : State) : Moves s s.popWait := by
  refine .one (.journal s _ rfl id fun h => ?_)
  have : s.journal.waits.tail.countP WaitEntry.isHeld ≤ s.journal.waits.countP WaitEntry.isHeld :=
    (List.tail_sublist _).countP_le
  simp only [Journal.heldRecords] at *
  omega

theorem moves_offer (r : JournalRecord) (w : WaitEntry) (s : State) : Moves s (s.offer r w).2 := by
  unfold State.offer
  split
  · exact moves_refuseByState s
  · split
    · exact moves_joinWait w s
    · split
      · exact moves_refuseForSpace s
      · exact moves_joinWait w s
      · exact moves_append _ s ‹_›

theorem moves_offerHeld (r : JournalRecord) (s : State) : Moves s (s.offerHeld r).2 := moves_offer _ _ s

/-! ## The scheduler -/

/-- Any change of the open-leg record, the transmission and the queue that does not lengthen it. -/
theorem moves_sched (s : State) (q : Sched) (h : q.settings = s.sched.settings) (hc : q.credit ≤ s.sched.credit)
    (hq : q.queued ≤ s.sched.queued) : Moves s { s with sched := q } :=
  .one (.sched s q h hc fun hs => hq.trans hs)

theorem moves_markHeard (n : Nat) (s : State) : Moves s (s.markHeard n) := moves_sched s _ rfl le_rfl le_rfl

@[simp] theorem placeEntry_sched (n : Nat) (st : EntryState) (s : State) : (s.placeEntry n st).sched = s.sched := by
  unfold State.placeEntry
  split <;> rfl

@[simp] theorem moveTo_sched (n : Nat) (st : EntryState) (s : State) : (s.moveTo n st).sched = s.sched := by
  unfold State.moveTo
  split
  · rfl
  · simp

theorem moves_joinSweep (n : Nat) (s : State) (h : s.sched.queued < 32) : Moves s (s.joinSweep n) := by
  refine (Moves.one (.sched s { s.sched with sweeps := s.sched.sweeps ++ [n] } rfl le_rfl fun _ => ?_)).trans
    (moves_moveTo _ _ _)
  simp only [Sched.queued, List.length_append, List.length_singleton] at *
  omega

theorem joinSweep_queued (n : Nat) (s : State) : (s.joinSweep n).sched.queued = s.sched.queued + 1 := by
  simp only [State.joinSweep, moveTo_sched, Sched.queued, List.length_append, List.length_singleton]
  omega

theorem moves_joinSweeps (ns : List Nat) (s : State) (h : ns.length ≤ 32 - s.sched.queued) :
    Moves s (ns.foldl (fun t n => t.joinSweep n) s) := by
  induction ns generalizing s with
  | nil => exact .refl
  | cons n ns ih =>
    simp only [List.length_cons] at h
    refine (moves_joinSweep n s (by omega)).trans (ih _ ?_)
    rw [joinSweep_queued]
    omega

theorem scanPick_length (s : State) : s.scanPick.length ≤ 32 - s.sched.queued := by
  unfold State.scanPick
  split
  · simp
  · rw [List.length_take]
    omega

theorem moves_scan (s : State) : Moves s s.scan := moves_joinSweeps _ s (scanPick_length s)

theorem moves_startTransmission (n : Nat) (p : Purpose) (s : State) : Moves s (s.startTransmission n p) := by
  have h : ∀ t : State, Moves s t → Moves s (t.updEntry n fun e => { e with attempts := e.attempts + 1 }) :=
    fun t ht => ht.trans (Moves.one (.entry t n _ (by simp)))
  unfold State.startTransmission
  dsimp only
  split
  all_goals rename_i hp
  all_goals
    first
      | refine (h _ ?_).trans (moves_moveTo _ _ _)
      | refine h _ ?_
  all_goals
    refine moves_sched s _ rfl (Nat.sub_le _ _) ?_
    simp only [Sched.queued, hp]
    have h1 := (List.tail_sublist s.sched.confirms).length_le
    have h2 := (List.tail_sublist s.sched.sweeps).length_le
    split <;> omega

theorem moves_offerLane (s : State) : Moves s s.offerLane := by
  unfold State.offerLane
  split
  · exact .refl
  · split
    · exact (moves_startTransmission _ _ s).trans (moves_scan _)
    · exact .refl

/-- Requests leave the queue. -/
theorem moves_erase (n : Nat) (s : State) :
    Moves s { s with sched.confirms := s.sched.confirms.erase n, sched.sweeps := s.sched.sweeps.erase n } := by
  refine moves_sched s _ rfl le_rfl ?_
  simp only [Sched.queued]
  have h1 := (List.erase_sublist (a := n) (l := s.sched.confirms)).length_le
  have h2 := (List.erase_sublist (a := n) (l := s.sched.sweeps)).length_le
  omega

/-- A confirm request leaves the queue. -/
theorem moves_dropConfirm (n : Nat) (s : State) : Moves s { s with sched.confirms := s.sched.confirms.erase n } := by
  refine moves_sched s _ rfl le_rfl ?_
  simp only [Sched.queued]
  have h1 := (List.erase_sublist (a := n) (l := s.sched.confirms)).length_le
  omega

theorem moves_dropRequest (n : Nat) (s : State) : Moves s (s.dropRequest n) := by
  unfold State.dropRequest
  split
  · exact ((moves_erase n s).trans (moves_scan _)).trans (moves_offerLane _)
  · exact .refl

theorem moves_offerConfirm (n : Nat) (s : State) : Moves s (s.offerConfirm n) := by
  unfold State.offerConfirm
  split
  · rename_i h
    refine (Moves.one (.sched s { s.sched with confirms := s.sched.confirms ++ [n] } rfl le_rfl fun _ => ?_)).trans
      (moves_offerLane _)
    simp only [Sched.queued, List.length_append, List.length_singleton] at *
    omega
  · split
    · exact .refl
    · rename_i e he
      refine ((moves_sched s { s.sched with sweeps := s.sched.sweeps.dropLast,
                                            confirms := s.sched.confirms ++ [n] } rfl le_rfl ?_).trans
        (moves_moveTo _ _ _)).trans (moves_offerLane _)
      have : s.sched.sweeps ≠ [] := by rintro h; simp [h] at he
      have := List.length_pos_of_ne_nil this
      simp only [Sched.queued, List.length_append, List.length_singleton, List.length_dropLast]
      omega

theorem moves_settleTest (s : State) : Moves s s.settleTest := by
  unfold State.settleTest
  split
  · exact .refl
  · split
    · refine .trans (.trans ?_ (moves_setFlag _ _)) (moves_requestNotice _ _)
      exact moves_sched s _ rfl le_rfl le_rfl
    · exact .refl

theorem moves_missMeter (n : Nat) (r : MissReason) (s : State) : Moves s (s.missMeter n r) := by
  unfold State.missMeter
  split
  · exact .refl
  · exact ((((moves_moveTo _ _ s).trans (moves_offerHeld _ _)).trans (moves_requestNotice _ _)).trans
      (moves_setFlag _ _)).trans (moves_settleTest _)

theorem moves_transmissionEffect (t : Transmission) (s : State) : Moves s (s.transmissionEffect t) := by
  unfold State.transmissionEffect
  split
  · exact .refl
  · split
    · exact .refl
    · split
      · split
        · split
          · exact (moves_moveTo _ _ s).trans (moves_startWindow _ _)
          · exact moves_missMeter _ _ s
        · exact .refl
      · split
        · exact moves_startWindow _ s
        · exact .refl

theorem moves_endTransmission (t : Transmission) (s : State) : Moves s (s.endTransmission t) :=
  .trans (.trans (moves_sched s { s.sched with tx := none } rfl le_rfl le_rfl) (moves_transmissionEffect t _))
    (moves_offerLane _)

theorem moves_sweepWindowEnded (n : Nat) (s : State) : Moves s (s.sweepWindowEnded n) := by
  unfold State.sweepWindowEnded
  split
  · exact .refl
  · split
    · dsimp only
      split
      · split
        · split
          · rename_i h
            exact ((moves_stopWindow n s).trans (moves_joinSweep n _ h.1)).trans (moves_offerLane _)
          · exact (moves_stopWindow n s).trans (moves_moveTo _ _ _)
        · exact (moves_stopWindow n s).trans (moves_missMeter _ _ _)
      · exact (moves_stopWindow n s).trans (moves_missMeter _ _ _)
    · exact .refl

/-! ## Outcomes and closes -/

theorem moves_tamperNotice (n : Nat) (o : TamperOutcome) (c : BitVec 8) (k : Nat) (s : State) :
    Moves s (s.tamperNotice n o c k) := by
  unfold State.tamperNotice
  dsimp only
  split
  · exact (moves_requestNotice _ s).trans (moves_setFlag _ _)
  · exact moves_requestNotice _ s

theorem moves_enterVerify (n : Nat) (r : ReadingRec) (d m : Nat) (s : State) : Moves s (s.enterVerify n r d m) :=
  (((Moves.one (.entry s n _ (by simp [Entry.takeReading]))).trans (moves_moveTo _ _ _)).trans
    (moves_requestNotice _ _)).trans (moves_requestNotice _ _)

theorem moves_endConfirmation (n : Nat) (o : TamperOutcome) (c : BitVec 8) (k : Byte) (s : State) :
    Moves s (s.endConfirmation n o c k) := by
  unfold State.endConfirmation
  split
  · exact .refl
  · exact (((Moves.one (.entry s n _ (by simp))).trans (moves_moveTo _ _ _)).trans (moves_tamperNotice ..)).trans
      (moves_settleTest _)

theorem moves_endUnanswered (n : Nat) (b : Bool) (s : State) : Moves s (s.endUnanswered n b) := by
  unfold State.endUnanswered
  split
  · exact .refl
  · rename_i e _
    split
    · dsimp only
      have h0 : Moves s ((({ s with sched.confirms := s.sched.confirms.erase n } : State).stopWindow n).markHeard n) :=
        .trans (.trans (moves_dropConfirm n s) (moves_stopWindow n _)) (moves_markHeard n _)
      have h1 := h0.trans (moves_offerHeld (.confirm (s.unansweredRecord e)) _)
      split
      · rename_i t h
        rw [h] at h1
        split
        · exact h1.trans (moves_endConfirmation ..)
        · exact h1
      · rename_i h
        have h2 := h1
        rw [h] at h2
        exact h2.trans (moves_endConfirmation ..)
    · exact .refl

theorem moves_readingAppended (r : ReadingRec) (d : Nat) (fl : Bool) (m : Nat) (s : State) :
    Moves s (s.readingAppended r d fl m) := by
  unfold State.readingAppended
  split
  · dsimp only
    split
    · exact (moves_enterVerify ..).trans (moves_endUnanswered ..)
    · split
      · exact (moves_enterVerify ..).trans (moves_offerConfirm ..)
      · exact (moves_enterVerify ..).trans (moves_endUnanswered ..)
  · dsimp only
    have h : Moves s (((s.updEntry r.serial fun e => { e.takeReading r m with refStatus := r.status }).moveTo
        r.serial .read).requestNotice (.reading r d true)) :=
      ((Moves.one (.entry s _ _ (by simp [Entry.takeReading]))).trans (moves_moveTo _ _ _)).trans
        (moves_requestNotice _ _)
    split
    · exact (h.trans (moves_tamperNotice ..)).trans (moves_settleTest _)
    · exact h.trans (moves_settleTest _)

theorem moves_readingRefused (r : ReadingRec) (d : Nat) (s : State) : Moves s (s.readingRefused r d) := by
  unfold State.readingRefused
  split
  · exact (moves_requestNotice _ s).trans (moves_missMeter _ _ _)
  · exact (moves_moveTo _ _ s).trans (moves_requestNotice _ _)

theorem moves_confirmOutcome (r : ConfirmRec) (a : Bool) (s : State) : Moves s (s.confirmOutcome r a) := by
  unfold State.confirmOutcome
  split
  · exact moves_endConfirmation ..
  · exact .refl

theorem moves_orphanOutcome (ev : Evaluated) (a : Bool) (s : State) : Moves s (s.orphanOutcome ev a) := by
  unfold State.orphanOutcome
  split
  · dsimp only
    split
    · exact (moves_requestNotice _ s).trans (moves_tamperNotice ..)
    · exact moves_requestNotice _ s
  · exact moves_tamperNotice ..

theorem moves_outcome (ev : Evaluated) (a : Bool) (s : State) : Moves s (s.outcome ev a) := by
  unfold State.outcome
  split
  · split
    · exact moves_orphanOutcome ..
    · split
      · exact moves_readingAppended ..
      · exact moves_readingRefused ..
  · split
    · exact moves_orphanOutcome ..
    · exact moves_confirmOutcome ..

theorem moves_report (w : WaitEntry) (a : Bool) (s : State) : Moves s (s.report w a) := by
  unfold State.report
  split
  · exact .refl
  · exact moves_orphanOutcome ..
  · split
    · exact .refl
    · exact (moves_freeSlot _ s).trans (moves_outcome ..)

theorem moves_retryWaits (n : Nat) (s : State) : Moves s (s.retryWaits n) := by
  induction n generalizing s with
  | zero => exact .refl
  | succ n ih =>
    unfold State.retryWaits
    split
    · exact .refl
    · split
      · exact (moves_popWait s).trans (ih _)
      · split
        · exact (((moves_popWait s).trans (moves_refuseByState _)).trans (moves_report ..)).trans (ih _)
        · split
          · exact .refl
          · exact (((moves_popWait s).trans (moves_refuseForSpace _)).trans (moves_report ..)).trans (ih _)
          · rename_i h
            exact (((moves_popWait s).trans (moves_append _ _ h)).trans (moves_report ..)).trans (ih _)

theorem moves_retry (s : State) : Moves s s.retry := moves_retryWaits _ s

theorem moves_closeCand (n : Nat) (rc : Bool) (s : State) : Moves s (s.closeCand n rc) := by
  unfold State.closeCand
  split
  · rename_i c e _ _
    split
    · exact .refl
    · dsimp only
      have h1 := moves_offer (s.evaluate e c rc).record (.slot n) s
      split
      all_goals
        rename_i t h
        have h2 : Moves s t := by rw [h] at h1; exact h1
      · exact h2.trans (moves_updCand n _ (by simp) t)
      · exact (h2.trans (moves_freeSlot n t)).trans (moves_outcome ..)
      · exact (h2.trans (moves_freeSlot n t)).trans (moves_outcome ..)
  · exact .refl

theorem moves_confirmWindowEnded (n : Nat) (s : State) : Moves s (s.confirmWindowEnded n) := by
  unfold State.confirmWindowEnded
  split
  · exact .refl
  · split
    · dsimp only
      split
      · exact moves_stopWindow n s
      · split
        · exact (moves_stopWindow n s).trans (moves_offerConfirm ..)
        · exact (moves_stopWindow n s).trans (moves_endUnanswered ..)
    · exact .refl

end Sys2Proof.Machine
end

