-- ==== Sys2Proof/Laws/Frames.lean ====
section
/-!
SUPPORT. What a run of small changes leaves as it was (`Moves.<field>`).
-/

namespace Sys2Proof.Machine

/-- The state with everything that small changes may touch blanked out. -/
def State.blanked (s : State) : State :=
  { s with intake := s.intake.bare, link := s.link.bare, roster := { s.roster with entries := [], legs := Vector.replicate 256 .reset, missed := [] },
           pool := { s.pool with cands := [] }, journal := s.journal.bare,
           sched := { s.sched with openLeg := none, confirms := [], sweeps := [], tx := none, credit := 0 } }

theorem blanked_updEntry (n : Nat) (f : Entry → Entry) (s : State) : (s.updEntry n f).blanked = s.blanked := rfl

theorem blanked_placeEntry (n : Nat) (st : EntryState) (s : State) : (s.placeEntry n st).blanked = s.blanked := by
  unfold State.placeEntry
  split <;> rfl

theorem blanked_updLeg (l : Byte) (f : Leg → Leg) (s : State) : (s.updLeg l f).blanked = s.blanked := rfl

theorem blanked_moveTo (n : Nat) (st : EntryState) (s : State) : (s.moveTo n st).blanked = s.blanked := by
  unfold State.moveTo
  split
  · rfl
  · rw [blanked_updLeg, blanked_placeEntry]

theorem Micro.blanked {s t : State} (h : Micro s t) : t.blanked = s.blanked := by
  cases h with
  | link l h _ _ => simp only [State.blanked, h]
  | entry n f _ => exact blanked_updEntry n f s
  | move n st => exact blanked_moveTo n st s
  | sched q h _ _ =>
    simp only [Sched.settings, Prod.mk.injEq] at h
    simp [State.blanked, h]
  | journal j h _ _ => simp only [State.blanked, h]
  | pool p _ => rfl
  | intake k h => simp only [State.blanked, h]

/-- The blanked state is kept by a run of small changes. -/
theorem Moves.blanked {s t : State} (h : Moves s t) : t.blanked = s.blanked :=
  Moves.same State.blanked (fun _ _ h => h.blanked) h

section
variable {s t : State} (h : Moves s t)
include h

theorem Moves.asserted : t.asserted = s.asserted := by
  have e := congrArg (fun x : State => x.asserted) h.blanked
  exact e
theorem Moves.straps : t.straps = s.straps := by
  have e := congrArg (fun x : State => x.straps) h.blanked
  exact e
theorem Moves.runClock : t.runClock = s.runClock := by
  have e := congrArg (fun x : State => x.runClock) h.blanked
  exact e
theorem Moves.intake : t.intake.bare = s.intake.bare := by
  have e := congrArg (fun x : State => x.intake) h.blanked
  exact e
theorem Moves.flash : t.flash = s.flash := by
  have e := congrArg (fun x : State => x.flash) h.blanked
  exact e
theorem Moves.startup : t.startup = s.startup := by
  have e := congrArg (fun x : State => x.startup) h.blanked
  exact e
theorem Moves.upload : t.upload = s.upload := by
  have e := congrArg (fun x : State => x.upload) h.blanked
  exact e
theorem Moves.indicator : t.indicator = s.indicator := by
  have e := congrArg (fun x : State => x.indicator) h.blanked
  exact e
theorem Moves.pending : t.pending = s.pending := by
  have e := congrArg (fun x : State => x.pending) h.blanked
  exact e
theorem Moves.draws : t.draws = s.draws := by
  have e := congrArg (fun x : State => x.draws) h.blanked
  exact e
theorem Moves.rate : t.link.rate = s.link.rate := by
  have e := congrArg (fun x : State => x.link.rate) h.blanked
  exact e
theorem Moves.rx : t.link.rx = s.link.rx := by
  have e := congrArg (fun x : State => x.link.rx) h.blanked
  exact e
theorem Moves.gapLeft : t.link.gapLeft = s.link.gapLeft := by
  have e := congrArg (fun x : State => x.link.gapLeft) h.blanked
  exact e
theorem Moves.replies : t.link.replies = s.link.replies := by
  have e := congrArg (fun x : State => x.link.replies) h.blanked
  exact e
theorem Moves.sending : t.link.sending = s.link.sending := by
  have e := congrArg (fun x : State => x.link.sending) h.blanked
  exact e
theorem Moves.restarting : t.link.restarting = s.link.restarting := by
  have e := congrArg (fun x : State => x.link.restarting) h.blanked
  exact e
theorem Moves.mask : t.link.mask = s.link.mask := by
  have e := congrArg (fun x : State => x.link.mask) h.blanked
  exact e
theorem Moves.attention : t.link.attention = s.link.attention := by
  have e := congrArg (fun x : State => x.link.attention) h.blanked
  exact e
theorem Moves.classes : t.roster.classes = s.roster.classes := by
  have e := congrArg (fun x : State => x.roster.classes) h.blanked
  exact e
theorem Moves.phase : t.roster.phase = s.roster.phase := by
  have e := congrArg (fun x : State => x.roster.phase) h.blanked
  exact e
theorem Moves.routeId : t.roster.routeId = s.roster.routeId := by
  have e := congrArg (fun x : State => x.roster.routeId) h.blanked
  exact e
theorem Moves.announced : t.roster.announced = s.roster.announced := by
  have e := congrArg (fun x : State => x.roster.announced) h.blanked
  exact e
theorem Moves.staging : t.roster.staging = s.roster.staging := by
  have e := congrArg (fun x : State => x.roster.staging) h.blanked
  exact e
theorem Moves.routeClock : t.roster.routeClock = s.roster.routeClock := by
  have e := congrArg (fun x : State => x.roster.routeClock) h.blanked
  exact e
theorem Moves.routeMs : t.roster.routeMs = s.roster.routeMs := by
  have e := congrArg (fun x : State => x.roster.routeMs) h.blanked
  exact e
theorem Moves.rebuild : t.roster.rebuild = s.roster.rebuild := by
  have e := congrArg (fun x : State => x.roster.rebuild) h.blanked
  exact e
theorem Moves.capacity : t.sched.capacity = s.sched.capacity := by
  have e := congrArg (fun x : State => x.sched.capacity) h.blanked
  exact e
theorem Moves.refill : t.sched.refill = s.sched.refill := by
  have e := congrArg (fun x : State => x.sched.refill) h.blanked
  exact e
theorem Moves.refillLeft : t.sched.refillLeft = s.sched.refillLeft := by
  have e := congrArg (fun x : State => x.sched.refillLeft) h.blanked
  exact e
theorem Moves.wakeDur : t.sched.wakeDur = s.sched.wakeDur := by
  have e := congrArg (fun x : State => x.sched.wakeDur) h.blanked
  exact e
theorem Moves.replyWin : t.sched.replyWin = s.sched.replyWin := by
  have e := congrArg (fun x : State => x.sched.replyWin) h.blanked
  exact e
theorem Moves.size : t.journal.size = s.journal.size := by
  have e := congrArg (fun x : State => x.journal.size) h.blanked
  exact e
theorem Moves.progEnd : t.journal.progEnd = s.journal.progEnd := by
  have e := congrArg (fun x : State => x.journal.progEnd) h.blanked
  exact e
theorem Moves.total : t.journal.total = s.journal.total := by
  have e := congrArg (fun x : State => x.journal.total) h.blanked
  exact e
theorem Moves.delivered : t.journal.delivered = s.journal.delivered := by
  have e := congrArg (fun x : State => x.journal.delivered) h.blanked
  exact e
theorem Moves.pointer : t.journal.pointer = s.journal.pointer := by
  have e := congrArg (fun x : State => x.journal.pointer) h.blanked
  exact e
theorem Moves.newestEnd : t.journal.newestEnd = s.journal.newestEnd := by
  have e := congrArg (fun x : State => x.journal.newestEnd) h.blanked
  exact e
theorem Moves.capture : t.journal.capture = s.journal.capture := by
  have e := congrArg (fun x : State => x.journal.capture) h.blanked
  exact e
theorem Moves.lastOp : t.journal.lastOp = s.journal.lastOp := by
  have e := congrArg (fun x : State => x.journal.lastOp) h.blanked
  exact e
theorem Moves.lastResult : t.journal.lastResult = s.journal.lastResult := by
  have e := congrArg (fun x : State => x.journal.lastResult) h.blanked
  exact e
theorem Moves.erasing : t.journal.erasing = s.journal.erasing := by
  have e := congrArg (fun x : State => x.journal.erasing) h.blanked
  exact e
theorem Moves.holdTime : t.pool.holdTime = s.pool.holdTime := by
  have e := congrArg (fun x : State => x.pool.holdTime) h.blanked
  exact e
end

/-! ## The loaded parts, the leg settings and the bounds -/

theorem loaded_updEntry (n : Nat) (f : Entry → Entry) (hf : ∀ e, (f e).loaded = e.loaded) (s : State) :
    (s.updEntry n f).roster.entries.map Entry.loaded = s.roster.entries.map Entry.loaded := by
  simp only [State.updEntry, List.map_map]
  refine List.map_congr_left fun e _ => ?_
  simp only [Function.comp_apply]
  split <;> simp [hf]

theorem loaded_placeEntry (n : Nat) (st : EntryState) (s : State) :
    (s.placeEntry n st).roster.entries.map Entry.loaded = s.roster.entries.map Entry.loaded := by
  unfold State.placeEntry
  split
  · rfl
  · exact loaded_updEntry n _ (by simp) s

theorem loaded_moveTo (n : Nat) (st : EntryState) (s : State) :
    (s.moveTo n st).roster.entries.map Entry.loaded = s.roster.entries.map Entry.loaded := by
  unfold State.moveTo
  split
  · rfl
  · exact loaded_placeEntry n st s

/-- The loaded parts of the entries stay. -/
theorem Moves.loaded {s t : State} (h : Moves s t) :
    t.roster.entries.map Entry.loaded = s.roster.entries.map Entry.loaded := by
  refine Moves.same (fun s : State => s.roster.entries.map Entry.loaded) (fun s t h => ?_) h
  cases h with
  | entry n f hf => exact loaded_updEntry n f (fun e => (hf e).1) s
  | move n st => exact loaded_moveTo n st s
  | link => rfl
  | sched => rfl
  | journal => rfl
  | pool => rfl
  | intake => rfl

/-- A leg apart from its counts. -/
def Leg.plain (k : Leg) : Leg := { k with counts := .zero }

theorem plain_updLeg (l : Byte) (f : Leg → Leg) (hf : ∀ k, (f k).plain = k.plain) (s : State) :
    (s.updLeg l f).roster.legs.map Leg.plain = s.roster.legs.map Leg.plain := by
  ext1 i hi
  simp only [State.updLeg, State.leg, Vector.getElem_map, Vector.getElem_set]
  split
  · rename_i h; subst h; exact hf _
  · rfl

theorem placeEntry_legs (n : Nat) (st : EntryState) (s : State) : (s.placeEntry n st).roster.legs = s.roster.legs := by
  unfold State.placeEntry
  split <;> rfl

/-- A leg's pass code, budget and state stay. -/
theorem Moves.legs {s t : State} (h : Moves s t) : t.roster.legs.map Leg.plain = s.roster.legs.map Leg.plain := by
  refine Moves.same (fun s : State => s.roster.legs.map Leg.plain) (fun s t h => ?_) h
  cases h with
  | entry n f hf => rfl
  | move n st =>
    unfold State.moveTo
    split
    · rfl
    · rw [plain_updLeg _ _ (by intro k; rfl), placeEntry_legs]
  | link => rfl
  | sched => rfl
  | journal => rfl
  | pool => rfl
  | intake => rfl

/-- The duty credit never rises. -/
theorem Moves.credit {s t : State} (h : Moves s t) : t.sched.credit ≤ s.sched.credit := by
  refine Moves.keeps (P := fun t => t.sched.credit ≤ s.sched.credit) (fun a b h ha => ?_) h le_rfl
  cases h with
  | entry => exact ha
  | move n st => simpa using ha
  | link => exact ha
  | sched q _ hc _ => exact hc.trans ha
  | journal => exact ha
  | pool => exact ha
  | intake => exact ha

/-- A flag that is set stays set. -/
theorem Moves.flags {s t : State} (h : Moves s t) : t.link.flags &&& s.link.flags = s.link.flags := by
  refine Moves.keeps (P := fun t => t.link.flags &&& s.link.flags = s.link.flags) (fun a b h ha => ?_) h BitVec.and_self
  cases h with
  | link l _ _ hf =>
    dsimp only
    rw [← ha, ← hf]
    ext i
    simp only [BitVec.getElem_and]
    cases l.flags[i] <;> cases a.link.flags[i] <;> simp
  | entry => exact ha
  | move n st =>
    have : (a.moveTo n st).link.flags = a.link.flags := by
      unfold State.moveTo State.placeEntry
      cases a.entry? n <;> rfl
    rw [this]; exact ha
  | sched => exact ha
  | journal => exact ha
  | pool => exact ha
  | intake => exact ha

end Sys2Proof.Machine
end

