-- ==== Sys2Proof/Laws/Commands.lean ====
section
/-!
SUPPORT. What carrying out a command can touch: `outer_<command>`, and `outer_carryOut` for all of them.
-/

namespace Sys2Proof.Machine

/-- The part of the state that no command's own effect touches, the rest blanked out: the pins, the clock, start-up, the
command queue, the draws, the store, and of the link the rate, the receiver, the replies and the frame being sent. -/
def State.outer (s : State) : State :=
  { s with intake := { lanes := Vector.replicate 4 .reset, forwarding := false }, roster := .reset,
           pool := { cands := [], holdTime := 0 }, sched := .reset, journal := .reset, upload := .idle,
           flash := { s.flash with port := none, waiting := [] },
           link := { s.link with restarting := false, notices := [], flags := 0, mask := 0, counters := .zero } }

theorem Moves.outer {s t : State} (h : Moves s t) : t.outer = s.outer := by
  have e := congrArg State.outer h.blanked
  exact e

theorem outer_requestFlash (r : FlashReq) (s : State) : (s.requestFlash r).outer = s.outer := rfl

theorem outer_chooseBatch (s : State) : s.chooseBatch.outer = s.outer := by
  unfold State.chooseBatch
  split
  · rfl
  · split
    · rfl
    · split <;> rfl

theorem outer_nextErase (s : State) : s.nextErase.outer = s.outer := by
  unfold State.nextErase
  split <;> rfl

theorem outer_foldl {α : Type} (f : State → α → State) (hf : ∀ t a, (f t a).outer = t.outer) (as : List α)
    (s : State) : (as.foldl f s).outer = s.outer := by
  induction as generalizing s with
  | nil => rfl
  | cons a as ih => rw [List.foldl_cons, ih, hf]

/-! ## The link controller -/

theorem outer_identify (b : List Byte) (s : State) : (s.doIdentify b).2.2.outer = s.outer := by
  unfold State.doIdentify; split <;> rfl

theorem outer_restart (b : List Byte) (s : State) : (s.doRestart b).2.2.outer = s.outer := by
  unfold State.doRestart; split <;> rfl

theorem outer_radioSet (b : List Byte) (s : State) : (s.doRadioSet b).2.2.outer = s.outer := by
  unfold State.doRadioSet
  split
  · rfl
  · exact (moves_offerLane _).outer

theorem outer_flagsRead (b : List Byte) (s : State) : (s.doFlagsRead b).2.2.outer = s.outer := by
  unfold State.doFlagsRead; split <;> rfl

theorem outer_flagsClear (b : List Byte) (s : State) : (s.doFlagsClear b).2.2.outer = s.outer := by
  unfold State.doFlagsClear
  split
  · rfl
  · split <;> rfl

theorem outer_flagsMask (b : List Byte) (s : State) : (s.doFlagsMask b).2.2.outer = s.outer := by
  unfold State.doFlagsMask; split <;> rfl

theorem outer_countersRead (b : List Byte) (s : State) : (s.doCountersRead b).2.2.outer = s.outer := by
  unfold State.doCountersRead
  split
  · rfl
  · dsimp only; split <;> rfl

/-! ## The roster -/

theorem outer_classWrite (b : List Byte) (s : State) : (s.doClassWrite b).2.2.outer = s.outer := by
  unfold State.doClassWrite; split <;> rfl

theorem outer_legWrite (b : List Byte) (s : State) : (s.doLegWrite b).2.2.outer = s.outer := by
  unfold State.doLegWrite
  split
  · rfl
  · refine outer_foldl _ ?_ _ s
    exact fun _ _ => rfl

theorem outer_rosterBegin (b : List Byte) (s : State) : (s.doRosterBegin b).2.2.outer = s.outer := by
  unfold State.doRosterBegin; split <;> rfl

theorem outer_rosterLoad (b : List Byte) (s : State) : (s.doRosterLoad b).2.2.outer = s.outer := by
  unfold State.doRosterLoad
  split
  · rfl
  · split
    · rfl
    · split <;> rfl

theorem outer_rosterCommit (b : List Byte) (s : State) : (s.doRosterCommit b).2.2.outer = s.outer := by
  unfold State.doRosterCommit
  split
  · rfl
  · split
    · rfl
    · split <;> rfl

/-- An entry's move by R23 is a run of small changes. -/
theorem moves_moveExcluded (e : Entry) (a : Attrs) (s : State) : Moves s (s.moveExcluded e a) := by
  unfold State.moveExcluded
  dsimp only
  split
  · split
    · exact (moves_moveTo _ _ s).trans (moves_settleTest _)
    · exact moves_moveTo _ _ s
    · exact .refl
  · split
    · split <;> exact moves_moveTo _ _ s
    · exact .refl

/-- One set of ROSTER EDIT is a run of small changes. -/
theorem moves_editOne (m : EditMode) (n : Nat) (a : Attrs) (s : State) : Moves s (s.editOne m n a) := by
  unfold State.editOne
  split
  · exact .refl
  · exact .trans (Moves.one (.entry s n _ (by simp))) (moves_moveExcluded ..)

theorem moves_rosterEdit (b : List Byte) (s : State) : Moves s (s.doRosterEdit b).2.2 := by
  unfold State.doRosterEdit
  split
  · exact .refl
  · split
    · exact moves_foldl _ (fun t w => moves_editOne _ _ _ t) _ s
    · exact .refl

theorem outer_rosterQuery (b : List Byte) (s : State) : (s.doRosterQuery b).2.2.outer = s.outer := by
  unfold State.doRosterQuery
  split
  · rfl
  · split <;> rfl

theorem outer_missedRead (b : List Byte) (s : State) : (s.doMissedRead b).2.2.outer = s.outer := by
  unfold State.doMissedRead; split <;> rfl

theorem outer_rosterDiscard (b : List Byte) (s : State) : (s.doRosterDiscard b).2.2.outer = s.outer := by
  unfold State.doRosterDiscard; split <;> rfl

/-! ## The legs -/

theorem moves_returnMissed (l : Byte) (s : State) : Moves s (s.returnMissed l) :=
  moves_foldl _ (fun t _ => moves_moveTo _ _ t) _ s

theorem moves_afterOpening (s : State) : Moves s s.afterOpening :=
  .trans (.trans (moves_scan s) (moves_settleTest _)) (moves_offerLane _)

theorem outer_openedLeg (l : Byte) (s : State) : (s.openedLeg l).outer = s.outer := by
  have h := (moves_returnMissed l (s.openRecord l)).outer
  exact h

theorem outer_legOpen (b : List Byte) (s : State) : (s.doLegOpen b).2.2.outer = s.outer := by
  unfold State.doLegOpen
  split
  · rfl
  · split
    · rfl
    · rw [(moves_afterOpening _).outer, outer_openedLeg]

theorem moves_missWaiting (n : Nat) (r : MissReason) (s : State) : Moves s (s.missWaiting n r) := by
  refine .trans ?_ (moves_missMeter _ _ _)
  refine moves_sched s _ rfl le_rfl ?_
  simp only [Sched.queued]
  have h := (List.erase_sublist (a := n) (l := s.sched.sweeps)).length_le
  omega

theorem moves_missLeg (l : Byte) (s : State) : Moves s (s.missLeg l) :=
  moves_foldl _ (fun t _ => moves_missWaiting _ _ t) _ s

theorem moves_endConfirmations (p : Entry → Bool) (f : Bool) (s : State) : Moves s (s.endConfirmations p f) :=
  moves_foldl _ (fun t _ => moves_endUnanswered _ _ t) _ s

theorem moves_afterClosing (l : Byte) (s : State) : Moves s (s.afterClosing l) :=
  .trans (moves_sealOpen s) (moves_requestNotice _ _)

/-- Steps 2 to 5 of R114 are a run of small changes after step 1. -/
theorem moves_closedLeg (l : Byte) (f : Bool) (s : State) : Moves (s.passOpenLeg l) (s.closedLeg l f) :=
  .trans (moves_missLeg l _) (moves_endConfirmations _ f _)

theorem outer_legClosed (l : Byte) (f : Bool) (s : State) : ((s.closedLeg l f).afterClosing l).outer = s.outer := by
  rw [(moves_afterClosing l _).outer, (moves_closedLeg l f s).outer]
  rfl

theorem outer_legClose (b : List Byte) (s : State) : (s.doLegClose b).2.2.outer = s.outer := by
  unfold State.doLegClose
  split
  · rfl
  · split
    · exact outer_legClosed _ false s
    · rfl

theorem outer_legStatus (b : List Byte) (s : State) : (s.doLegStatus b).2.2.outer = s.outer := by
  unfold State.doLegStatus; split <;> rfl

theorem moves_forceCloseAll (s : State) : Moves s s.forceCloseAll :=
  moves_foldl _ (fun t _ => .trans (moves_countForcedClose t) (moves_closeCand _ _ _)) _ s

theorem moves_missRoute (s : State) : Moves s s.missRoute :=
  moves_foldl _ (fun t _ => moves_missWaiting _ _ t) _ s

theorem outer_closeOpenLeg (s : State) : s.closeOpenLeg.outer = s.outer := by
  unfold State.closeOpenLeg
  split
  · rfl
  · exact outer_legClosed _ true s

theorem outer_passRoute (s : State) : s.passRoute.outer = s.outer := by
  have h := (moves_sealOpen { s with roster.legs := s.roster.legs.map fun k => { k with st := .passed } }).outer
  exact h

theorem outer_routeClose (b : List Byte) (s : State) : (s.doRouteClose b).2.2.outer = s.outer := by
  unfold State.doRouteClose
  split
  · rfl
  · rw [outer_passRoute, (moves_endConfirmations _ _ _).outer, (moves_missRoute _).outer, outer_closeOpenLeg,
      (moves_forceCloseAll s).outer]

/-! ## The journal and the upload -/

theorem outer_journalStatus (b : List Byte) (s : State) : (s.doJournalStatus b).2.2.outer = s.outer := by
  unfold State.doJournalStatus; split <;> rfl

theorem outer_batchSeal (b : List Byte) (s : State) : (s.doBatchSeal b).2.2.outer = s.outer := by
  unfold State.doBatchSeal
  split
  · rfl
  · exact (moves_sealOpen s).outer

theorem outer_journalClear (b : List Byte) (s : State) : (s.doJournalClear b).2.2.outer = s.outer := by
  unfold State.doJournalClear
  split
  · rfl
  · split
    · rfl
    · split
      · exact outer_nextErase _
      · rfl

theorem outer_startUpload (s : State) : s.startUpload.outer = s.outer := by
  unfold State.startUpload
  rw [outer_chooseBatch]
  have h := (moves_sealOpen s).outer
  exact h

theorem outer_uploadStart (b : List Byte) (s : State) : (s.doUploadStart b).2.2.outer = s.outer := by
  unfold State.doUploadStart
  split
  · rfl
  · split
    · rfl
    · exact outer_startUpload s

theorem outer_mismatched (k : BatchInfo) (s : State) : (s.mismatched k).outer = s.outer := by
  unfold State.mismatched
  dsimp only
  split <;> rfl

theorem outer_batchReceived (b : List Byte) (s : State) : (s.doBatchReceived b).2.2.outer = s.outer := by
  unfold State.doBatchReceived
  split
  · split
    · rfl
    · split
      · rfl
      · split
        · rfl
        · exact outer_mismatched _ s
  · rfl

theorem outer_uploadStop (b : List Byte) (s : State) : (s.doUploadStop b).2.2.outer = s.outer := by
  unfold State.doUploadStop; split <;> rfl

/-! ## All of them -/

/-- No command's own effect touches the outer part (R168 to R171). -/
theorem outer_carryOut (c : Cmd) (b : List Byte) (s : State) : (s.carryOut c b).2.2.outer = s.outer := by
  cases c
  case identify => exact outer_identify b s
  case restart => exact outer_restart b s
  case radioSet => exact outer_radioSet b s
  case flagsRead => exact outer_flagsRead b s
  case flagsClear => exact outer_flagsClear b s
  case flagsMask => exact outer_flagsMask b s
  case countersRead => exact outer_countersRead b s
  case classWrite => exact outer_classWrite b s
  case legWrite => exact outer_legWrite b s
  case rosterBegin => exact outer_rosterBegin b s
  case rosterLoad => exact outer_rosterLoad b s
  case rosterCommit => exact outer_rosterCommit b s
  case rosterEdit => exact (moves_rosterEdit b s).outer
  case rosterQuery => exact outer_rosterQuery b s
  case rosterDiscard => exact outer_rosterDiscard b s
  case missedRead => exact outer_missedRead b s
  case legOpen => exact outer_legOpen b s
  case legClose => exact outer_legClose b s
  case legStatus => exact outer_legStatus b s
  case routeClose => exact outer_routeClose b s
  case journalStatus => exact outer_journalStatus b s
  case batchSeal => exact outer_batchSeal b s
  case journalClear => exact outer_journalClear b s
  case uploadStart => exact outer_uploadStart b s
  case batchReceived => exact outer_batchReceived b s
  case uploadStop => exact outer_uploadStop b s

theorem outer_checkCommand (c : Cmd) (b : List Byte) (s : State) : (s.checkCommand c b).2.2.outer = s.outer := by
  unfold State.checkCommand
  split
  · rfl
  · split
    · rfl
    · exact outer_carryOut c b s

/-- The replies after a command's check and effect are those before. -/
theorem checkCommand_replies (c : Cmd) (b : List Byte) (s : State) :
    (s.checkCommand c b).2.2.link.replies = s.link.replies := by
  have e := congrArg (fun x : State => x.link.replies) (outer_checkCommand c b s)
  exact e

theorem checkCommand_sending (c : Cmd) (b : List Byte) (s : State) :
    (s.checkCommand c b).2.2.link.sending = s.link.sending := by
  have e := congrArg (fun x : State => x.link.sending) (outer_checkCommand c b s)
  exact e

theorem checkCommand_store (c : Cmd) (b : List Byte) (s : State) :
    (s.checkCommand c b).2.2.flash.store = s.flash.store := by
  have e := congrArg (fun x : State => x.flash.store) (outer_checkCommand c b s)
  exact e

theorem checkCommand_asserted (c : Cmd) (b : List Byte) (s : State) :
    (s.checkCommand c b).2.2.asserted = s.asserted := by
  have e := congrArg (fun x : State => x.asserted) (outer_checkCommand c b s)
  exact e

theorem checkCommand_pending (c : Cmd) (b : List Byte) (s : State) :
    (s.checkCommand c b).2.2.pending = s.pending := by
  have e := congrArg (fun x : State => x.pending) (outer_checkCommand c b s)
  exact e

end Sys2Proof.Machine
end

