-- ==== Sys2Proof/Laws/Finish.lean ====
section
/-!
SUPPORT. What the end of a step can do (State.finish): it moves one frame out, asks for programs and issues one flash
operation, and decides the two lines; everything else stays.
-/

namespace Sys2Proof.Machine

theorem kept_requestFlash (s : State) (r : FlashReq) : (s.requestFlash r).kept = s.kept := rfl

theorem kept_requestData (s : State) : s.requestData.kept = s.kept := by
  unfold State.requestData
  split
  · rfl
  · exact kept_requestFlash _ _

theorem kept_buildTail (s : State) : s.buildTail.kept = s.kept := by
  unfold State.buildTail
  split <;> rfl

theorem kept_afterUploadTaken (s : State) (f : UploadFrame) : (s.afterUploadTaken f).kept = s.kept := by
  unfold State.afterUploadTaken
  split
  · rfl
  · split
    · rfl
    · split
      · exact kept_buildTail s
      · exact kept_requestData s

theorem kept_arbitrate (s : State) : s.arbitrate.kept = s.kept := by
  unfold State.arbitrate
  split
  · rfl
  · rename_i h
    split
    · rename_i r rs hr
      simp [State.kept, State.repliesOut, State.noticesOut, h, hr]
    · rename_i hr
      split
      · rw [kept_afterUploadTaken]
        simp [State.kept, State.repliesOut, State.noticesOut, h]
      · split
        · rename_i hn
          simp [State.kept, State.repliesOut, State.noticesOut, h, hn]
        · rfl

theorem kept_requestPage (s : State) : s.requestPage.kept = s.kept := by
  unfold State.requestPage
  split <;> rfl

theorem kept_requestIndex (s : State) : s.requestIndex.kept = s.kept := by
  unfold State.requestIndex
  split
  · rfl
  · rename_i b rest h
    split
    · rfl
    · simp [State.kept, State.requestFlash, State.repliesOut, State.noticesOut, h, SealedBatch.plain]

theorem kept_issue (s : State) : s.issue.kept = s.kept := by
  unfold State.issue
  split
  · rfl
  · split <;> rfl

theorem kept_refreshLines (s : State) : s.refreshLines.kept = s.kept := rfl

/-- The end of a step keeps all of `kept`. -/
theorem kept_finish (s : State) : s.finish.kept = s.kept := by
  rw [State.finish, kept_refreshLines, kept_issue, kept_requestIndex, kept_requestPage, kept_arbitrate]

section
variable (s : State)

@[simp] theorem finish_asserted : s.finish.asserted = s.asserted := congrArg Kept.asserted (kept_finish s)
@[simp] theorem finish_straps : s.finish.straps = s.straps := congrArg Kept.straps (kept_finish s)
@[simp] theorem finish_runClock : s.finish.runClock = s.runClock := congrArg Kept.runClock (kept_finish s)
@[simp] theorem finish_intake : s.finish.intake = s.intake := congrArg Kept.intake (kept_finish s)
@[simp] theorem finish_roster : s.finish.roster = s.roster := congrArg Kept.roster (kept_finish s)
@[simp] theorem finish_pool : s.finish.pool = s.pool := congrArg Kept.pool (kept_finish s)
@[simp] theorem finish_sched : s.finish.sched = s.sched := congrArg Kept.sched (kept_finish s)
@[simp] theorem finish_store : s.finish.flash.store = s.flash.store := congrArg Kept.store (kept_finish s)
@[simp] theorem finish_unfinished : s.finish.flash.unfinished = s.flash.unfinished :=
  congrArg Kept.unfinished (kept_finish s)
@[simp] theorem finish_startup : s.finish.startup = s.startup := congrArg Kept.startup (kept_finish s)
@[simp] theorem finish_rate : s.finish.link.rate = s.link.rate := congrArg Kept.rate (kept_finish s)
@[simp] theorem finish_rx : s.finish.link.rx = s.link.rx := congrArg Kept.rx (kept_finish s)
@[simp] theorem finish_gapLeft : s.finish.link.gapLeft = s.link.gapLeft := congrArg Kept.gapLeft (kept_finish s)
@[simp] theorem finish_repliesOut : s.finish.repliesOut = s.repliesOut := congrArg Kept.replies (kept_finish s)
@[simp] theorem finish_restarting : s.finish.link.restarting = s.link.restarting :=
  congrArg Kept.restarting (kept_finish s)
@[simp] theorem finish_noticesOut : s.finish.noticesOut = s.noticesOut := congrArg Kept.notices (kept_finish s)
@[simp] theorem finish_flags : s.finish.link.flags = s.link.flags := congrArg Kept.flags (kept_finish s)
@[simp] theorem finish_mask : s.finish.link.mask = s.link.mask := congrArg Kept.mask (kept_finish s)
@[simp] theorem finish_counters : s.finish.link.counters = s.link.counters := congrArg Kept.counters (kept_finish s)
@[simp] theorem finish_pending : s.finish.pending = s.pending := congrArg Kept.pending (kept_finish s)
@[simp] theorem finish_draws : s.finish.draws = s.draws := congrArg Kept.draws (kept_finish s)
theorem finish_seals : s.finish.journal.seals.map SealedBatch.plain = s.journal.seals.map SealedBatch.plain :=
  congrArg Kept.seals (kept_finish s)
@[simp] theorem finish_journal_st : s.finish.journal.st = s.journal.st :=
  congrArg (fun k : Kept => k.journal.st) (kept_finish s)
@[simp] theorem finish_journal_size : s.finish.journal.size = s.journal.size :=
  congrArg (fun k : Kept => k.journal.size) (kept_finish s)
@[simp] theorem finish_journal_recordEnd : s.finish.journal.recordEnd = s.journal.recordEnd :=
  congrArg (fun k : Kept => k.journal.recordEnd) (kept_finish s)
@[simp] theorem finish_journal_indexStart : s.finish.journal.indexStart = s.journal.indexStart :=
  congrArg (fun k : Kept => k.journal.indexStart) (kept_finish s)
@[simp] theorem finish_journal_progEnd : s.finish.journal.progEnd = s.journal.progEnd :=
  congrArg (fun k : Kept => k.journal.progEnd) (kept_finish s)
@[simp] theorem finish_journal_total : s.finish.journal.total = s.journal.total :=
  congrArg (fun k : Kept => k.journal.total) (kept_finish s)
@[simp] theorem finish_journal_delivered : s.finish.journal.delivered = s.journal.delivered :=
  congrArg (fun k : Kept => k.journal.delivered) (kept_finish s)
@[simp] theorem finish_journal_nextBatch : s.finish.journal.nextBatch = s.journal.nextBatch :=
  congrArg (fun k : Kept => k.journal.nextBatch) (kept_finish s)
@[simp] theorem finish_journal_pointer : s.finish.journal.pointer = s.journal.pointer :=
  congrArg (fun k : Kept => k.journal.pointer) (kept_finish s)
@[simp] theorem finish_journal_newestEnd : s.finish.journal.newestEnd = s.journal.newestEnd :=
  congrArg (fun k : Kept => k.journal.newestEnd) (kept_finish s)
@[simp] theorem finish_journal_openBatch : s.finish.journal.openBatch = s.journal.openBatch :=
  congrArg (fun k : Kept => k.journal.openBatch) (kept_finish s)
@[simp] theorem finish_journal_buffer : s.finish.journal.buffer = s.journal.buffer :=
  congrArg (fun k : Kept => k.journal.buffer) (kept_finish s)
@[simp] theorem finish_journal_waits : s.finish.journal.waits = s.journal.waits :=
  congrArg (fun k : Kept => k.journal.waits) (kept_finish s)
@[simp] theorem finish_journal_capture : s.finish.journal.capture = s.journal.capture :=
  congrArg (fun k : Kept => k.journal.capture) (kept_finish s)
@[simp] theorem finish_journal_lastOp : s.finish.journal.lastOp = s.journal.lastOp :=
  congrArg (fun k : Kept => k.journal.lastOp) (kept_finish s)
@[simp] theorem finish_journal_lastResult : s.finish.journal.lastResult = s.journal.lastResult :=
  congrArg (fun k : Kept => k.journal.lastResult) (kept_finish s)
@[simp] theorem finish_journal_erasing : s.finish.journal.erasing = s.journal.erasing :=
  congrArg (fun k : Kept => k.journal.erasing) (kept_finish s)
@[simp] theorem finish_upload_st : s.finish.upload.st = s.upload.st :=
  congrArg (fun k : Kept => k.upload.st) (kept_finish s)
@[simp] theorem finish_upload_stage : s.finish.upload.stage = s.upload.stage :=
  congrArg (fun k : Kept => k.upload.stage) (kept_finish s)
@[simp] theorem finish_upload_stall : s.finish.upload.stall = s.upload.stall :=
  congrArg (fun k : Kept => k.upload.stall) (kept_finish s)
@[simp] theorem finish_upload_batch : s.finish.upload.batch = s.upload.batch :=
  congrArg (fun k : Kept => k.upload.batch) (kept_finish s)
@[simp] theorem finish_upload_slot : s.finish.upload.slot = s.upload.slot :=
  congrArg (fun k : Kept => k.upload.slot) (kept_finish s)
@[simp] theorem finish_upload_sendOffset : s.finish.upload.sendOffset = s.upload.sendOffset :=
  congrArg (fun k : Kept => k.upload.sendOffset) (kept_finish s)
@[simp] theorem finish_upload_runCrc : s.finish.upload.runCrc = s.upload.runCrc :=
  congrArg (fun k : Kept => k.upload.runCrc) (kept_finish s)
@[simp] theorem finish_upload_mismatches : s.finish.upload.mismatches = s.upload.mismatches :=
  congrArg (fun k : Kept => k.upload.mismatches) (kept_finish s)
@[simp] theorem finish_upload_ackLeft : s.finish.upload.ackLeft = s.upload.ackLeft :=
  congrArg (fun k : Kept => k.upload.ackLeft) (kept_finish s)
@[simp] theorem finish_attention : s.finish.link.attention = s.finish.attentionLevel := rfl
@[simp] theorem finish_indicator : s.finish.indicator = s.finish.indicatorCode := rfl
end

end Sys2Proof.Machine
end

