-- ==== Sys2Proof/Laws/Memory.lean ====
section
/-!
SUPPORT. The laws of the store: a read after a write gives the byte written, a write leaves every other address alone,
and every operation keeps the canonical form.
-/

namespace Sys2Proof.Machine.Memory

theorem read1_lt {m : List Host.Cell} {a : Nat} (h : ∀ c ∈ m, a < c.1) : read1 m a = blank := by
  induction m with
  | nil => rfl
  | cons c m ih =>
    have hc := h c (by simp)
    rw [read1, if_neg (by omega), ih fun d hd => h d (by simp [hd])]

theorem wf_nil : wf [] := ⟨.nil, by simp⟩

theorem wf_cons {c : Host.Cell} {m : List Host.Cell} : wf (c :: m) ↔ (∀ d ∈ m, c.1 < d.1) ∧ c.2 ≠ blank ∧ wf m := by
  simp only [wf, List.pairwise_cons, List.mem_cons, forall_eq_or_imp]
  tauto

/-- Every address a write leaves in the store was there before, or is the one written. -/
theorem mem_write1 {m : List Host.Cell} {a : Nat} {v : Byte} {d : Host.Cell} (h : d ∈ write1 m a v) :
    d ∈ m ∨ d = (a, v) := by
  induction m with
  | nil =>
    simp only [write1] at h
    split at h
    · simp at h
    · simpa using h
  | cons c m ih =>
    simp only [write1] at h
    split at h
    · split at h
      · exact .inl h
      · simp only [List.mem_cons] at h ⊢
        tauto
    · split at h
      · split at h
        · exact .inl (by simp [h])
        · simp only [List.mem_cons] at h ⊢
          tauto
      · simp only [List.mem_cons] at h ⊢
        rcases h with h | h
        · exact .inl (.inl h)
        · have := ih h
          tauto

/-- A write keeps the canonical form. -/
theorem wf_write1 {m : List Host.Cell} (h : wf m) (a : Nat) (v : Byte) : wf (write1 m a v) := by
  induction m with
  | nil =>
    simp only [write1]
    split
    · exact h
    · exact wf_cons.mpr ⟨by simp, ‹_›, h⟩
  | cons c m ih =>
    obtain ⟨h1, h2, h3⟩ := wf_cons.mp h
    simp only [write1]
    split
    · split
      · exact h
      · refine wf_cons.mpr ⟨fun d hd => ?_, ‹_›, h⟩
        rcases List.mem_cons.mp hd with rfl | hd
        · assumption
        · exact lt_trans ‹_› (h1 d hd)
    · split
      · rename_i he
        split
        · exact h3
        · exact wf_cons.mpr ⟨fun d hd => by subst he; exact h1 d hd, ‹_›, h3⟩
      · refine wf_cons.mpr ⟨fun d hd => ?_, h2, ih h3⟩
        rcases mem_write1 hd with hd | rfl
        · exact h1 d hd
        · dsimp only; omega

/-- A read of the address written gives the byte written. -/
theorem read1_write1_same {m : List Host.Cell} (h : wf m) (a : Nat) (v : Byte) : read1 (write1 m a v) a = v := by
  induction m with
  | nil =>
    simp only [write1]
    split
    · rename_i hv; rw [hv]; rfl
    · simp [read1]
  | cons c m ih =>
    obtain ⟨h1, h2, h3⟩ := wf_cons.mp h
    simp only [write1]
    split
    · split
      · rename_i hv
        rw [hv]
        refine read1_lt fun d hd => ?_
        rcases List.mem_cons.mp hd with rfl | hd
        · assumption
        · exact lt_trans ‹_› (h1 d hd)
      · simp [read1]
    · split
      · rename_i he
        split
        · rename_i hv
          rw [hv]
          exact read1_lt fun d hd => by subst he; exact h1 d hd
        · simp [read1]
      · rw [read1, if_neg (by omega), ih h3]

/-- A write leaves every other address alone. -/
theorem read1_write1_other {m : List Host.Cell} {a b : Nat} (v : Byte) (h : b ≠ a) :
    read1 (write1 m a v) b = read1 m b := by
  induction m with
  | nil =>
    simp only [write1]
    split
    · rfl
    · simp [read1, h.symm]
  | cons c m ih =>
    simp only [write1]
    split
    · split
      · rfl
      · rw [read1, if_neg (by simpa using h.symm)]
    · split
      · rename_i he
        split
        · rw [read1, if_neg (by omega)]
        · rw [read1, if_neg (by simpa using h.symm), read1, if_neg (by omega)]
      · rw [read1, ih, read1]

theorem wf_program {m : List Host.Cell} (h : wf m) (a : Nat) (bs : List Byte) : wf (program m a bs) := by
  induction bs generalizing m a with
  | nil => exact h
  | cons b bs ih => exact ih (wf_write1 h _ _) _

theorem wf_overlay {m : List Host.Cell} (h : wf m) (a : Nat) (bs : List Byte) : wf (overlay m a bs) := by
  induction bs generalizing m a with
  | nil => exact h
  | cons b bs ih => exact ih (wf_write1 h _ _) _

theorem wf_eraseSector {m : List Host.Cell} (h : wf m) (k : Nat) : wf (eraseSector m k) :=
  ⟨h.1.sublist List.filter_sublist, fun c hc => h.2 c (List.mem_of_mem_filter hc)⟩

theorem read1_program_other {m : List Host.Cell} {a b : Nat} {bs : List Byte} (h : b < a ∨ a + bs.length ≤ b) :
    read1 (program m a bs) b = read1 m b := by
  induction bs generalizing m a with
  | nil => rfl
  | cons x xs ih =>
    simp only [List.length_cons] at h
    rw [program, ih (by omega), read1_write1_other _ (by omega)]

theorem read1_overlay_other {m : List Host.Cell} {a b : Nat} {bs : List Byte} (h : b < a ∨ a + bs.length ≤ b) :
    read1 (overlay m a bs) b = read1 m b := by
  induction bs generalizing m a with
  | nil => rfl
  | cons x xs ih =>
    simp only [List.length_cons] at h
    rw [overlay, ih (by omega), read1_write1_other _ (by omega)]

theorem read1_eraseSector (m : List Host.Cell) (k a : Nat) :
    read1 (eraseSector m k) a = if a / 65536 = k then blank else read1 m a := by
  induction m with
  | nil => simp [eraseSector, read1]
  | cons c m ih =>
    simp only [eraseSector] at ih ⊢
    rw [List.filter_cons]
    split
    · rename_i hc
      simp only [ne_eq, decide_not, Bool.not_eq_eq_eq_not, Bool.not_true, decide_eq_false_iff_not] at hc
      rw [read1, ih, read1]
      split
      · rename_i he; rw [if_neg (by rw [← he]; exact hc)]
      · rfl
    · rename_i hc
      simp only [ne_eq, decide_not, Bool.not_eq_eq_eq_not, Bool.not_true, decide_eq_false_iff_not, not_not] at hc
      rw [ih, read1]
      split
      · rfl
      · rename_i ha
        rw [if_neg]
        rintro rfl
        exact ha hc

end Sys2Proof.Machine.Memory

namespace Sys2Proof.Machine

/-- Whatever an operation of the port leaves in the store has the canonical form. -/
theorem wf_effect (r : FlashReq) (e : FlashEnd) {m : List Host.Cell} (h : Memory.wf m) : Memory.wf (r.effect e m) := by
  cases e with
  | failed left => exact Memory.wf_overlay h _ _
  | good =>
    cases r with
    | page => exact Memory.wf_program h _ _
    | index => exact Memory.wf_program h _ _
    | recoveryIndex => exact Memory.wf_program h _ _
    | mark => exact Memory.wf_overlay h _ _
    | erase => exact Memory.wf_eraseSector h _
    | read => exact h
    | identify => exact h

/-- An operation of the port leaves every byte outside its span alone. -/
theorem read1_effect (r : FlashReq) (e : FlashEnd) (m : List Host.Cell) {a : Nat}
    (h : a < r.span.1 ∨ r.span.1 + r.span.2 ≤ a) : Memory.read1 (r.effect e m) a = Memory.read1 m a := by
  cases e with
  | failed left =>
    refine Memory.read1_overlay_other ?_
    have : (left.take r.span.2).length ≤ r.span.2 := by simp
    omega
  | good =>
    cases r with
    | page => exact Memory.read1_program_other h
    | index => exact Memory.read1_program_other h
    | recoveryIndex => exact Memory.read1_program_other h
    | mark slot b => exact Memory.read1_overlay_other (by simpa [FlashReq.span] using h)
    | erase k =>
      simp only [FlashReq.span] at h
      rw [FlashReq.effect, FlashReq.goodEffect, Memory.read1_eraseSector, if_neg]
      omega
    | read => rfl
    | identify => rfl

end Sys2Proof.Machine
end

