-- ==== Sys2Proof/Laws/Events.lean ====
section
/-!
SUPPORT. What the events outside the command rows do to the roster, the pool and the scheduler: nothing, or a run of
small changes (`core_<event>`).
-/

namespace Sys2Proof.Machine

/-- Before and after a run of small changes the other blocks may have changed too. -/
def CoreMoves (s t : State) : Prop :=
  ∃ a b : State, a.roster = s.roster ∧ a.pool = s.pool ∧ a.sched = s.sched ∧ Moves a b ∧ t.roster = b.roster ∧
    t.pool = b.pool ∧ t.sched = b.sched

theorem CoreMoves.same {s t : State} (hr : t.roster = s.roster) (hp : t.pool = s.pool) (hs : t.sched = s.sched) :
    CoreMoves s t := ⟨s, s, rfl, rfl, rfl, .refl, hr, hp, hs⟩

theorem CoreMoves.of {s t : State} (h : Moves s t) : CoreMoves s t := ⟨s, t, rfl, rfl, rfl, h, rfl, rfl, rfl⟩

/-- Other blocks change first. -/
theorem CoreMoves.before {s u t : State} (h : CoreMoves u t) (hr : u.roster = s.roster) (hp : u.pool = s.pool)
    (hs : u.sched = s.sched) : CoreMoves s t := by
  obtain ⟨a, b, h1, h2, h3, h⟩ := h
  exact ⟨a, b, h1.trans hr, h2.trans hp, h3.trans hs, h⟩

/-- Other blocks change last. -/
theorem CoreMoves.after {s u t : State} (h : CoreMoves s u) (hr : t.roster = u.roster) (hp : t.pool = u.pool)
    (hs : t.sched = u.sched) : CoreMoves s t := by
  obtain ⟨a, b, h1, h2, h3, h4, h5, h6, h7⟩ := h
  exact ⟨a, b, h1, h2, h3, h4, hr.trans h5, hp.trans h6, hs.trans h7⟩

/-! ## The upload engine -/

theorem core_chooseBatch (s : State) : CoreMoves s s.chooseBatch := by
  unfold State.chooseBatch
  split
  · exact .same rfl rfl rfl
  · split
    · exact .same rfl rfl rfl
    · split <;> exact .same rfl rfl rfl

theorem core_sealsChanged (s : State) : CoreMoves s s.sealsChanged := by
  unfold State.sealsChanged
  split
  · exact core_chooseBatch s
  · exact .same rfl rfl rfl

theorem chooseBatch_blocks (s : State) : s.chooseBatch.roster = s.roster ∧ s.chooseBatch.pool = s.pool ∧
    s.chooseBatch.sched = s.sched ∧ s.chooseBatch.intake = s.intake ∧ s.chooseBatch.journal = s.journal := by
  unfold State.chooseBatch
  split
  · exact ⟨rfl, rfl, rfl, rfl, rfl⟩
  · split
    · exact ⟨rfl, rfl, rfl, rfl, rfl⟩
    · split <;> exact ⟨rfl, rfl, rfl, rfl, rfl⟩

theorem sealsChanged_blocks (s : State) : s.sealsChanged.roster = s.roster ∧ s.sealsChanged.pool = s.pool ∧
    s.sealsChanged.sched = s.sched ∧ s.sealsChanged.intake = s.intake ∧ s.sealsChanged.journal = s.journal := by
  unfold State.sealsChanged
  split
  · exact chooseBatch_blocks s
  · exact ⟨rfl, rfl, rfl, rfl, rfl⟩

theorem core_uploadSlotEnded (s : State) : CoreMoves s s.uploadSlotEnded := by
  unfold State.uploadSlotEnded
  split
  · split
    · unfold State.slotRead
      split <;> exact .same rfl rfl rfl
    · exact .same rfl rfl rfl
  · exact .same rfl rfl rfl

theorem core_uploadDataEnded (s : State) : CoreMoves s s.uploadDataEnded := by
  unfold State.uploadDataEnded
  split
  · split
    · unfold State.dataRead
      split <;> exact .same rfl rfl rfl
    · exact .same rfl rfl rfl
  · exact .same rfl rfl rfl

theorem core_uploadReadFailed (s : State) : CoreMoves s s.uploadReadFailed := by
  unfold State.uploadReadFailed
  split
  · split <;> exact .same rfl rfl rfl
  · split <;> exact .same rfl rfl rfl
  · exact .same rfl rfl rfl

theorem core_ackExpired (s : State) : CoreMoves s s.ackExpired := by
  unfold State.ackExpired
  split <;> exact .same rfl rfl rfl

/-! ## The flash port -/

theorem core_pageEnded (s : State) : CoreMoves s s.pageEnded := by
  unfold State.pageEnded
  split
  · exact .before (.of (moves_retry _)) rfl rfl rfl
  · exact .same rfl rfl rfl

theorem core_indexEnded (s : State) : CoreMoves s s.indexEnded := by
  unfold State.indexEnded
  split
  · unfold State.batchJoins
    split
    · exact .same rfl rfl rfl
    · exact .before (core_sealsChanged _) rfl rfl rfl
  · exact .same rfl rfl rfl

theorem core_journalFault (off : Nat) (b : Bool) (s : State) : CoreMoves s (s.journalFault off b) := by
  unfold State.journalFault
  dsimp only
  split
  · obtain ⟨h1, h2, h3, _, _⟩ := sealsChanged_blocks (State.dropForFault b ((s.setFlag .journalFault).captureFault off)).retry
    have h : CoreMoves (State.dropForFault b ((s.setFlag .journalFault).captureFault off)) _ := .of (moves_retry _)
    have k : CoreMoves s _ := h.before rfl rfl rfl
    exact k.after h1 h2 h3
  · exact .same rfl rfl rfl

theorem core_markFailed (n : Nat) (s : State) : CoreMoves s (s.markFailed n) := by
  unfold State.markFailed
  dsimp only
  split
  · exact .after (core_journalFault _ _ s) rfl rfl rfl
  · exact core_journalFault _ _ s

theorem core_markGood (n : Nat) (s : State) : CoreMoves s (s.markGood n) := by
  unfold State.markGood
  dsimp only
  split
  · exact .before (core_chooseBatch _) rfl rfl rfl
  · exact .same rfl rfl rfl

theorem core_markEnded (e : FlashEnd) (s : State) : CoreMoves s (s.markEnded e) := by
  unfold State.markEnded
  split
  · split
    · exact .before (core_markGood _ _) rfl rfl rfl
    · exact .before (core_markFailed _ _) rfl rfl rfl
  · exact .same rfl rfl rfl

theorem core_programFailed (l : List Byte) (s : State) : CoreMoves s (s.programFailed l) := by
  unfold State.programFailed
  split
  · exact .before (core_journalFault _ _ _) rfl rfl rfl
  · exact .before (core_journalFault _ _ _) rfl rfl rfl
  · exact .before (core_markFailed _ _) rfl rfl rfl
  · exact .same rfl rfl rfl

theorem core_nextErase (s : State) : CoreMoves s s.nextErase := by
  unfold State.nextErase
  split <;> exact .same rfl rfl rfl

theorem core_clearFailed (k : Nat) (s : State) : CoreMoves s (s.clearFailed k) := .same rfl rfl rfl

theorem core_eraseEnded (e : FlashEnd) (s : State) : CoreMoves s (s.eraseEnded e) := by
  unfold State.eraseEnded
  split
  · split
    · exact .before (core_nextErase _) rfl rfl rfl
    · exact .before (core_clearFailed _ _) rfl rfl rfl
  · exact .same rfl rfl rfl

/-! ## Start-up and recovery -/

/-- What recovery keeps: the roster, the pool, the scheduler and the intake. -/
def SameCore (s t : State) : Prop := t.roster = s.roster ∧ t.pool = s.pool ∧ t.sched = s.sched ∧ t.intake = s.intake

theorem SameCore.core {s t : State} (h : SameCore s t) : CoreMoves s t := .same h.1 h.2.1 h.2.2.1

theorem SameCore.before {s t u : State} (k : SameCore t u) (h : SameCore s t) : SameCore s u :=
  ⟨k.1.trans h.1, k.2.1.trans h.2.1, k.2.2.1.trans h.2.2.1, k.2.2.2.trans h.2.2.2⟩

theorem SameCore.rfl' (s : State) : SameCore s s := ⟨rfl, rfl, rfl, rfl⟩

theorem sameCore_testLow (s : State) : SameCore s s.testLow := by
  unfold State.testLow
  split <;> exact ⟨rfl, rfl, rfl, rfl⟩

theorem sameCore_recoveryEnds (r : Recovery) (st : JournalState) (o : OpResult) (s : State) :
    SameCore s (s.recoveryEnds r st o) := by
  unfold State.recoveryEnds
  dsimp only
  split
  all_goals exact SameCore.before (sameCore_testLow _) ⟨rfl, rfl, rfl, rfl⟩

theorem sameCore_nextSeal (r : Recovery) (sp : List Span) (f : Bool) (s : State) : SameCore s (s.nextSeal r sp f) := by
  unfold State.nextSeal
  split
  · exact sameCore_recoveryEnds ..
  · split
    · exact sameCore_recoveryEnds ..
    · exact ⟨rfl, rfl, rfl, rfl⟩

theorem sameCore_searchPage (r : Recovery) (a b : Nat) (l : List (Nat × Nat)) (s : State) :
    SameCore s (s.searchPage r a b l) := by
  unfold State.searchPage
  split
  · exact ⟨rfl, rfl, rfl, rfl⟩
  · exact sameCore_nextSeal ..

theorem sameCore_walkTo (r : Recovery) (p : Nat) (l : List (Nat × Nat)) (s : State) : SameCore s (s.walkTo r p l) := by
  unfold State.walkTo
  split
  · exact sameCore_nextSeal ..
  · split
    · exact sameCore_searchPage ..
    · exact ⟨rfl, rfl, rfl, rfl⟩

theorem sameCore_walkRead (r : Recovery) (p : Nat) (l : List (Nat × Nat)) (b : List Byte) (s : State) :
    SameCore s (s.walkRead r p l b) := by
  unfold State.walkRead
  split
  · split
    · exact sameCore_nextSeal ..
    · exact sameCore_searchPage ..
  · split
    · exact sameCore_walkTo ..
    · exact sameCore_searchPage ..

theorem sameCore_nextSlot (r : Recovery) (s : State) : SameCore s (s.nextSlot r) := by
  unfold State.nextSlot
  split
  · exact sameCore_walkTo ..
  · exact ⟨rfl, rfl, rfl, rfl⟩

theorem sameCore_slotWalked (r : Recovery) (b : List Byte) (s : State) : SameCore s (s.slotWalked r b) := by
  unfold State.slotWalked
  split
  · exact sameCore_walkTo ..
  · split <;> exact sameCore_nextSlot ..

theorem sameCore_scanReadGood (r : Recovery) (b : List Byte) (s : State) : SameCore s (s.scanReadGood r b) := by
  unfold State.scanReadGood
  split
  · exact sameCore_slotWalked ..
  · exact sameCore_walkRead ..
  · split
    · exact sameCore_nextSeal ..
    · exact sameCore_searchPage ..
  · exact .rfl' s

theorem sameCore_recoveryReadEnded (g : Bool) (s : State) : SameCore s (s.recoveryReadEnded g) := by
  unfold State.recoveryReadEnded
  split
  · split
    · exact SameCore.before (sameCore_scanReadGood _ _ _) ⟨rfl, rfl, rfl, rfl⟩
    · exact SameCore.before (sameCore_recoveryEnds _ _ _ s.freePort) ⟨rfl, rfl, rfl, rfl⟩
  · exact .rfl' s

theorem sameCore_recoveryIndexEnded (e : FlashEnd) (s : State) : SameCore s (s.recoveryIndexEnded e) := by
  unfold State.recoveryIndexEnded
  split
  · split
    · unfold State.sealProgrammed
      split
      · exact SameCore.before (sameCore_nextSeal ..) ⟨rfl, rfl, rfl, rfl⟩
      · exact ⟨rfl, rfl, rfl, rfl⟩
    · exact SameCore.before (sameCore_recoveryEnds _ _ _ (s.endOp _ _)) ⟨rfl, rfl, rfl, rfl⟩
  · exact .rfl' s

theorem sameCore_flashIsReady (e : FlashEnd) (s : State) : SameCore s (s.flashIsReady e) := by
  unfold State.flashIsReady
  split <;> exact ⟨rfl, rfl, rfl, rfl⟩

theorem sameCore_readyTimedOut (s : State) : SameCore s s.readyTimedOut := by
  unfold State.readyTimedOut
  split <;> exact ⟨rfl, rfl, rfl, rfl⟩

theorem sameCore_identified (c : Byte) (s : State) : SameCore s (s.identified c) := by
  unfold State.identified
  split
  · split <;> exact ⟨rfl, rfl, rfl, rfl⟩
  · exact .rfl' s

theorem sameCore_identTimedOut (s : State) : SameCore s s.identTimedOut := by
  unfold State.identTimedOut
  split <;> exact ⟨rfl, rfl, rfl, rfl⟩

theorem core_anyProgramFailed (l : List Byte) (s : State) : CoreMoves s (s.anyProgramFailed l) := by
  unfold State.anyProgramFailed
  split
  · exact (sameCore_recoveryIndexEnded _ s).core
  · exact core_programFailed l s

/-! ## The scheduler's events -/

theorem moves_passExpires (s : State) : Moves s s.passExpires := by
  unfold State.passExpires
  split
  · exact .refl
  · split
    · exact .refl
    · refine .trans (.trans ?_ (moves_scan _)) (moves_offerLane _)
      exact moves_sched s _ rfl le_rfl le_rfl

theorem moves_transmitDone (s : State) : Moves s s.transmitDone := by
  unfold State.transmitDone
  split
  · exact .refl
  · exact moves_endTransmission _ s

theorem moves_transmitTimesOut (s : State) : Moves s s.transmitTimesOut := by
  unfold State.transmitTimesOut
  split
  · exact .refl
  · exact .trans (.trans (moves_countTransmitTimeout s) (moves_setFlag _ _)) (moves_endTransmission _ _)

/-! ## The intake -/

/-- A run of small changes, in the middle of which a candidate may open in a FREE slot for a meter with none. -/
def OpenMoves (s t : State) : Prop :=
  Moves s t ∨ ∃ (u : State) (k : Candidate), Moves s u ∧ u.pool.cands.length < 64 ∧
    k.serial ∉ u.pool.cands.map Candidate.serial ∧ Moves { u with pool.cands := u.pool.cands ++ [k] } t

theorem moves_countLane (i : Fin 4) (f : LaneCounters → LaneCounters) (s : State) : Moves s (s.countLane i f) := by
  refine Moves.one (.intake s _ ?_)
  simp only [Intake.bare]
  congr 1
  ext1 j hj
  simp only [Vector.getElem_map, Vector.getElem_set]
  split
  · rename_i h; subst h; rfl
  · rfl

theorem moves_foreignRecord (c : Copy) (s : State) : Moves s (s.foreignRecord c) := by
  unfold State.foreignRecord
  dsimp only
  split
  · exact .trans (moves_countLane _ _ s) (moves_requestNotice _ _)
  · exact moves_countLane _ _ s

/-- The serials with a candidate after closing one are among those before. -/
theorem candOf_none {s : State} {n : Nat} : s.candOf? n = none ↔ n ∉ s.pool.cands.map Candidate.serial := by
  simp only [State.candOf?, List.find?_eq_none, List.mem_map, not_exists, not_and]
  constructor
  · intro h c hc e; exact h c hc (by simp [e])
  · intro h c hc e; exact h c hc (by simpa using e)

theorem Moves.serials {s t : State} (h : Moves s t) :
    (t.pool.cands.map Candidate.serial).Sublist (s.pool.cands.map Candidate.serial) := by
  refine Moves.keeps (P := fun t => (t.pool.cands.map Candidate.serial).Sublist (s.pool.cands.map Candidate.serial))
    (fun a b h ha => ?_) h (List.Sublist.refl _)
  cases h with
  | pool p hp => exact hp.trans ha
  | move n st =>
    have e : (a.moveTo n st).pool = a.pool := congrArg (fun x : Pool => x) (by
      unfold State.moveTo State.placeEntry
      cases a.entry? n <;> rfl)
    rw [e]; exact ha
  | entry => exact ha
  | link => exact ha
  | sched => exact ha
  | journal => exact ha
  | intake => exact ha

theorem openMoves_openCand (c : Copy) (s : State) (hl : s.pool.cands.length < 64) (hn : s.candOf? c.serial = none) :
    OpenMoves s (s.openCand c) := by
  unfold State.openCand
  split
  · exact .inl .refl
  · rename_i e _
    refine .inr ⟨s, openedCandidate c (e.st == .missed || (s.leg e.loaded.leg).st == .passed) s.pool.holdTime, .refl, hl,
      candOf_none.mp hn, ?_⟩
    dsimp only
    refine .trans (.trans (.trans ?_ (moves_markHeard _ _)) (moves_stopWindow _ _)) (moves_dropRequest _ _)
    split
    · exact .refl
    · exact moves_moveTo _ _ _

theorem OpenMoves.after {s t u : State} (h : Moves s t) (k : OpenMoves t u) : OpenMoves s u := by
  obtain k | ⟨v, c, k1, k2, k3, k4⟩ := k
  · exact .inl (h.trans k)
  · exact .inr ⟨v, c, h.trans k1, k2, k3, k4⟩

theorem openMoves_admitCopy (c : Copy) (s : State) (hn : s.candOf? c.serial = none) :
    OpenMoves s (s.admitCopy c) := by
  unfold State.admitCopy
  split
  · exact openMoves_openCand c s ‹_› hn
  · split
    · exact .inl .refl
    · rename_i old _
      dsimp only
      have h : Moves s (s.countForcedClose.closeCand old.serial false) :=
        .trans (moves_countForcedClose s) (moves_closeCand ..)
      split
      · refine .after h (openMoves_openCand c _ ‹_› ?_)
        rw [candOf_none] at hn ⊢
        exact fun hc => hn (h.serials.subset hc)
      · exact .inl h

theorem openMoves_takeCopy (e : Entry) (c : Copy) (s : State) : OpenMoves s (s.takeCopy e c) := by
  unfold State.takeCopy
  split
  · split
    · exact .inl (moves_countOutOfRange s)
    · split
      · exact .inl (moves_countLane ..)
      · exact openMoves_admitCopy c s ‹_›
  · split
    · exact .inl .refl
    · split
      · exact .inl (moves_countOutOfRange s)
      · split
        · exact .inl (moves_countLane ..)
        · exact .inl (moves_updCand _ _ (by simp [Candidate.join]) s)

theorem openMoves_lookupRecord (c : Copy) (s : State) : OpenMoves s (s.lookupRecord c) := by
  unfold State.lookupRecord
  split
  · exact .inl (moves_foreignRecord c s)
  · split
    · exact .inl (moves_foreignRecord c s)
    · split
      · exact .inl (moves_countLane ..)
      · exact .inl (moves_countLane ..)
      · exact openMoves_takeCopy ..

/-- A test of the intake that drops its record only counts it, or hands the record on. -/
theorem openMoves_countOr {c : Prop} [Decidable c] {i : Fin 4} {f : LaneCounters → LaneCounters} {s t : State}
    (h : OpenMoves s t) : OpenMoves s (if c then s.countLane i f else t) := by
  split
  · exact .inl (moves_countLane ..)
  · exact h

theorem openMoves_intakeTests (i : Fin 4) (p : PartialRecord) (s : State) : OpenMoves s (s.intakeTests i p) :=
  openMoves_countOr (openMoves_countOr (openMoves_countOr (openMoves_countOr (openMoves_lookupRecord ..))))

/-- LANE_RECORD_TAKEN: the intake changes, then a run of small changes with at most one candidate opened. -/
theorem laneEnds_moves (i : Fin 4) (s : State) : ∃ k : Intake, OpenMoves { s with intake := k } (s.laneEnds i) := by
  unfold State.laneEnds
  split
  · exact ⟨_, openMoves_intakeTests i _ (s.updLane i _)⟩
  · exact ⟨s.intake, .inl .refl⟩

/-- LANE_START changes the intake alone. -/
theorem laneStarts_intake (i : Fin 4) (s : State) : ∃ k : Intake, s.laneStarts i = { s with intake := k } := by
  unfold State.laneStarts
  split
  · exact ⟨s.intake, rfl⟩
  · exact ⟨_, rfl⟩
  · exact ⟨_, rfl⟩

/-- LANE_BYTE_RECEIVED changes the intake alone. -/
theorem laneByte_intake (i : Fin 4) (b : Byte) (s : State) : ∃ k : Intake, s.laneByte i b = { s with intake := k } := by
  unfold State.laneByte
  split
  · exact ⟨_, rfl⟩
  · exact ⟨s.intake, rfl⟩

end Sys2Proof.Machine
end

