-- ==== Sys2Proof/Laws/Roster.lean ====
section
/-!
SUPPORT. The roster's invariant under the operations on one meter: changing an entry but not its state, and moving an
entry to a state with its chain place and its leg's counts (R19, R21).
-/

namespace Sys2Proof.Machine

/-- The invariant speaks of the roster alone. -/
theorem RosterInv.congr {s t : State} (h : RosterInv s) (e : t.roster = s.roster) : RosterInv t := by
  obtain ⟨h1, h2, h3, h4, h5, h6, h7⟩ := h
  have hl : ∀ l, t.leg l = s.leg l := fun l => by simp only [State.leg, e]
  constructor
  · rw [e]; exact h1
  · rw [e]; exact h2
  · rw [e]; exact h3
  · rw [e]; exact h4
  · simp only [hl, e]; exact h5
  · rw [e]; exact h6
  · rw [e]; exact h7

theorem entry?_mem {s : State} {n : Nat} {e : Entry} (h : s.entry? n = some e) :
    e ∈ s.roster.entries ∧ e.loaded.serial = n := by
  have h1 := List.mem_of_find?_eq_some h
  have h2 := List.find?_some h
  exact ⟨h1, by simpa using h2⟩

/-- With distinct serials, an entry of the roster stands alone with its serial. -/
theorem entries_split {es : List Entry} (h : (es.map fun e => e.loaded.serial).Pairwise (· < ·)) {e : Entry}
    (he : e ∈ es) : ∃ a b, es = a ++ e :: b ∧ (∀ x ∈ a, x.loaded.serial ≠ e.loaded.serial) ∧
      ∀ x ∈ b, x.loaded.serial ≠ e.loaded.serial := by
  obtain ⟨a, b, rfl⟩ := List.append_of_mem he
  refine ⟨a, b, rfl, fun x hx => ?_, fun x hx => ?_⟩
  · simp only [List.map_append, List.map_cons, List.pairwise_append, List.mem_map, List.mem_cons] at h
    have := h.2.2 _ ⟨x, hx, rfl⟩ e.loaded.serial (.inl rfl)
    omega
  · simp only [List.map_append, List.map_cons, List.pairwise_append, List.pairwise_cons, List.mem_map] at h
    have := h.2.1.1 _ ⟨x, hx, rfl⟩
    omega

/-- What a change of the entry with one serial does to the list. -/
theorem map_upd {a b : List Entry} {e : Entry} {n : Nat} (f : Entry → Entry) (hn : e.loaded.serial = n)
    (ha : ∀ x ∈ a, x.loaded.serial ≠ n) (hb : ∀ x ∈ b, x.loaded.serial ≠ n) :
    (a ++ e :: b).map (fun x => if x.loaded.serial = n then f x else x) = a ++ f e :: b := by
  have h : ∀ l : List Entry, (∀ x ∈ l, x.loaded.serial ≠ n) →
      l.map (fun x => if x.loaded.serial = n then f x else x) = l := fun l hl => by
    conv_rhs => rw [← List.map_id l]
    exact List.map_congr_left fun x hx => by simp [hl x hx]
  rw [List.map_append, List.map_cons, h a ha, h b hb, if_pos hn]

theorem countLeg_congr (es : List Entry) (f : Entry → Entry) (hf : ∀ e, (f e).loaded = e.loaded ∧ (f e).st = e.st)
    (l : Byte) : countLeg (es.map f) l = countLeg es l := by
  have hfil : (es.map f).filter (fun e => e.loaded.leg == l) = (es.filter fun e => e.loaded.leg == l).map f := by
    rw [List.filter_map]
    congr 1
    exact List.filter_congr fun e _ => by simp [(hf e).1]
  simp only [countLeg, hfil, List.length_map, List.countP_map]
  simp only [Function.comp_def, (hf _).2]

/-- Changing entries but neither their loaded parts nor their states keeps the invariant. -/
theorem RosterInv.mapEntries {s t : State} (h : RosterInv s) (f : Entry → Entry)
    (hf : ∀ e, (f e).loaded = e.loaded ∧ (f e).st = e.st)
    (ht : t.roster = { s.roster with entries := s.roster.entries.map f }) : RosterInv t := by
  refine RosterInv.congr (s := { s with roster := { s.roster with entries := s.roster.entries.map f } }) ?_ ht
  obtain ⟨h1, h2, h3, h4, h5, h6, h7⟩ := h
  refine ⟨h1, ?_, h3, fun n => ?_, fun hp l => ?_, fun hp => ?_, h7⟩
  · dsimp only
    rw [List.map_map]
    refine Eq.mp (congrArg _ ?_) h2
    exact List.map_congr_left fun e _ => by simp [(hf e).1]
  · dsimp only
    rw [h4 n]
    simp only [List.mem_map]
    constructor
    · rintro ⟨e, he, hs, hm⟩
      exact ⟨f e, ⟨e, he, rfl⟩, by rw [(hf e).1]; exact hs, by rw [(hf e).2]; exact hm⟩
    · rintro ⟨_, ⟨e, he, rfl⟩, hs, hm⟩
      exact ⟨e, he, by rw [← (hf e).1]; exact hs, by rw [← (hf e).2]; exact hm⟩
  · dsimp only
    rw [countLeg_congr _ _ hf]
    exact h5 hp l
  · dsimp only
    rw [h6 hp]
    rfl

theorem RosterInv.updEntry {s : State} (h : RosterInv s) (n : Nat) (f : Entry → Entry)
    (hf : ∀ e, (f e).loaded = e.loaded ∧ (f e).st = e.st) : RosterInv (s.updEntry n f) := by
  refine h.mapEntries (fun e => if e.loaded.serial = n then f e else e) (fun e => ?_) rfl
  split
  · exact hf e
  · exact ⟨rfl, rfl⟩

theorem countP_split (p : Entry → Bool) (a b : List Entry) (x : Entry) :
    (a ++ x :: b).countP p = a.countP p + b.countP p + (if p x then 1 else 0) := by
  rw [List.countP_append, List.countP_cons]
  omega

/-- The counts of a leg, of a list around one entry. -/
theorem countLeg_split (a b : List Entry) (x : Entry) (l : Byte) :
    countLeg (a ++ x :: b) l =
      { total := (countLeg (a ++ b) l).total + (if x.loaded.leg = l then 1 else 0),
        read := (countLeg (a ++ b) l).read + (if x.loaded.leg = l ∧ x.st.kind = .read then 1 else 0),
        missed := (countLeg (a ++ b) l).missed + (if x.loaded.leg = l ∧ x.st.kind = .missed then 1 else 0),
        excluded := (countLeg (a ++ b) l).excluded + (if x.loaded.leg = l ∧ x.st.kind = .excluded then 1 else 0),
        outstanding :=
          (countLeg (a ++ b) l).outstanding + (if x.loaded.leg = l ∧ x.st.kind = .outstanding then 1 else 0) } := by
  by_cases hl : x.loaded.leg = l
  · simp [countLeg, List.filter_append, hl, List.countP_cons]
    refine ⟨by omega, ?_, ?_, ?_, ?_⟩
    all_goals
      split
      all_goals omega
  · simp [countLeg, List.filter_append, hl]

/-- A move of one entry moves its leg's counts from the old category to the new, and no other leg's (R21). -/
theorem countLeg_move (a b : List Entry) (e : Entry) (st : EntryState) (l : Byte) :
    countLeg (a ++ { e with st := st } :: b) l =
      if e.loaded.leg = l then (countLeg (a ++ e :: b) l).move e.st.kind st.kind else countLeg (a ++ e :: b) l := by
  rw [countLeg_split a b e, countLeg_split a b { e with st := st }]
  by_cases hl : e.loaded.leg = l
  · simp only [hl, true_and, LegCounts.move, if_true]
    cases e.st.kind <;> cases st.kind <;> simp [LegCounts.sub, LegCounts.add]
  · simp [hl]

theorem leg_updLeg (l k : Byte) (f : Leg → Leg) (s : State) :
    (s.updLeg l f).leg k = if k = l then f (s.leg l) else s.leg k := by
  simp only [State.updLeg, State.leg, Vector.getElem_set]
  split
  · rename_i h
    have : k = l := by rw [← BitVec.toNat_inj]; exact h.symm
    rw [if_pos this]
  · rename_i h
    rw [if_neg (by rintro rfl; exact h rfl)]

/-- An entry's new place on the chain: the chain holds the MISSED meters before and after (R19). -/
theorem mem_chainMove {chain : List Nat} {n : Nat} {old new : EntryState} (hn : chain.Nodup)
    (hc : n ∈ chain ↔ old = .missed) (m : Nat) :
    m ∈ chainMove n old new chain ↔ (m ≠ n ∧ m ∈ chain) ∨ (m = n ∧ new = .missed) := by
  unfold chainMove
  by_cases h : old = .missed
  · rw [if_pos h]
    by_cases h2 : new = .missed
    · simp [h2, hn.mem_erase_iff]
    · simp [h2, hn.mem_erase_iff]
  · have : n ∉ chain := fun hm => h (hc.mp hm)
    rw [if_neg h]
    have h3 : m ∈ chain → m ≠ n := by rintro hm rfl; exact this hm
    by_cases h2 : new = .missed
    · simp only [h2, if_true, List.mem_append, List.mem_singleton, and_true]; tauto
    · simp only [h2, if_false, and_false, or_false]; tauto

theorem nodup_chainMove {chain : List Nat} {n : Nat} {old new : EntryState} (hn : chain.Nodup)
    (hc : n ∈ chain ↔ old = .missed) : (chainMove n old new chain).Nodup := by
  unfold chainMove
  have h1 : (if old = .missed then chain.erase n else chain).Nodup := by
    split
    · exact hn.erase n
    · exact hn
  have h2 : n ∉ (if old = .missed then chain.erase n else chain) := by
    split
    · rw [hn.mem_erase_iff]; tauto
    · rename_i h; exact fun hm => h (hc.mp hm)
  dsimp only
  split
  · exact List.nodup_append.mpr ⟨h1, by simp, fun a ha b hb => by
      rw [List.mem_singleton] at hb; subst hb; rintro rfl; exact h2 ha⟩
  · exact h1

/-- A meter on the chain is MISSED, of the entry that `entry?` finds. -/
theorem RosterInv.onChain {s : State} (h : RosterInv s) {n : Nat} {e : Entry} (he : s.entry? n = some e) :
    n ∈ s.roster.missed ↔ e.st = .missed := by
  obtain ⟨hm, hs⟩ := entry?_mem he
  rw [h.chain n]
  constructor
  · rintro ⟨x, hx, hxs, hxm⟩
    obtain ⟨a, b, hab, ha, hb⟩ := entries_split h.live hm
    rw [hab] at hx
    rcases List.mem_append.mp hx with hx | hx
    · exact absurd (hxs.trans hs.symm) (ha x hx)
    · rcases List.mem_cons.mp hx with rfl | hx
      · exact hxm
      · exact absurd (hxs.trans hs.symm) (hb x hx)
  · exact fun hst => ⟨e, hm, hs, hst⟩

/-- Placing an entry keeps the parts of the invariant that do not count. -/
theorem RosterInv.placeEntry {s : State} (h : RosterInv s) (n : Nat) (st : EntryState)
    (hp : ¬ (s.roster.phase = .active ∨ s.roster.phase = .closed)) : RosterInv (s.placeEntry n st) := by
  unfold State.placeEntry
  split
  · exact h
  · rename_i e he
    obtain ⟨hm, hs⟩ := entry?_mem he
    obtain ⟨a, b, hab, ha, hb⟩ := entries_split h.live hm
    rw [hs] at ha hb
    have hmap := map_upd (fun x => { x with st := st }) hs ha hb
    have hch := h.onChain he
    refine ⟨h.staged, ?_, nodup_chainMove h.chainOnce hch, fun m => ?_, fun hq => absurd hq hp, fun hq => ?_, h.scan⟩
    · dsimp only [State.updEntry]
      rw [hab, hmap]
      have := h.live
      rw [hab] at this
      simpa using this
    · dsimp only [State.updEntry]
      rw [mem_chainMove h.chainOnce hch, hab, hmap, h.chain m, hab]
      simp only [List.mem_append, List.mem_cons]
      constructor
      · rintro (⟨hne, x, hx, hxs, hxm⟩ | ⟨rfl, hst⟩)
        · rcases hx with hx | rfl | hx
          · exact ⟨x, .inl hx, hxs, hxm⟩
          · exact absurd (hxs.symm.trans hs) hne
          · exact ⟨x, .inr (.inr hx), hxs, hxm⟩
        · exact ⟨_, .inr (.inl rfl), hs, hst⟩
      · rintro ⟨x, hx | rfl | hx, hxs, hxm⟩
        · exact .inl ⟨by rintro rfl; exact ha x hx hxs, x, .inl hx, hxs, hxm⟩
        · exact .inr ⟨hxs.symm.trans hs, hxm⟩
        · exact .inl ⟨by rintro rfl; exact hb x hx hxs, x, .inr (.inr hx), hxs, hxm⟩
    · dsimp only [State.updEntry] at hq ⊢
      rw [h.empty hq]
      rfl

/-- A move keeps the invariant. -/
theorem RosterInv.moveTo {s : State} (h : RosterInv s) (n : Nat) (st : EntryState) : RosterInv (s.moveTo n st) := by
  unfold State.moveTo
  split
  · exact h
  · rename_i e he
    -- The phase that `placeEntry` keeps out is put aside for the parts that do not count.
    let s₀ : State := { s with roster.phase := .committing }
    have hno : ∀ {p q : Phase} {C : Prop}, p ≠ .committing → q ≠ .committing →
        (Phase.committing = p ∨ Phase.committing = q) → C := fun hp hq h =>
      (h.elim (fun e => hp e.symm) fun e => hq e.symm).elim
    have h₀ : RosterInv s₀ :=
      ⟨h.staged, h.live, h.chainOnce, h.chain, hno (by decide) (by decide), hno (by decide) (by decide), fun _ => rfl⟩
    have h₁ := h₀.placeEntry n st (hno (by decide) (by decide))
    have e₀ : s₀.entry? n = some e := he
    have hents : (s.placeEntry n st).roster.entries = (s₀.placeEntry n st).roster.entries := by
      simp only [State.placeEntry, he, e₀]; rfl
    have hmiss : (s.placeEntry n st).roster.missed = (s₀.placeEntry n st).roster.missed := by
      simp only [State.placeEntry, he, e₀]; rfl
    have hstag : (s.placeEntry n st).roster.staging = s.roster.staging := by
      simp only [State.placeEntry, he]; rfl
    have hph : (s.placeEntry n st).roster.phase = s.roster.phase := by
      simp only [State.placeEntry, he]; rfl
    have hreb : (s.placeEntry n st).roster.rebuild = s.roster.rebuild := by
      simp only [State.placeEntry, he]; rfl
    obtain ⟨hm, hs⟩ := entry?_mem he
    obtain ⟨a, b, hab, ha, hb⟩ := entries_split h.live hm
    rw [hs] at ha hb
    have hent : (s.placeEntry n st).roster.entries = a ++ { e with st := st } :: b := by
      simp only [State.placeEntry, he, State.updEntry]
      rw [hab]
      exact map_upd _ hs ha hb
    refine ⟨?_, ?_, ?_, ?_, fun hq l => ?_, fun hq => ?_, fun hq => ?_⟩
    · dsimp only [State.updLeg]; rw [hstag]; exact h.staged
    · dsimp only [State.updLeg]; rw [hents]; exact h₁.live
    · dsimp only [State.updLeg]; rw [hmiss]; exact h₁.chainOnce
    · dsimp only [State.updLeg]; rw [hmiss, hents]; exact h₁.chain
    · have hq' : s.roster.phase = .active ∨ s.roster.phase = .closed := by rw [← hph]; exact hq
      have hcl := h.counts hq'
      have hleg : ∀ k, (s.placeEntry n st).leg k = s.leg k := fun k => by
        simp only [State.leg, placeEntry_legs]
      rw [leg_updLeg]
      dsimp only [State.updLeg]
      rw [hent, countLeg_move, ← hab]
      split
      · rename_i hk
        subst hk
        rw [if_pos rfl, hleg, ← hcl]
      · rename_i hk
        rw [if_neg (by rintro rfl; exact hk rfl), hleg, hcl]
    · have hq' : s.roster.phase = .none ∨ s.roster.phase = .loading := by rw [← hph]; exact hq
      have := h.empty hq'
      rw [hab] at this
      simp at this
    · have hq' : s.roster.rebuild.isSome := by rw [← hreb]; exact hq
      dsimp only [State.updLeg]
      rw [hph]
      exact h.scan hq'

/-- Every small change keeps the roster's invariant. -/
theorem Micro.rosterInv {s t : State} (h : Micro s t) (hs : RosterInv s) : RosterInv t := by
  cases h with
  | entry n f hf => exact hs.updEntry n f hf
  | move n st => exact hs.moveTo n st
  | link => exact hs.congr rfl
  | sched => exact hs.congr rfl
  | journal => exact hs.congr rfl
  | pool => exact hs.congr rfl
  | intake => exact hs.congr rfl

theorem Moves.rosterInv {s t : State} (h : Moves s t) (hs : RosterInv s) : RosterInv t :=
  Moves.keeps (fun _ _ h hs => h.rosterInv hs) h hs

theorem CoreMoves.rosterInv {s t : State} (h : CoreMoves s t) (hs : RosterInv s) : RosterInv t := by
  obtain ⟨a, b, h1, _, _, h2, h3, _, _⟩ := h
  exact (h2.rosterInv (hs.congr h1)).congr h3

theorem OpenMoves.rosterInv {s t : State} (h : OpenMoves s t) (hs : RosterInv s) : RosterInv t := by
  obtain h | ⟨u, k, h1, _, _, h2⟩ := h
  · exact h.rosterInv hs
  · exact h2.rosterInv ((h1.rosterInv hs).congr rfl)

end Sys2Proof.Machine
end

