-- ==== Sys2Proof/Laws/Exec.lean ====
section
/-!
SUPPORT. What `exec` can answer, said once: the reset input's two rows apart, every row is an act on the state and the
end of a step (`exec_next`), and a frame that completes is discarded, refused or carried out (`frameArrives_cases`).
-/

namespace Sys2Proof.Machine

/-- What a row does before the end of the step; the two rows of the reset input are apart. -/
def State.act (i : Instr) (s : State) : State :=
  match i with
  | .resetAssert => s
  | .resetRelease _ => s
  | .identify b => s.frameArrives Cmd.identify.kind b true
  | .restart b => s.frameArrives Cmd.restart.kind b true
  | .radioSet b => s.frameArrives Cmd.radioSet.kind b true
  | .flagsRead b => s.frameArrives Cmd.flagsRead.kind b true
  | .flagsClear b => s.frameArrives Cmd.flagsClear.kind b true
  | .flagsMask b => s.frameArrives Cmd.flagsMask.kind b true
  | .countersRead b => s.frameArrives Cmd.countersRead.kind b true
  | .classWrite b => s.frameArrives Cmd.classWrite.kind b true
  | .legWrite b => s.frameArrives Cmd.legWrite.kind b true
  | .rosterBegin b => s.frameArrives Cmd.rosterBegin.kind b true
  | .rosterLoad b => s.frameArrives Cmd.rosterLoad.kind b true
  | .rosterCommit b => s.frameArrives Cmd.rosterCommit.kind b true
  | .rosterEdit b => s.frameArrives Cmd.rosterEdit.kind b true
  | .rosterQuery b => s.frameArrives Cmd.rosterQuery.kind b true
  | .rosterDiscard b => s.frameArrives Cmd.rosterDiscard.kind b true
  | .missedRead b => s.frameArrives Cmd.missedRead.kind b true
  | .legOpen b => s.frameArrives Cmd.legOpen.kind b true
  | .legClose b => s.frameArrives Cmd.legClose.kind b true
  | .legStatus b => s.frameArrives Cmd.legStatus.kind b true
  | .routeClose b => s.frameArrives Cmd.routeClose.kind b true
  | .journalStatus b => s.frameArrives Cmd.journalStatus.kind b true
  | .batchSeal b => s.frameArrives Cmd.batchSeal.kind b true
  | .journalClear b => s.frameArrives Cmd.journalClear.kind b true
  | .uploadStart b => s.frameArrives Cmd.uploadStart.kind b true
  | .batchReceived b => s.frameArrives Cmd.batchReceived.kind b true
  | .uploadStop b => s.frameArrives Cmd.uploadStop.kind b true
  | .laneStart i => s.laneStarts i
  | .laneByteReceived i b => s.laneByte i b
  | .laneRecordTaken i => s.laneEnds i
  | .holdExpiry n => s.closeCand n false
  | .passTimerExpiry => s.passExpires
  | .dutyRefill => s.refills
  | .transmitDone => s.transmitDone
  | .transmitTimeout => s.transmitTimesOut
  | .sweepWindowEnd n => s.sweepWindowEnded n
  | .confirmWindowEnd n => s.confirmWindowEnded n
  | .pageProgramEnd => s.pageEnded
  | .indexProgramEnd => s.indexEnded
  | .programFailure l => s.anyProgramFailed l
  | .markProgramEnd e => s.markEnded e
  | .sectorEraseEnd e => s.eraseEnded e
  | .rebuildScanStart => s.rebuildBegins
  | .rebuildReadEnd g => s.rebuildReadEnded g
  | .flashReady e => s.flashIsReady e
  | .flashReadyTimeout => s.readyTimedOut
  | .identificationResponse _ _ c => s.identified c
  | .identificationTimeout => s.identTimedOut
  | .recoveryReadEnd g => s.recoveryReadEnded g
  | .recoveryIndexProgramEnd e => s.recoveryIndexEnded e
  | .uploadSlotReadEnd => s.uploadSlotEnded
  | .uploadDataReadEnd => s.uploadDataEnded
  | .uploadReadFailure => s.uploadReadFailed
  | .ackTimerExpiry => s.ackExpired
  | .linkFrameRefused k b crc => s.frameArrives k b (frameCrc k b == crc)
  | .linkOverrun k b crc => s.frameArrives k b (frameCrc k b == crc)
  | .linkByteReceived b => s.linkByte b
  | .linkFramingError => s.framingError
  | .gapTimerExpiry => s.gapExpires
  | .outboundFrameSent straps => s.frameSent straps

theorem event_next {f : State → State} {s t : State} (h : event f s = .next t) :
    (s.asserted = true ∧ t = s) ∨ (s.asserted = false ∧ t = (f s).finish) := by
  unfold event at h
  split at h
  · cases h; exact .inl ⟨‹_›, rfl⟩
  · rename_i ha
    cases h
    exact .inr ⟨by simpa using ha, rfl⟩

/-- Every next state of `exec`. -/
theorem exec_next {i : Instr} {s t : State} (h : exec i s = .next t) :
    (i = .resetAssert ∧ t = s.resetAsserted) ∨
    (∃ straps, i = .resetRelease straps ∧ t = ({ s with straps := straps } : State).resetEffect) ∨
    (s.asserted = true ∧ t = s) ∨ (s.asserted = false ∧ t = (s.act i).finish) := by
  cases i
  case resetAssert => cases h; exact .inl ⟨rfl, rfl⟩
  case resetRelease straps => cases h; exact .inr (.inl ⟨straps, rfl, rfl⟩)
  case rebuildReadEnd g =>
    simp only [exec, execRebuildReadEnd] at h
    split at h
    · cases h
    · exact .inr (.inr (event_next h))
  case uploadDataReadEnd =>
    simp only [exec, execUploadDataReadEnd] at h
    split at h
    · cases h
    · exact .inr (.inr (event_next h))
  all_goals exact .inr (.inr (event_next h))

/-- What becomes of a frame that completes (R141, R168, R169). -/
theorem frameArrives_cases (k : Byte) (b : List Byte) (g : Bool) (s : State) :
    (s.link.restarting = true ∧ s.frameArrives k b g = s.received) ∨
    (2 ≤ s.link.replies.length ∧ s.frameArrives k b g = s.received.countOverrun) ∨
    (s.link.replies.length < 2 ∧ ∃ (u : State) (kind echoed : Byte) (o : ReplyCode) (d : List Byte) (r : Bool),
      s.frameArrives k b g = u.pushReply kind echoed o d r ∧
      (u = s.received.countLinkCheck ∨ u = s.received ∨
        ∃ c, c.kind = k ∧ g = true ∧ u = (s.received.checkCommand c b).2.2)) := by
  unfold State.frameArrives
  dsimp only
  split
  · exact .inl ⟨‹_›, rfl⟩
  · split
    · exact .inr (.inl ⟨‹_›, rfl⟩)
    · refine .inr (.inr ⟨by omega, ?_⟩)
      unfold State.takeFrame
      split
      · exact ⟨_, _, _, _, _, _, rfl, .inl rfl⟩
      · rename_i hg
        split
        · exact ⟨_, _, _, _, _, _, rfl, .inr (.inl rfl)⟩
        · rename_i c hc
          have hk : c.kind = k := by
            have := List.find?_some hc
            simpa using this
          exact ⟨_, _, _, _, _, _, rfl, .inr (.inr ⟨c, hk, by simpa using hg, rfl⟩)⟩

/-- A byte of the link only moves the receiver, or completes a frame (R166). -/
theorem linkByte_cases (x : Byte) (s : State) :
    (∃ r, s.linkByte x = s.setRx r) ∨ s.linkByte x = s ∨
      ∃ k b g, s.frameOf (.linkByteReceived x) = some (k, b, g) ∧ s.linkByte x = s.frameArrives k b g := by
  unfold State.linkByte
  split
  · split
    · exact .inl ⟨_, rfl⟩
    · exact .inr (.inl rfl)
  · split <;> exact .inl ⟨_, rfl⟩
  · split <;> exact .inl ⟨_, rfl⟩
  · rename_i hrx
    split
    · exact .inl ⟨_, rfl⟩
    · exact .inr (.inr ⟨_, _, _, by simp only [State.frameOf, hrx], rfl⟩)

/-- A command of the link that finds the part listening is checked, carried out and answered (R169, R170). -/
theorem frameArrives_cmd (c : Cmd) (b : List Byte) {s : State} (h : Listening s) :
    s.frameArrives c.kind b true = s.received.takeCommand c b := by
  obtain ⟨_, h2, h3⟩ := h
  unfold State.frameArrives
  dsimp only
  rw [if_neg (by rw [h2]; decide), if_neg (by omega)]
  unfold State.takeFrame
  cases c <;> rfl

/-- A command's row is the completion of a good frame of its kind. -/
theorem exec_row_event (c : Cmd) (b : List Byte) (s : State) :
    exec (c.row b) s = event (State.frameArrives c.kind b true) s := by
  cases c <;> rfl

/-- What a command's row answers while the part listens. -/
theorem exec_row (c : Cmd) (b : List Byte) {s : State} (h : Listening s) :
    exec (c.row b) s = .next (s.received.takeCommand c b).finish := by
  rw [exec_row_event, event, if_neg (by rw [h.awake]; decide), frameArrives_cmd c b h]

/-- A command in its phase, with no long operation in its way, is carried out. -/
theorem checkCommand_carried {c : Cmd} {b : List Byte} {s : State} (hp : c.inPhase s.roster.phase = true)
    (hl : s.longOp = false ∨ c.duringLong = true) : s.checkCommand c b = s.carryOut c b := by
  unfold State.checkCommand
  rw [if_neg (by rw [hp]; decide), if_neg (by rcases hl with h | h <;> simp [h])]

/-- A command that the checks refuse is answered and has no other effect (R169). -/
theorem exec_refused {c : Cmd} {b : List Byte} {o : ReplyCode} {s : State} (h : Listening s) (ho : o ≠ .done)
    (hc : s.received.checkCommand c b = refuse o s.received) :
    exec (c.row b) s = .next (State.finish (s.received.replied c o [])) := by
  rw [exec_row c b h]
  unfold State.takeCommand
  have : (c == Cmd.restart && o == ReplyCode.done) = false := by simp [ho]
  simp only [hc, refuse, this]
  rfl

/-- Whatever a command answers but DONE and MISMATCH, it has had no effect and has no data (R169, R170). -/
theorem carryOut_refused {c : Cmd} {b : List Byte} {s : State} (h1 : (s.carryOut c b).1 ≠ .done)
    (h2 : (s.carryOut c b).1 ≠ .mismatch) : s.carryOut c b = refuse (s.carryOut c b).1 s := by
  revert h1 h2
  cases c <;> dsimp only [State.carryOut]
  · unfold State.doIdentify; split <;> simp [refuse]
  · unfold State.doRestart; split <;> simp [refuse]
  · unfold State.doRadioSet; split <;> simp [refuse]
  · unfold State.doFlagsRead; split <;> simp [refuse]
  · unfold State.doFlagsClear; split <;> (try split) <;> simp [refuse]
  · unfold State.doFlagsMask; split <;> simp [refuse]
  · unfold State.doCountersRead; split <;> simp [refuse]
  · unfold State.doClassWrite; split <;> simp [refuse]
  · unfold State.doLegWrite; split <;> simp [refuse]
  · unfold State.doRosterBegin; split <;> simp [refuse]
  · unfold State.doRosterLoad; repeat' split
    all_goals simp [refuse]
  · unfold State.doRosterCommit; repeat' split
    all_goals simp [refuse]
  · unfold State.doRosterEdit; repeat' split
    all_goals simp [refuse]
  · unfold State.doRosterQuery; repeat' split
    all_goals simp [refuse]
  · unfold State.doRosterDiscard; split <;> simp [refuse]
  · unfold State.doMissedRead; split <;> simp [refuse]
  · unfold State.doLegOpen; repeat' split
    all_goals simp [refuse]
  · unfold State.doLegClose; repeat' split
    all_goals simp [refuse]
  · unfold State.doLegStatus; split <;> simp [refuse]
  · unfold State.doRouteClose; split <;> simp [refuse]
  · unfold State.doJournalStatus; split <;> simp [refuse]
  · unfold State.doBatchSeal; split <;> simp [refuse]
  · unfold State.doJournalClear; repeat' split
    all_goals simp [refuse]
  · unfold State.doUploadStart; repeat' split
    all_goals simp [refuse]
  · unfold State.doBatchReceived; repeat' split
    all_goals simp [refuse]
  · unfold State.doUploadStop; split <;> simp [refuse]

@[simp] theorem received_roster (s : State) : s.received.roster = s.roster := rfl
@[simp] theorem received_longOp (s : State) : s.received.longOp = s.longOp := rfl

end Sys2Proof.Machine
end

