-- ==== Sys2Proof/Laws/RosterInv.lean ====
section
/-!
SUPPORT. The roster's invariant under each command's effect and each event that is not a run of small changes.
-/

namespace Sys2Proof.Machine

/-! ## Commands that leave the roster alone -/

theorem roster_chooseBatch (s : State) : s.chooseBatch.roster = s.roster := (chooseBatch_blocks s).1

theorem roster_nextErase (s : State) : s.nextErase.roster = s.roster := by
  unfold State.nextErase
  split <;> rfl

theorem roster_sealOpen (s : State) : s.sealOpen.roster = s.roster := by
  unfold State.sealOpen State.testLow
  split
  · rfl
  · split
    · dsimp only; split <;> rfl
    · rfl

theorem roster_identify (b : List Byte) (s : State) : (s.doIdentify b).2.2.roster = s.roster := by
  unfold State.doIdentify; split <;> rfl

theorem roster_restart (b : List Byte) (s : State) : (s.doRestart b).2.2.roster = s.roster := by
  unfold State.doRestart; split <;> rfl

theorem roster_flagsRead (b : List Byte) (s : State) : (s.doFlagsRead b).2.2.roster = s.roster := by
  unfold State.doFlagsRead; split <;> rfl

theorem roster_flagsClear (b : List Byte) (s : State) : (s.doFlagsClear b).2.2.roster = s.roster := by
  unfold State.doFlagsClear
  split
  · rfl
  · split <;> rfl

theorem roster_flagsMask (b : List Byte) (s : State) : (s.doFlagsMask b).2.2.roster = s.roster := by
  unfold State.doFlagsMask; split <;> rfl

theorem roster_countersRead (b : List Byte) (s : State) : (s.doCountersRead b).2.2.roster = s.roster := by
  unfold State.doCountersRead
  split
  · rfl
  · dsimp only; split <;> rfl

theorem roster_rosterQuery (b : List Byte) (s : State) : (s.doRosterQuery b).2.2.roster = s.roster := by
  unfold State.doRosterQuery
  split
  · rfl
  · split <;> rfl

theorem roster_missedRead (b : List Byte) (s : State) : (s.doMissedRead b).2.2.roster = s.roster := by
  unfold State.doMissedRead; split <;> rfl

theorem roster_legStatus (b : List Byte) (s : State) : (s.doLegStatus b).2.2.roster = s.roster := by
  unfold State.doLegStatus; split <;> rfl

theorem roster_journalStatus (b : List Byte) (s : State) : (s.doJournalStatus b).2.2.roster = s.roster := by
  unfold State.doJournalStatus; split <;> rfl

theorem roster_batchSeal (b : List Byte) (s : State) : (s.doBatchSeal b).2.2.roster = s.roster := by
  unfold State.doBatchSeal
  split
  · rfl
  · exact roster_sealOpen s

theorem roster_journalClear (b : List Byte) (s : State) : (s.doJournalClear b).2.2.roster = s.roster := by
  unfold State.doJournalClear
  split
  · rfl
  · split
    · rfl
    · split
      · exact roster_nextErase _
      · rfl

theorem roster_uploadStart (b : List Byte) (s : State) : (s.doUploadStart b).2.2.roster = s.roster := by
  unfold State.doUploadStart
  split
  · rfl
  · split
    · rfl
    · exact (roster_chooseBatch _).trans (roster_sealOpen s)

theorem roster_batchReceived (b : List Byte) (s : State) : (s.doBatchReceived b).2.2.roster = s.roster := by
  unfold State.doBatchReceived
  split
  · split
    · rfl
    · split
      · rfl
      · split
        · rfl
        · unfold State.mismatched
          dsimp only
          split <;> rfl
  · rfl

theorem roster_uploadStop (b : List Byte) (s : State) : (s.doUploadStop b).2.2.roster = s.roster := by
  unfold State.doUploadStop; split <;> rfl

/-! ## Commands that change it -/

theorem RosterInv.radioSet {s : State} (h : RosterInv s) (b : List Byte) : RosterInv (s.doRadioSet b).2.2 := by
  unfold State.doRadioSet
  split
  · exact h
  · exact (moves_offerLane _).rosterInv (h.congr rfl)

theorem RosterInv.classWrite {s : State} (h : RosterInv s) (b : List Byte) : RosterInv (s.doClassWrite b).2.2 := by
  unfold State.doClassWrite
  split
  · exact h
  · exact ⟨h.staged, h.live, h.chainOnce, h.chain, h.counts, h.empty, h.scan⟩

/-- Setting the pass code, the budget or the state of a leg keeps the invariant: its counts stay. -/
theorem RosterInv.updLeg {s : State} (h : RosterInv s) (l : Byte) (f : Leg → Leg)
    (hf : ∀ k, (f k).counts = k.counts) : RosterInv (s.updLeg l f) := by
  refine ⟨h.staged, h.live, h.chainOnce, h.chain, fun hq k => ?_, h.empty, h.scan⟩
  rw [leg_updLeg]
  split
  · rename_i hk; subst hk; rw [hf]; exact h.counts hq _
  · exact h.counts hq _

theorem RosterInv.foldl {α : Type} (f : State → α → State) (hf : ∀ t a, RosterInv t → RosterInv (f t a)) (as : List α)
    {s : State} (h : RosterInv s) : RosterInv (as.foldl f s) := by
  induction as generalizing s with
  | nil => exact h
  | cons a as ih => exact ih (hf s a h)

theorem RosterInv.legWrite {s : State} (h : RosterInv s) (b : List Byte) : RosterInv (s.doLegWrite b).2.2 := by
  unfold State.doLegWrite
  split
  · exact h
  · exact RosterInv.foldl _ (fun t w ht =>
      ht.updLeg w.1 (fun k => { k with passCode := w.2.1, budget := w.2.2 }) (fun _ => rfl)) _ h

/-- With no live entry nothing is on the chain. -/
theorem RosterInv.noChain {s : State} (h : RosterInv s) (he : s.roster.entries = []) : s.roster.missed = [] := by
  refine List.eq_nil_iff_forall_not_mem.mpr fun n hn => ?_
  obtain ⟨e, hm, _⟩ := (h.chain n).mp hn
  rw [he] at hm
  exact absurd hm (List.not_mem_nil)

/-- In NONE and LOADING no rebuild scan runs. -/
theorem RosterInv.noScan {s : State} (h : RosterInv s) (hp : s.roster.phase ≠ .committing) : s.roster.rebuild = none := by
  cases hr : s.roster.rebuild with
  | none => rfl
  | some r => exact absurd (h.scan (by rw [hr]; rfl)) hp

theorem RosterInv.rosterBegin {s : State} (h : RosterInv s) (hp : s.roster.phase = .none) (b : List Byte) :
    RosterInv (s.doRosterBegin b).2.2 := by
  unfold State.doRosterBegin
  split
  · exact h
  · have he := h.empty (.inl hp)
    refine ⟨.nil, h.live, h.chainOnce, h.chain, fun hq => ?_, fun _ => he, fun hq => ?_⟩
    · rcases hq with hq | hq <;> cases hq
    · have hq : s.roster.rebuild.isSome = true := hq
      rw [h.noScan (by rw [hp]; decide)] at hq
      cases hq

/-- The serials of sets that ascend from a serial lie above it and ascend strictly. -/
theorem ascendingFrom_pairwise {n : Nat} {ls : List Loaded} (h : ascendingFrom n ls = true) :
    (∀ l ∈ ls, n < l.serial) ∧ (ls.map Loaded.serial).Pairwise (· < ·) := by
  induction ls generalizing n with
  | nil => exact ⟨by simp, .nil⟩
  | cons l ls ih =>
    simp only [ascendingFrom, Bool.and_eq_true, decide_eq_true_eq] at h
    obtain ⟨h1, h2⟩ := ih h.2
    refine ⟨?_, ?_⟩
    · intro x hx
      rcases List.mem_cons.mp hx with rfl | hx
      · exact h.1
      · exact h.1.trans (h1 x hx)
    · rw [List.map_cons, List.pairwise_cons]
      refine ⟨fun m hm => ?_, h2⟩
      obtain ⟨x, hx, rfl⟩ := List.mem_map.mp hm
      exact h1 x hx

/-- No serial of an ascending list lies above its last. -/
theorem le_lastSerial {es : List Loaded} (h : (es.map Loaded.serial).Pairwise (· < ·)) {e : Loaded} (he : e ∈ es) :
    e.serial ≤ lastSerial es := by
  obtain ⟨x, hx⟩ : ∃ x, es.getLast? = some x := by
    cases hl : es.getLast? with
    | none => rw [List.getLast?_eq_none_iff] at hl; subst hl; cases he
    | some x => exact ⟨x, rfl⟩
  unfold lastSerial
  rw [hx]
  obtain ⟨front, rfl⟩ : ∃ front, es = front ++ [x] := by
    obtain ⟨ys, hys⟩ := List.getLast?_eq_some_iff.mp hx
    exact ⟨ys, hys⟩
  rcases List.mem_append.mp he with he | he
  · simp only [List.map_append, List.pairwise_append, List.mem_map] at h
    exact (h.2.2 _ ⟨e, he, rfl⟩ _ ⟨x, by simp, rfl⟩).le
  · rw [List.mem_singleton] at he
    subst he
    exact le_rfl

theorem RosterInv.rosterLoad {s : State} (h : RosterInv s) (b : List Byte) : RosterInv (s.doRosterLoad b).2.2 := by
  unfold State.doRosterLoad
  split
  · exact h
  · split
    · exact h
    · rename_i ha
      split
      · exact h
      · simp only [Bool.not_eq_eq_eq_not, Bool.not_true, Bool.not_eq_false] at ha
        obtain ⟨h1, h2⟩ := ascendingFrom_pairwise ha
        refine ⟨?_, h.live, h.chainOnce, h.chain, h.counts, h.empty, h.scan⟩
        dsimp only
        rw [List.map_append, List.pairwise_append]
        refine ⟨h.staged, h2, fun x hx y hy => ?_⟩
        obtain ⟨a, ha, rfl⟩ := List.mem_map.mp hx
        obtain ⟨c, hc, rfl⟩ := List.mem_map.mp hy
        have := le_lastSerial h.staged ha
        have := h1 c hc
        omega

theorem fresh_missed (l : Loaded) : l.fresh.st ≠ .missed := by
  unfold Loaded.fresh
  dsimp only
  split <;> decide

theorem RosterInv.rosterCommit {s : State} (h : RosterInv s) (hp : s.roster.phase = .loading) (b : List Byte) :
    RosterInv (s.doRosterCommit b).2.2 := by
  unfold State.doRosterCommit
  split
  · exact h
  · split
    · exact h
    · split
      · exact h
      · have hm := h.noChain (h.empty (.inr hp))
        refine ⟨.nil, ?_, h.chainOnce, fun n => ?_, fun hq => ?_, fun hq => ?_, fun _ => rfl⟩
        · dsimp only
          rw [List.map_map]
          exact h.staged
        · dsimp only
          rw [hm]
          simp only [List.not_mem_nil, false_iff, not_exists, not_and]
          intro e he _
          obtain ⟨l, _, rfl⟩ := List.mem_map.mp he
          exact fresh_missed l
        · rcases hq with hq | hq <;> cases hq
        · rcases hq with hq | hq <;> cases hq

theorem RosterInv.rosterDiscard {s : State} (h : RosterInv s) (hp : s.roster.phase = .loading ∨ s.roster.phase = .closed)
    (b : List Byte) : RosterInv (s.doRosterDiscard b).2.2 := by
  unfold State.doRosterDiscard
  split
  · exact h
  · refine ⟨.nil, .nil, .nil, fun n => ?_, fun hq => ?_, fun _ => rfl, fun hq => ?_⟩
    · simp [State.discardRoute]
    · rcases hq with hq | hq <;> cases hq
    · have hq : s.roster.rebuild.isSome = true := hq
      rw [h.noScan (by rcases hp with hp | hp <;> rw [hp] <;> decide)] at hq
      cases hq

theorem RosterInv.openRecord {s : State} (h : RosterInv s) (l : Byte) : RosterInv (s.openRecord l) :=
  (h.updLeg l (fun k => { k with st := .opened }) (fun _ => rfl)).congr rfl

theorem RosterInv.openedLeg {s : State} (h : RosterInv s) (l : Byte) : RosterInv (s.openedLeg l) := by
  have h1 := (moves_returnMissed l (s.openRecord l)).rosterInv (h.openRecord l)
  refine h1.mapEntries (fun e => if e.loaded.leg = l ∧ e.st.attemptsReset then { e with attempts := 0 } else e)
    (fun e => ?_) rfl
  split <;> exact ⟨rfl, rfl⟩

theorem RosterInv.legOpen {s : State} (h : RosterInv s) (b : List Byte) : RosterInv (s.doLegOpen b).2.2 := by
  unfold State.doLegOpen
  split
  · exact h
  · split
    · exact h
    · exact (moves_afterOpening _).rosterInv (h.openedLeg _)

theorem RosterInv.passOpenLeg {s : State} (h : RosterInv s) (l : Byte) : RosterInv (s.passOpenLeg l) :=
  (h.updLeg l (fun k => { k with st := .passed }) (fun _ => rfl)).congr rfl

theorem RosterInv.legClosed {s : State} (h : RosterInv s) (l : Byte) (f : Bool) :
    RosterInv ((s.closedLeg l f).afterClosing l) :=
  (moves_afterClosing l _).rosterInv ((moves_closedLeg l f s).rosterInv (h.passOpenLeg l))

theorem RosterInv.legClose {s : State} (h : RosterInv s) (b : List Byte) : RosterInv (s.doLegClose b).2.2 := by
  unfold State.doLegClose
  split
  · exact h
  · split
    · exact h.legClosed _ _
    · exact h

theorem RosterInv.closeOpenLeg {s : State} (h : RosterInv s) : RosterInv s.closeOpenLeg := by
  unfold State.closeOpenLeg
  split
  · exact h
  · exact h.legClosed _ _

/-- Passing every leg keeps every leg's counts. -/
theorem leg_mapPassed (s : State) (l : Byte) :
    ({ s with roster.legs := s.roster.legs.map fun k => { k with st := .passed } } : State).leg l =
      { s.leg l with st := .passed } := by
  simp only [State.leg, Vector.getElem_map]

theorem RosterInv.passRoute {s : State} (h : RosterInv s) (hp : s.roster.phase = .active) : RosterInv s.passRoute := by
  have he : ({ s with roster.legs := s.roster.legs.map fun k => { k with st := .passed } } : State).sealOpen.roster =
      { s.roster with legs := s.roster.legs.map fun k => { k with st := .passed } } := roster_sealOpen _
  have e : s.passRoute.roster =
      { s.roster with legs := s.roster.legs.map fun k => { k with st := .passed }, phase := .closed } := by
    unfold State.passRoute
    dsimp only
    rw [he]
  refine RosterInv.congr (s := { s with roster := _ }) ?_ e
  refine ⟨h.staged, h.live, h.chainOnce, h.chain, fun _ l => ?_, fun hq => ?_, fun hq => ?_⟩
  · have := h.counts (.inl hp) l
    have h2 := leg_mapPassed s l
    simp only [State.leg] at h2 this ⊢
    rw [h2]
    exact this
  · rcases hq with hq | hq <;> cases hq
  · have hq : s.roster.rebuild.isSome = true := hq
    rw [h.noScan (by rw [hp]; decide)] at hq
    cases hq

theorem phase_closeOpenLeg (s : State) : s.closeOpenLeg.roster.phase = s.roster.phase := by
  unfold State.closeOpenLeg
  split
  · rfl
  · rw [(moves_afterClosing _ _).phase, (moves_closedLeg _ _ s).phase]
    rfl

theorem RosterInv.routeClose {s : State} (h : RosterInv s) (hp : s.roster.phase = .active) (b : List Byte) :
    RosterInv (s.doRouteClose b).2.2 := by
  unfold State.doRouteClose
  split
  · exact h
  · have h1 := ((moves_forceCloseAll s).rosterInv h).closeOpenLeg
    have h2 := (moves_endConfirmations (fun _ => true) true _).rosterInv ((moves_missRoute _).rosterInv h1)
    refine h2.passRoute ?_
    rw [(moves_endConfirmations _ _ _).phase, (moves_missRoute _).phase, phase_closeOpenLeg,
      (moves_forceCloseAll s).phase, hp]

/-- No command breaks the roster's invariant. -/
theorem RosterInv.checkCommand {s : State} (h : RosterInv s) (c : Cmd) (b : List Byte) :
    RosterInv (s.checkCommand c b).2.2 := by
  unfold State.checkCommand
  split
  · exact h
  · rename_i hp
    split
    · exact h
    · simp only [Bool.not_eq_eq_eq_not, Bool.not_true, Bool.not_eq_false] at hp
      cases c
      case identify => exact h.congr (roster_identify b s)
      case restart => exact h.congr (roster_restart b s)
      case radioSet => exact h.radioSet b
      case flagsRead => exact h.congr (roster_flagsRead b s)
      case flagsClear => exact h.congr (roster_flagsClear b s)
      case flagsMask => exact h.congr (roster_flagsMask b s)
      case countersRead => exact h.congr (roster_countersRead b s)
      case classWrite => exact h.classWrite b
      case legWrite => exact h.legWrite b
      case rosterBegin => exact h.rosterBegin (by simpa [Cmd.inPhase] using hp) b
      case rosterLoad => exact h.rosterLoad b
      case rosterCommit => exact h.rosterCommit (by simpa [Cmd.inPhase] using hp) b
      case rosterEdit => exact (moves_rosterEdit b s).rosterInv h
      case rosterQuery => exact h.congr (roster_rosterQuery b s)
      case rosterDiscard => exact h.rosterDiscard (by simpa [Cmd.inPhase] using hp) b
      case missedRead => exact h.congr (roster_missedRead b s)
      case legOpen => exact h.legOpen b
      case legClose => exact h.legClose b
      case legStatus => exact h.congr (roster_legStatus b s)
      case routeClose => exact h.routeClose (by simpa [Cmd.inPhase] using hp) b
      case journalStatus => exact h.congr (roster_journalStatus b s)
      case batchSeal => exact h.congr (roster_batchSeal b s)
      case journalClear => exact h.congr (roster_journalClear b s)
      case uploadStart => exact h.congr (roster_uploadStart b s)
      case batchReceived => exact h.congr (roster_batchReceived b s)
      case uploadStop => exact h.congr (roster_uploadStop b s)

theorem RosterInv.frameArrives {s : State} (h : RosterInv s) (k : Byte) (b : List Byte) (g : Bool) :
    RosterInv (s.frameArrives k b g) := by
  have h0 : RosterInv s.received := h.congr rfl
  rcases frameArrives_cases k b g s with ⟨_, e⟩ | ⟨_, e⟩ | ⟨_, u, _, _, _, _, _, e, hu⟩
  · rw [e]; exact h0
  · rw [e]; exact h0.congr rfl
  · rw [e]
    refine RosterInv.congr (s := u) ?_ rfl
    rcases hu with rfl | rfl | ⟨c, _, _, rfl⟩
    · exact h0.congr rfl
    · exact h0
    · exact h0.checkCommand c b

/-! ## The rebuild scan -/

/-- What the scan's records may do to the roster: the invariant in COMMITTING, with nothing said of counts. -/
def Scanning (s : State) : Prop := RosterInv s ∧ s.roster.phase = .committing

theorem Scanning.congr {s t : State} (h : Scanning s) (e : t.roster = s.roster) : Scanning t :=
  ⟨h.1.congr e, by rw [e]; exact h.2⟩

theorem Scanning.setRebuild {s : State} (h : Scanning s) (rb : Rebuild) :
    Scanning { s with roster.rebuild := some rb } :=
  ⟨⟨h.1.staged, h.1.live, h.1.chainOnce, h.1.chain, h.1.counts, h.1.empty, fun _ => h.2⟩, h.2⟩

theorem Scanning.placeEntry {s : State} (h : Scanning s) (n : Nat) (st : EntryState) : Scanning (s.placeEntry n st) := by
  refine ⟨h.1.placeEntry n st (by rw [h.2]; decide), ?_⟩
  unfold State.placeEntry
  split
  · exact h.2
  · exact h.2

theorem Scanning.applyReading {s : State} (h : Scanning s) (n : Nat) (bs : List Byte) : Scanning (s.applyReading n bs) := by
  unfold State.applyReading
  refine Scanning.placeEntry ⟨h.1.updEntry n _ (by simp), h.2⟩ _ _

theorem Scanning.applyMiss {s : State} (h : Scanning s) (n : Nat) (bs : List Byte) : Scanning (s.applyMiss n bs) := by
  unfold State.applyMiss
  have h1 : Scanning (match s.entry? n with
      | some e => if e.st = .pending ∨ e.st = .missed then s.placeEntry n .missed else s
      | none => s) := by
    split
    · split
      · exact h.placeEntry _ _
      · exact h
    · exact h
  dsimp only
  split
  · exact ⟨h1.1.updLeg _ _ (fun _ => rfl), h1.2⟩
  · exact h1

theorem Scanning.offerRecord {s : State} (h : Scanning s) (bs : List Byte) : Scanning (s.offerRecord bs) := by
  unfold State.offerRecord
  split
  · exact h.congr rfl
  · split
    · exact h
    · unfold State.applyRecord
      dsimp only
      split
      · exact h.congr rfl
      · split
        · exact h.applyReading _ _
        · split
          · exact h.applyMiss _ _
          · exact h

theorem leg_recount (s : State) (l : Byte) : (s.recount.leg l).counts = countLeg s.roster.entries l := by
  unfold State.recount State.leg
  dsimp only
  rw [Vector.getElem_ofFn]
  simp

theorem Scanning.placeAll {s : State} (h : Scanning s) (st : EntryState) (ns : List Nat) :
    Scanning (ns.foldl (fun t n => t.placeEntry n st) s) := by
  induction ns generalizing s with
  | nil => exact h
  | cons n ns ih => exact ih (h.placeEntry n st)

/-- Counting anew changes nothing but the legs. -/
theorem roster_recount (s : State) : s.recount.roster = { s.roster with legs := s.recount.roster.legs } := by
  unfold State.recount
  rfl

theorem Scanning.rebuildEnds {s : State} (h : Scanning s) : RosterInv s.rebuildEnds := by
  have h1 := h.placeAll .missed (s.serialsWhere fun e => e.st == .pending && (s.leg e.loaded.leg).st == .passed)
  unfold State.rebuildEnds
  dsimp only
  generalize List.foldl _ _ _ = u at h1 ⊢
  have e := roster_recount u
  have el := leg_recount u
  generalize u.recount = v at e el ⊢
  let r : Roster :=
    { u.roster with legs := v.roster.legs, phase := .active, routeClock := 0, routeMs := 0, rebuild := none }
  refine RosterInv.congr (s := { v with roster := r }) ?_ ?_
  swap
  · dsimp only [State.setFlag]
    rw [e]
  refine ⟨h1.1.staged, h1.1.live, h1.1.chainOnce, h1.1.chain, fun _ l => el l, fun hq => ?_, fun hq => ?_⟩
  · rcases hq with hq | hq <;> cases hq
  · cases hq

theorem Scanning.rebuildFails {s : State} (h : Scanning s) : RosterInv s.rebuildFails := by
  refine ⟨?_, .nil, .nil, fun n => ?_, fun hq => ?_, fun _ => rfl, fun hq => ?_⟩
  · simp only [State.rebuildFails, State.setFlag, List.map_map]
    exact h.1.live
  · simp [State.rebuildFails, State.setFlag]
  · rcases hq with hq | hq <;> cases hq
  · cases hq

theorem Scanning.rebuildRead {s : State} (h : Scanning s) (rb : Rebuild) (a n : Nat) :
    RosterInv (s.rebuildRead rb a n) := by
  have h1 := (h.setRebuild rb).1
  exact h1.congr rfl

theorem Scanning.rebuildOpen {s : State} (h : Scanning s) (rb : Rebuild) : RosterInv (s.rebuildOpen rb) := by
  unfold State.rebuildOpen
  split
  · split
    · exact h.rebuildRead _ _ _
    · exact h.rebuildEnds
  · exact h.rebuildEnds

theorem Scanning.rebuildSlots {s : State} (h : Scanning s) (rb : Rebuild) : RosterInv (s.rebuildSlots rb) := by
  unfold State.rebuildSlots
  split
  · exact h.rebuildRead _ _ _
  · exact h.rebuildOpen rb

theorem Scanning.rebuildBatchDone {s : State} (h : Scanning s) (rb : Rebuild) (last : Bool) :
    RosterInv (s.rebuildBatchDone rb last) := by
  unfold State.rebuildBatchDone
  split
  · exact h.rebuildEnds
  · exact h.rebuildSlots rb

theorem Scanning.rebuildAt {s : State} (h : Scanning s) (rb : Rebuild) (a z : Nat) (last : Bool) :
    RosterInv (s.rebuildAt rb a z last) := by
  unfold State.rebuildAt
  split
  · exact h.rebuildRead _ _ _
  · exact h.rebuildBatchDone rb last

theorem Scanning.rebuildReadGood {s : State} (h : Scanning s) (rb : Rebuild) (bs : List Byte) :
    RosterInv (s.rebuildReadGood rb bs) := by
  unfold State.rebuildReadGood
  split
  · exact h.1
  · unfold State.rebuildSlotRead
    split
    · exact h.rebuildSlots _
    · dsimp only
      split
      · exact h.rebuildSlots _
      · exact h.rebuildAt _ _ _ _
  · unfold State.rebuildRecordRead
    dsimp only
    split
    · exact (h.offerRecord _).rebuildAt _ _ _ _
    · have h1 : Scanning s.countBadRecord := h.congr rfl
      exact h1.rebuildBatchDone _ _

theorem RosterInv.rebuildReadEnded {s : State} (h : RosterInv s) (g : Bool) : RosterInv (s.rebuildReadEnded g) := by
  unfold State.rebuildReadEnded
  split
  · rename_i hr
    have h1 : Scanning s.freePort := ⟨h.congr rfl, h.scan (by rw [hr]; rfl)⟩
    split
    · exact h1.rebuildReadGood _ _
    · exact h1.rebuildFails
  · exact h

theorem RosterInv.rebuildBegins {s : State} (h : RosterInv s) : RosterInv s.rebuildBegins := by
  unfold State.rebuildBegins
  split
  · rename_i hr
    split
    · exact Scanning.rebuildSlots ⟨h, h.scan (by rw [hr]; rfl)⟩ _
    · exact h
  · exact h

end Sys2Proof.Machine
end

