-- ==== Sys2Proof/Laws/Confirm.lean ====
section
/-!
SUPPORT. What an unanswered end and a miss do to the entries (R94, R113): the entry of their own meter alone, and the
pool not at all. What a fold of them over distinct serials leaves (steps 2 and 3 of R114).
-/

namespace Sys2Proof.Machine

variable {s : State} {n k : Nat} {e : Entry}

/-! ## The entry of a serial -/

theorem entry?_of_entries {t : State} (n : Nat) (h : t.roster.entries = s.roster.entries) : t.entry? n = s.entry? n := by
  unfold State.entry?; rw [h]

theorem entry?_updEntry_self (f : Entry → Entry) (hf : ∀ x, (f x).loaded = x.loaded) (h : s.entry? n = some e) :
    (s.updEntry n f).entry? n = some (f e) := by
  unfold State.entry? State.updEntry at *
  simp only
  generalize s.roster.entries = es at h
  induction es with
  | nil => simp at h
  | cons a as ih =>
    by_cases ha : a.loaded.serial = n
    · simp [ha] at h; subst h; simp [ha, hf]
    · simp [ha] at h; simp [ha]; simpa using ih (by simpa using h)

theorem entry?_updEntry_other (f : Entry → Entry) (hf : ∀ x, (f x).loaded = x.loaded) (h : k ≠ n) :
    (s.updEntry n f).entry? k = s.entry? k := by
  unfold State.entry? State.updEntry
  simp only
  generalize s.roster.entries = es
  induction es with
  | nil => rfl
  | cons a as ih =>
    by_cases ha : a.loaded.serial = n
    · have hk : a.loaded.serial ≠ k := by omega
      simp only [List.map_cons, if_pos ha]
      rw [List.find?_cons_of_neg (by simp [hf, hk]), List.find?_cons_of_neg (by simp [hk])]
      exact ih
    · simp only [List.map_cons, if_neg ha]
      by_cases hk : a.loaded.serial = k
      · rw [List.find?_cons_of_pos (by simp [hk]), List.find?_cons_of_pos (by simp [hk])]
      · rw [List.find?_cons_of_neg (by simp [hk]), List.find?_cons_of_neg (by simp [hk])]
        exact ih

theorem entry?_moveTo_self (st : EntryState) (h : s.entry? n = some e) :
    (s.moveTo n st).entry? n = some { e with st := st } := by
  unfold State.moveTo
  simp only [h]
  refine (entry?_of_entries (s := s.placeEntry n st) n rfl).trans ?_
  unfold State.placeEntry
  simp only [h]
  exact (entry?_of_entries (s := s.updEntry n fun x => { x with st := st }) n rfl).trans
    (entry?_updEntry_self _ (fun _ => rfl) h)

theorem entry?_moveTo_other (st : EntryState) (h : k ≠ n) : (s.moveTo n st).entry? k = s.entry? k := by
  unfold State.moveTo
  split
  · rfl
  · rename_i e he
    refine (entry?_of_entries (s := s.placeEntry n st) k rfl).trans ?_
    unfold State.placeEntry
    simp only [he]
    exact (entry?_of_entries (s := s.updEntry n fun x => { x with st := st }) k rfl).trans
      (entry?_updEntry_other _ (fun _ => rfl) h)

theorem moveTo_pool (st : EntryState) : (s.moveTo n st).pool = s.pool := by
  unfold State.moveTo State.placeEntry
  split
  · rfl
  · simp only [*]; rfl

/-! ## Notices, the settled test and offers leave the roster and the pool -/

theorem requestNotice_blocks (x : Notice) :
    (s.requestNotice x).roster = s.roster ∧ (s.requestNotice x).pool = s.pool := by
  unfold State.requestNotice; split <;> exact ⟨rfl, rfl⟩

theorem settleTest_blocks : s.settleTest.roster = s.roster ∧ s.settleTest.pool = s.pool := by
  unfold State.settleTest
  split
  · exact ⟨rfl, rfl⟩
  · split
    · exact requestNotice_blocks _
    · exact ⟨rfl, rfl⟩

theorem append_blocks (bs : List Byte) :
    (s.append bs).roster = s.roster ∧ (s.append bs).pool = s.pool ∧ (s.append bs).link.notices = s.link.notices := by
  unfold State.append State.sealFull State.sealOpen State.testLow State.joinBuffer
  simp only
  repeat' split
  all_goals exact ⟨rfl, rfl, rfl⟩

theorem offer_blocks (r : JournalRecord) (w : WaitEntry) :
    (s.offer r w).2.roster = s.roster ∧ (s.offer r w).2.pool = s.pool ∧
      (s.offer r w).2.link.notices = s.link.notices := by
  unfold State.offer State.joinWait State.refuseByState State.refuseForSpace State.countRefusals
  simp only
  repeat' split
  all_goals first | exact append_blocks _ | exact ⟨rfl, rfl, rfl⟩

/-! ## A miss -/

/-- A miss leaves every other entry and the pool (R113). -/
theorem missMeter_other (r : MissReason) (h : k ≠ n) :
    (s.missMeter n r).entry? k = s.entry? k ∧ (s.missMeter n r).pool = s.pool := by
  unfold State.missMeter
  split
  · exact ⟨rfl, rfl⟩
  · simp only
    refine ⟨(entry?_of_entries k (congrArg Roster.entries settleTest_blocks.1)).trans ?_,
      settleTest_blocks.2.trans ?_⟩
    · exact ((entry?_of_entries k (congrArg Roster.entries (requestNotice_blocks _).1)).trans
        (entry?_of_entries k (congrArg Roster.entries (offer_blocks _ _).1))).trans (entry?_moveTo_other _ h)
    · exact (requestNotice_blocks _).2.trans ((offer_blocks _ _).2.1.trans (moveTo_pool _))

/-- Missing the waiting meters of a list leaves every other entry and the pool. -/
theorem missFold_other (r : MissReason) (ns : List Nat) (s : State) :
    (ns.foldl (fun t n => t.missWaiting n r) s).pool = s.pool ∧
      ∀ k, k ∉ ns → (ns.foldl (fun t n => t.missWaiting n r) s).entry? k = s.entry? k := by
  induction ns generalizing s with
  | nil => exact ⟨rfl, fun _ _ => rfl⟩
  | cons n ns ih =>
    obtain ⟨hp, he⟩ := ih (s.missWaiting n r)
    have other (k : Nat) (h : k ≠ n) := missMeter_other (s := { s with sched.sweeps := s.sched.sweeps.erase n }) r h
    refine ⟨hp.trans (other (n + 1) (by omega)).2, fun k hk => ?_⟩
    simp only [List.mem_cons, not_or] at hk
    exact (he k hk.2).trans (other k hk.1).1

/-! ## An unanswered end -/

/-- What an unanswered end makes of its meter's entry (R94): in VERIFY with its window stopped, or READ. -/
def EndedEntry (forced : Bool) (e x : Entry) : Prop :=
  forced = false ∧ x = { e with window := none } ∨
    x = { e with st := .read, refStatus := e.firstStatus, confirm := none, window := none }

/-- The end of a confirmation leaves every other entry and the pool (R93, R94). -/
theorem endConfirmation_entries (o : TamperOutcome) (c : BitVec 8) (ref : Byte) (h : s.entry? n = some e) :
    (s.endConfirmation n o c ref).pool = s.pool ∧
      (∀ k, k ≠ n → (s.endConfirmation n o c ref).entry? k = s.entry? k) ∧
      (s.endConfirmation n o c ref).entry? n =
        some { e with st := .read, refStatus := ref, confirm := none, window := none } := by
  have tamper (t : State) (v : Nat) : (t.tamperNotice n o c v).roster = t.roster ∧ (t.tamperNotice n o c v).pool = t.pool := by
    unfold State.tamperNotice
    simp only
    split
    · exact requestNotice_blocks _
    · exact requestNotice_blocks _
  let f : Entry → Entry := fun x => { x with refStatus := ref, confirm := none, window := none }
  unfold State.endConfirmation
  simp only [h]
  have back (k : Nat) := entry?_of_entries k (congrArg Roster.entries
    ((settleTest_blocks (s := ((s.updEntry n f).moveTo n .read).tamperNotice n o c e.totalScore)).1.trans (tamper _ _).1))
  exact ⟨settleTest_blocks.2.trans ((tamper _ _).2.trans (moveTo_pool _)),
    fun k hk => (back k).trans ((entry?_moveTo_other _ hk).trans (entry?_updEntry_other f (fun _ => rfl) hk)),
    (back n).trans (entry?_moveTo_self .read (entry?_updEntry_self f (fun _ => rfl) h))⟩

/-- An unanswered end leaves the pool, every other entry, and its own meter's with the candidate occupied; else its meter
ends in VERIFY with no window, or READ, READ when the end is forced (R94). -/
theorem endUnanswered_entries (s : State) (n : Nat) (forced : Bool) :
    (s.endUnanswered n forced).pool = s.pool ∧
      (∀ k, k ≠ n → (s.endUnanswered n forced).entry? k = s.entry? k) ∧
      (∀ e, s.entry? n = some e → e.st = .verify →
        ((s.candOf? n).isSome → (s.endUnanswered n forced).entry? n = some e) ∧
        (s.candOf? n = none → ∃ x, (s.endUnanswered n forced).entry? n = some x ∧ EndedEntry forced e x)) := by
  unfold State.endUnanswered
  split
  · rename_i h
    exact ⟨rfl, fun _ _ => rfl, fun e he => by simp [h] at he⟩
  · rename_i e he
    split
    · rename_i hc
      simp only
      generalize hu : State.markHeard n (State.stopWindow n { s with sched.confirms := s.sched.confirms.erase n }) = u
      have hp : u.pool = s.pool := by rw [← hu]; rfl
      have hr : u.roster = (s.updEntry n fun x => { x with window := none }).roster := by rw [← hu]; rfl
      have ho := offer_blocks (s := u) (.confirm (s.unansweredRecord e)) (.held (.confirm (s.unansweredRecord e)))
      unfold State.offerHeld
      generalize u.offer (.confirm (s.unansweredRecord e)) (.held (.confirm (s.unansweredRecord e))) = q at ho
      obtain ⟨a, v⟩ := q
      simp only at ho
      have hv (k : Nat) := (entry?_of_entries k (congrArg Roster.entries ho.1)).trans
        (entry?_of_entries k (congrArg Roster.entries hr))
      have hn : v.entry? n = some { e with window := none } := (hv n).trans (entry?_updEntry_self _ (fun _ => rfl) he)
      have hk (k : Nat) (h : k ≠ n) : v.entry? k = s.entry? k :=
        (hv k).trans (entry?_updEntry_other _ (fun _ => rfl) h)
      have close (t : State) (x : Entry) (h1 : t.pool = s.pool) (h2 : ∀ k, k ≠ n → t.entry? k = s.entry? k)
          (h3 : t.entry? n = some x) (h4 : EndedEntry forced e x) :
          t.pool = s.pool ∧ (∀ k, k ≠ n → t.entry? k = s.entry? k) ∧
            (∀ e, s.entry? n = some e → e.st = .verify →
              ((s.candOf? n).isSome → t.entry? n = some e) ∧
              (s.candOf? n = none → ∃ x, t.entry? n = some x ∧ EndedEntry forced e x)) := by
        refine ⟨h1, h2, fun e' he' _ => ⟨fun h => ?_, fun _ => ?_⟩⟩
        · rw [hc.2] at h; simp at h
        · rw [he] at he'; cases he'; exact ⟨x, h3, h4⟩
      have ended := endConfirmation_entries .unconfirmed 0 e.firstStatus hn
      have read := close _ _ (ended.1.trans (ho.2.1.trans hp)) (fun k h => (ended.2.1 k h).trans (hk k h)) ended.2.2
        (.inr rfl)
      split
      · rename_i t heq
        cases heq
        cases forced with
        | true => exact read
        | false => exact close v _ (ho.2.1.trans hp) hk hn (.inl ⟨rfl, rfl⟩)
      · rename_i heq
        cases heq
        exact read
    · rename_i hc
      refine ⟨rfl, fun _ _ => rfl, fun e' he' hs => ?_⟩
      rw [he] at he'; cases he'
      exact ⟨fun _ => he, fun h => absurd ⟨hs, h⟩ hc⟩

/-- The unanswered ends of a list of distinct serials, one after the other. -/
theorem endFold_entries (forced : Bool) (ns : List Nat) (hd : ns.Nodup) (s : State) :
    (ns.foldl (fun t n => t.endUnanswered n forced) s).pool = s.pool ∧
      (∀ k, k ∉ ns → (ns.foldl (fun t n => t.endUnanswered n forced) s).entry? k = s.entry? k) ∧
      (∀ n ∈ ns, ∀ e, s.entry? n = some e → e.st = .verify →
        ((s.candOf? n).isSome → (ns.foldl (fun t n => t.endUnanswered n forced) s).entry? n = some e) ∧
        (s.candOf? n = none →
          ∃ x, (ns.foldl (fun t n => t.endUnanswered n forced) s).entry? n = some x ∧ EndedEntry forced e x)) := by
  induction ns generalizing s with
  | nil => exact ⟨rfl, fun _ _ => rfl, by simp⟩
  | cons n ns ih =>
    obtain ⟨hn, hd⟩ := List.nodup_cons.mp hd
    obtain ⟨a1, a2, a3⟩ := ih hd (s.endUnanswered n forced)
    obtain ⟨b1, b2, b3⟩ := endUnanswered_entries s n forced
    refine ⟨a1.trans b1, fun k hk => ?_, fun k hk e he => ?_⟩
    · simp only [List.mem_cons, not_or] at hk
      exact (a2 k hk.2).trans (b2 k hk.1)
    · by_cases hkn : k = n
      · subst hkn
        simp only [List.foldl_cons]
        rw [a2 k hn]
        exact b3 e he
      · have := a3 k ((List.mem_cons.mp hk).resolve_left hkn) e ((b2 k hkn).trans he)
        rw [show (s.endUnanswered n forced).candOf? k = s.candOf? k by unfold State.candOf?; rw [b1]] at this
        exact this

/-! ## Entries and serials of an ordered roster -/

theorem RosterInv.entry?_of_mem (h : RosterInv s) (he : e ∈ s.roster.entries) :
    s.entry? e.loaded.serial = some e := by
  obtain ⟨a, b, hs, ha, -⟩ := entries_split h.live he
  unfold State.entry?
  rw [hs, List.find?_append, List.find?_eq_none.mpr (fun x hx => by simpa using ha x hx)]
  simp

theorem mem_serialsWhere {p : Entry → Bool} :
    n ∈ s.serialsWhere p ↔ ∃ e ∈ s.roster.entries, p e = true ∧ e.loaded.serial = n := by
  unfold State.serialsWhere; simp [and_assoc]

theorem RosterInv.serialsWhere_nodup (h : RosterInv s) (p : Entry → Bool) : (s.serialsWhere p).Nodup :=
  (h.live.sublist (List.filter_sublist.map _)).imp fun h => Nat.ne_of_lt h

end Sys2Proof.Machine
end

