-- ==== Sys2Proof/WellFormed.lean ====
section
/-!
DEFINITION. Which commands the surroundings can send: bodies that fit a frame, serials that a meter can have, and
bytes that a failed flash operation can have left. `exec` gives a command outside these bounds a meaning all the same.
-/

namespace Sys2Proof

/-- A command body fits a frame: 0..250 bytes (10.1). -/
def bodyFits (b : List Byte) : Bool := decide (b.length ≤ 250)

/-- A meter serial: 1..0xFFFFFFFE (R5). -/
def isSerial (n : Nat) : Bool := decide (1 ≤ n) && decide (n ≤ 0xFFFFFFFE)

/-- A failed operation leaves at most the bytes it covered (R127; log 9). -/
def FlashEnd.fits (most : Nat) : FlashEnd → Bool
  | .good => true
  | .failed left => decide (left.length ≤ most)

/-- Well-formed commands, row by row. -/
def Instr.wellFormed : Instr → Bool
  | .resetAssert => true
  | .resetRelease _ => true
  | .identify b => bodyFits b
  | .restart b => bodyFits b
  | .radioSet b => bodyFits b
  | .flagsRead b => bodyFits b
  | .flagsClear b => bodyFits b
  | .flagsMask b => bodyFits b
  | .countersRead b => bodyFits b
  | .classWrite b => bodyFits b
  | .legWrite b => bodyFits b
  | .rosterBegin b => bodyFits b
  | .rosterLoad b => bodyFits b
  | .rosterCommit b => bodyFits b
  | .rosterEdit b => bodyFits b
  | .rosterQuery b => bodyFits b
  | .missedRead b => bodyFits b
  | .rosterDiscard b => bodyFits b
  | .legOpen b => bodyFits b
  | .legClose b => bodyFits b
  | .legStatus b => bodyFits b
  | .routeClose b => bodyFits b
  | .journalStatus b => bodyFits b
  | .batchSeal b => bodyFits b
  | .journalClear b => bodyFits b
  | .uploadStart b => bodyFits b
  | .batchReceived b => bodyFits b
  | .uploadStop b => bodyFits b
  | .linkFrameRefused _ b _ => bodyFits b
  | .linkOverrun _ b _ => bodyFits b
  | .linkByteReceived _ => true
  | .linkFramingError => true
  | .gapTimerExpiry => true
  | .outboundFrameSent _ => true
  | .laneStart _ => true
  | .laneRecordTaken _ => true
  | .holdExpiry serial => isSerial serial
  | .passTimerExpiry => true
  | .dutyRefill => true
  | .transmitDone => true
  | .transmitTimeout => true
  | .sweepWindowEnd serial => isSerial serial
  | .confirmWindowEnd serial => isSerial serial
  | .pageProgramEnd => true
  | .indexProgramEnd => true
  | .programFailure left => decide (left.length ≤ 256)
  | .markProgramEnd e => e.fits 1
  | .sectorEraseEnd e => e.fits 65536
  | .rebuildScanStart => true
  | .rebuildReadEnd _ => true
  | .flashReady e => e.fits 65536
  | .flashReadyTimeout => true
  | .identificationResponse _ _ _ => true
  | .identificationTimeout => true
  | .recoveryReadEnd _ => true
  | .recoveryIndexProgramEnd e => e.fits 16
  | .uploadSlotReadEnd => true
  | .uploadDataReadEnd => true
  | .uploadReadFailure => true
  | .ackTimerExpiry => true
  | .laneByteReceived _ _ => true

end Sys2Proof
end

