-- ==== Sys2Proof/Laws/PerInstr.lean ====
section
/-!
SUPPORT. Statements for every command as syntax, one lemma a row: a well-formed command that carries a body carries
one that fits a frame (10.1), so that the surroundings can send it.
-/

namespace Sys2Proof.Laws.Sendable

/-- The body of a command that carries one. -/
def body? : Instr → Option (List Byte)
  | .resetAssert => none
  | .resetRelease _ => none
  | .identify b => some b
  | .restart b => some b
  | .radioSet b => some b
  | .flagsRead b => some b
  | .flagsClear b => some b
  | .flagsMask b => some b
  | .countersRead b => some b
  | .classWrite b => some b
  | .legWrite b => some b
  | .rosterBegin b => some b
  | .rosterLoad b => some b
  | .rosterCommit b => some b
  | .rosterEdit b => some b
  | .rosterQuery b => some b
  | .missedRead b => some b
  | .rosterDiscard b => some b
  | .legOpen b => some b
  | .legClose b => some b
  | .legStatus b => some b
  | .routeClose b => some b
  | .journalStatus b => some b
  | .batchSeal b => some b
  | .journalClear b => some b
  | .uploadStart b => some b
  | .batchReceived b => some b
  | .uploadStop b => some b
  | .linkFrameRefused _ b _ => some b
  | .linkOverrun _ b _ => some b
  | .linkByteReceived _ => none
  | .linkFramingError => none
  | .gapTimerExpiry => none
  | .outboundFrameSent _ => none
  | .laneStart _ => none
  | .laneRecordTaken _ => none
  | .holdExpiry _ => none
  | .passTimerExpiry => none
  | .dutyRefill => none
  | .transmitDone => none
  | .transmitTimeout => none
  | .sweepWindowEnd _ => none
  | .confirmWindowEnd _ => none
  | .pageProgramEnd => none
  | .indexProgramEnd => none
  | .programFailure _ => none
  | .markProgramEnd _ => none
  | .sectorEraseEnd _ => none
  | .rebuildScanStart => none
  | .rebuildReadEnd _ => none
  | .flashReady _ => none
  | .flashReadyTimeout => none
  | .identificationResponse _ _ _ => none
  | .identificationTimeout => none
  | .recoveryReadEnd _ => none
  | .recoveryIndexProgramEnd _ => none
  | .uploadSlotReadEnd => none
  | .uploadDataReadEnd => none
  | .uploadReadFailure => none
  | .ackTimerExpiry => none
  | .laneByteReceived _ _ => none

/-- A well-formed command's body is a body of a frame. -/
def Statement (i : Instr) : Prop := i.wellFormed = true → ∀ b, body? i = some b → b.length + 1 ≤ 251

theorem resetAssert : Statement .resetAssert := fun _ _ hb => nomatch hb

theorem resetRelease (straps : BitVec 2) : Statement (.resetRelease straps) := fun _ _ hb => nomatch hb

theorem identify (body : List Byte) : Statement (.identify body) := by
  intro h b hb
  simp only [Instr.wellFormed, bodyFits, decide_eq_true_eq] at h
  cases hb
  omega

theorem restart (body : List Byte) : Statement (.restart body) := by
  intro h b hb
  simp only [Instr.wellFormed, bodyFits, decide_eq_true_eq] at h
  cases hb
  omega

theorem radioSet (body : List Byte) : Statement (.radioSet body) := by
  intro h b hb
  simp only [Instr.wellFormed, bodyFits, decide_eq_true_eq] at h
  cases hb
  omega

theorem flagsRead (body : List Byte) : Statement (.flagsRead body) := by
  intro h b hb
  simp only [Instr.wellFormed, bodyFits, decide_eq_true_eq] at h
  cases hb
  omega

theorem flagsClear (body : List Byte) : Statement (.flagsClear body) := by
  intro h b hb
  simp only [Instr.wellFormed, bodyFits, decide_eq_true_eq] at h
  cases hb
  omega

theorem flagsMask (body : List Byte) : Statement (.flagsMask body) := by
  intro h b hb
  simp only [Instr.wellFormed, bodyFits, decide_eq_true_eq] at h
  cases hb
  omega

theorem countersRead (body : List Byte) : Statement (.countersRead body) := by
  intro h b hb
  simp only [Instr.wellFormed, bodyFits, decide_eq_true_eq] at h
  cases hb
  omega

theorem classWrite (body : List Byte) : Statement (.classWrite body) := by
  intro h b hb
  simp only [Instr.wellFormed, bodyFits, decide_eq_true_eq] at h
  cases hb
  omega

theorem legWrite (body : List Byte) : Statement (.legWrite body) := by
  intro h b hb
  simp only [Instr.wellFormed, bodyFits, decide_eq_true_eq] at h
  cases hb
  omega

theorem rosterBegin (body : List Byte) : Statement (.rosterBegin body) := by
  intro h b hb
  simp only [Instr.wellFormed, bodyFits, decide_eq_true_eq] at h
  cases hb
  omega

theorem rosterLoad (body : List Byte) : Statement (.rosterLoad body) := by
  intro h b hb
  simp only [Instr.wellFormed, bodyFits, decide_eq_true_eq] at h
  cases hb
  omega

theorem rosterCommit (body : List Byte) : Statement (.rosterCommit body) := by
  intro h b hb
  simp only [Instr.wellFormed, bodyFits, decide_eq_true_eq] at h
  cases hb
  omega

theorem rosterEdit (body : List Byte) : Statement (.rosterEdit body) := by
  intro h b hb
  simp only [Instr.wellFormed, bodyFits, decide_eq_true_eq] at h
  cases hb
  omega

theorem rosterQuery (body : List Byte) : Statement (.rosterQuery body) := by
  intro h b hb
  simp only [Instr.wellFormed, bodyFits, decide_eq_true_eq] at h
  cases hb
  omega

theorem missedRead (body : List Byte) : Statement (.missedRead body) := by
  intro h b hb
  simp only [Instr.wellFormed, bodyFits, decide_eq_true_eq] at h
  cases hb
  omega

theorem rosterDiscard (body : List Byte) : Statement (.rosterDiscard body) := by
  intro h b hb
  simp only [Instr.wellFormed, bodyFits, decide_eq_true_eq] at h
  cases hb
  omega

theorem legOpen (body : List Byte) : Statement (.legOpen body) := by
  intro h b hb
  simp only [Instr.wellFormed, bodyFits, decide_eq_true_eq] at h
  cases hb
  omega

theorem legClose (body : List Byte) : Statement (.legClose body) := by
  intro h b hb
  simp only [Instr.wellFormed, bodyFits, decide_eq_true_eq] at h
  cases hb
  omega

theorem legStatus (body : List Byte) : Statement (.legStatus body) := by
  intro h b hb
  simp only [Instr.wellFormed, bodyFits, decide_eq_true_eq] at h
  cases hb
  omega

theorem routeClose (body : List Byte) : Statement (.routeClose body) := by
  intro h b hb
  simp only [Instr.wellFormed, bodyFits, decide_eq_true_eq] at h
  cases hb
  omega

theorem journalStatus (body : List Byte) : Statement (.journalStatus body) := by
  intro h b hb
  simp only [Instr.wellFormed, bodyFits, decide_eq_true_eq] at h
  cases hb
  omega

theorem batchSeal (body : List Byte) : Statement (.batchSeal body) := by
  intro h b hb
  simp only [Instr.wellFormed, bodyFits, decide_eq_true_eq] at h
  cases hb
  omega

theorem journalClear (body : List Byte) : Statement (.journalClear body) := by
  intro h b hb
  simp only [Instr.wellFormed, bodyFits, decide_eq_true_eq] at h
  cases hb
  omega

theorem uploadStart (body : List Byte) : Statement (.uploadStart body) := by
  intro h b hb
  simp only [Instr.wellFormed, bodyFits, decide_eq_true_eq] at h
  cases hb
  omega

theorem batchReceived (body : List Byte) : Statement (.batchReceived body) := by
  intro h b hb
  simp only [Instr.wellFormed, bodyFits, decide_eq_true_eq] at h
  cases hb
  omega

theorem uploadStop (body : List Byte) : Statement (.uploadStop body) := by
  intro h b hb
  simp only [Instr.wellFormed, bodyFits, decide_eq_true_eq] at h
  cases hb
  omega

theorem linkFrameRefused (kind : Byte) (body : List Byte) (crc : Word16) :
    Statement (.linkFrameRefused kind body crc) := by
  intro h b hb
  simp only [Instr.wellFormed, bodyFits, decide_eq_true_eq] at h
  cases hb
  omega

theorem linkOverrun (kind : Byte) (body : List Byte) (crc : Word16) : Statement (.linkOverrun kind body crc) := by
  intro h b hb
  simp only [Instr.wellFormed, bodyFits, decide_eq_true_eq] at h
  cases hb
  omega

theorem linkByteReceived (b : Byte) : Statement (.linkByteReceived b) := fun _ _ hb => nomatch hb

theorem linkFramingError : Statement .linkFramingError := fun _ _ hb => nomatch hb

theorem gapTimerExpiry : Statement .gapTimerExpiry := fun _ _ hb => nomatch hb

theorem outboundFrameSent (straps : BitVec 2) : Statement (.outboundFrameSent straps) := fun _ _ hb => nomatch hb

theorem laneStart (lane : Fin 4) : Statement (.laneStart lane) := fun _ _ hb => nomatch hb

theorem laneRecordTaken (lane : Fin 4) : Statement (.laneRecordTaken lane) := fun _ _ hb => nomatch hb

theorem holdExpiry (serial : Nat) : Statement (.holdExpiry serial) := fun _ _ hb => nomatch hb

theorem passTimerExpiry : Statement .passTimerExpiry := fun _ _ hb => nomatch hb

theorem dutyRefill : Statement .dutyRefill := fun _ _ hb => nomatch hb

theorem transmitDone : Statement .transmitDone := fun _ _ hb => nomatch hb

theorem transmitTimeout : Statement .transmitTimeout := fun _ _ hb => nomatch hb

theorem sweepWindowEnd (serial : Nat) : Statement (.sweepWindowEnd serial) := fun _ _ hb => nomatch hb

theorem confirmWindowEnd (serial : Nat) : Statement (.confirmWindowEnd serial) := fun _ _ hb => nomatch hb

theorem pageProgramEnd : Statement .pageProgramEnd := fun _ _ hb => nomatch hb

theorem indexProgramEnd : Statement .indexProgramEnd := fun _ _ hb => nomatch hb

theorem programFailure (left : List Byte) : Statement (.programFailure left) := fun _ _ hb => nomatch hb

theorem markProgramEnd (e : FlashEnd) : Statement (.markProgramEnd e) := fun _ _ hb => nomatch hb

theorem sectorEraseEnd (e : FlashEnd) : Statement (.sectorEraseEnd e) := fun _ _ hb => nomatch hb

theorem rebuildScanStart : Statement .rebuildScanStart := fun _ _ hb => nomatch hb

theorem rebuildReadEnd (good : Bool) : Statement (.rebuildReadEnd good) := fun _ _ hb => nomatch hb

theorem flashReady (e : FlashEnd) : Statement (.flashReady e) := fun _ _ hb => nomatch hb

theorem flashReadyTimeout : Statement .flashReadyTimeout := fun _ _ hb => nomatch hb

theorem identificationResponse (b0 b1 capacity : Byte) : Statement (.identificationResponse b0 b1 capacity) :=
  fun _ _ hb => nomatch hb

theorem identificationTimeout : Statement .identificationTimeout := fun _ _ hb => nomatch hb

theorem recoveryReadEnd (good : Bool) : Statement (.recoveryReadEnd good) := fun _ _ hb => nomatch hb

theorem recoveryIndexProgramEnd (e : FlashEnd) : Statement (.recoveryIndexProgramEnd e) := fun _ _ hb => nomatch hb

theorem uploadSlotReadEnd : Statement .uploadSlotReadEnd := fun _ _ hb => nomatch hb

theorem uploadDataReadEnd : Statement .uploadDataReadEnd := fun _ _ hb => nomatch hb

theorem uploadReadFailure : Statement .uploadReadFailure := fun _ _ hb => nomatch hb

theorem ackTimerExpiry : Statement .ackTimerExpiry := fun _ _ hb => nomatch hb

theorem laneByteReceived (lane : Fin 4) (b : Byte) : Statement (.laneByteReceived lane b) := fun _ _ hb => nomatch hb

end Sys2Proof.Laws.Sendable
end

