-- ==== Sys2Proof/Laws/Waits.lean ====
section
/-!
SUPPORT. What a report does to the wait order, and the retry one record at a time (R124).
-/

namespace Sys2Proof.Machine

variable {s : State}

/-! ## What joins the wait order -/

/-- The wait order after an operation: as it was, or one more record of the scheduler behind it; outside OPEN the whole
journal as it was. -/
def WaitsGrow (s t : State) : Prop :=
  (t.journal.waits = s.journal.waits ∨ ∃ r, t.journal.waits = s.journal.waits ++ [.held r]) ∧
    (s.journal.st ≠ .opened → t.journal = s.journal)

@[simp] theorem requestNotice_journal (n : Notice) : (s.requestNotice n).journal = s.journal := by
  unfold State.requestNotice; split <;> rfl

@[simp] theorem settleTest_journal : s.settleTest.journal = s.journal := by
  unfold State.settleTest
  split
  · rfl
  · split
    · rw [requestNotice_journal]; rfl
    · rfl

@[simp] theorem placeEntry_journal (n : Nat) (st : EntryState) : (s.placeEntry n st).journal = s.journal := by
  unfold State.placeEntry; split <;> rfl

@[simp] theorem moveTo_journal (n : Nat) (st : EntryState) : (s.moveTo n st).journal = s.journal := by
  unfold State.moveTo
  split
  · rfl
  · exact placeEntry_journal n st

theorem foldl_journal {α : Type} (f : State → α → State) (hf : ∀ t a, (f t a).journal = t.journal) (as : List α) :
    (as.foldl f s).journal = s.journal := by
  induction as generalizing s with
  | nil => rfl
  | cons a as ih => exact (ih (s := f s a)).trans (hf s a)

@[simp] theorem scan_journal : s.scan.journal = s.journal :=
  foldl_journal _ (fun t n => by unfold State.joinSweep; rw [moveTo_journal]) _

@[simp] theorem offerLane_journal : s.offerLane.journal = s.journal := by
  unfold State.offerLane
  split
  · rfl
  · split
    · rw [scan_journal]
      unfold State.startTransmission
      simp only
      split
      · rw [moveTo_journal]; rfl
      · rfl
    · rfl

@[simp] theorem offerConfirm_journal (n : Nat) : (s.offerConfirm n).journal = s.journal := by
  unfold State.offerConfirm
  split
  · rw [offerLane_journal]
  · split
    · rfl
    · rw [offerLane_journal, moveTo_journal]

@[simp] theorem tamperNotice_journal (n : Nat) (o : TamperOutcome) (c : BitVec 8) (k : Nat) :
    (s.tamperNotice n o c k).journal = s.journal := by
  unfold State.tamperNotice
  simp only
  split
  · exact requestNotice_journal _
  · exact requestNotice_journal _

@[simp] theorem endConfirmation_journal (n : Nat) (o : TamperOutcome) (c : BitVec 8) (k : Byte) :
    (s.endConfirmation n o c k).journal = s.journal := by
  unfold State.endConfirmation
  split
  · rfl
  · rw [settleTest_journal, tamperNotice_journal, moveTo_journal]; rfl

@[simp] theorem orphanOutcome_journal (ev : Evaluated) (a : Bool) : (s.orphanOutcome ev a).journal = s.journal := by
  unfold State.orphanOutcome
  cases ev with
  | reading r d fl m =>
    simp only
    split
    · rw [tamperNotice_journal, requestNotice_journal]
    · exact requestNotice_journal _
  | confirm r k => exact tamperNotice_journal _ _ _ _

@[simp] theorem confirmOutcome_journal (r : ConfirmRec) (a : Bool) : (s.confirmOutcome r a).journal = s.journal := by
  unfold State.confirmOutcome
  split
  · exact endConfirmation_journal _ _ _ _
  · rfl

@[simp] theorem append_waits (bs : List Byte) : (s.append bs).journal.waits = s.journal.waits := by
  unfold State.append State.sealFull State.sealOpen State.testLow State.joinBuffer State.setFlag
  simp only
  repeat' split
  all_goals rfl

theorem WaitsGrow.same {t : State} (e : t.journal = s.journal) : WaitsGrow s t := ⟨.inl (by rw [e]), fun _ => e⟩

@[simp] theorem refuseByState_journal : s.refuseByState.journal = s.journal := by
  unfold State.refuseByState; simp only; split <;> rfl

/-- A record of the scheduler that is offered waits at the back, or not at all (R123, R124). -/
theorem grow_offerHeld (r : JournalRecord) : WaitsGrow s (s.offerHeld r).2 := by
  unfold State.offerHeld State.offer
  split
  · exact .same refuseByState_journal
  · rename_i ho
    refine ⟨?_, fun c => absurd c ho⟩
    have join : (s.joinWait (.held r)).2.journal.waits = s.journal.waits ∨
        ∃ k, (s.joinWait (.held r)).2.journal.waits = s.journal.waits ++ [.held k] := by
      unfold State.joinWait
      split
      · exact .inl rfl
      · exact .inr ⟨r, rfl⟩
    split
    · exact join
    · split
      · exact .inl rfl
      · exact join
      · exact .inl (append_waits _)

theorem WaitsGrow.after {t u : State} (h : WaitsGrow s t) (e : u.journal = t.journal) : WaitsGrow s u := by
  unfold WaitsGrow at *; rw [e]; exact h

theorem WaitsGrow.before {t u : State} (h : WaitsGrow t u) (e : t.journal = s.journal) : WaitsGrow s u := by
  unfold WaitsGrow at *; rw [← e]; exact h

theorem grow_missMeter (n : Nat) (r : MissReason) : WaitsGrow s (s.missMeter n r) := by
  unfold State.missMeter
  split
  · exact .same rfl
  · rename_i e _
    refine ((grow_offerHeld (.miss (s.missRecord e r))).before (moveTo_journal n .missed)).after ?_
    rw [settleTest_journal]
    exact requestNotice_journal _

theorem grow_endUnanswered (n : Nat) (b : Bool) : WaitsGrow s (s.endUnanswered n b) := by
  unfold State.endUnanswered
  split
  · exact .same rfl
  · rename_i e _
    split
    · simp only
      generalize hu : State.markHeard n (State.stopWindow n { s with sched.confirms := s.sched.confirms.erase n }) = u
      have hj : u.journal = s.journal := by rw [← hu]; rfl
      have k := grow_offerHeld (s := u) (.confirm (s.unansweredRecord e))
      split
      · rename_i heq
        rw [heq] at k
        split
        · exact (k.before hj).after (endConfirmation_journal _ _ _ _)
        · exact k.before hj
      · rename_i heq
        rw [heq] at k
        exact (k.before hj).after (endConfirmation_journal _ _ _ _)
    · exact .same rfl

theorem grow_readingAppended (r : ReadingRec) (d : Nat) (fl : Bool) (m : Nat) :
    WaitsGrow s (s.readingAppended r d fl m) := by
  unfold State.readingAppended
  split
  · have hv : (s.enterVerify r.serial r d m).journal = s.journal := by
      unfold State.enterVerify
      simp only [requestNotice_journal, moveTo_journal]; rfl
    simp only
    split
    · exact (grow_endUnanswered _ _).before hv
    · split
      · exact .same ((offerConfirm_journal _).trans hv)
      · exact (grow_endUnanswered _ _).before hv
  · refine .same ?_
    simp only [settleTest_journal]
    split <;> simp only [tamperNotice_journal, requestNotice_journal, moveTo_journal] <;> rfl

theorem grow_readingRefused (r : ReadingRec) (d : Nat) : WaitsGrow s (s.readingRefused r d) := by
  unfold State.readingRefused
  split
  · exact (grow_missMeter _ _).before (requestNotice_journal _)
  · exact .same (by rw [requestNotice_journal, moveTo_journal])

theorem grow_outcome (ev : Evaluated) (a : Bool) : WaitsGrow s (s.outcome ev a) := by
  unfold State.outcome
  cases ev with
  | reading r d fl m =>
    simp only
    split
    · exact .same (orphanOutcome_journal _ _)
    · split
      · exact grow_readingAppended _ _ _ _
      · exact grow_readingRefused _ _
  | confirm r k =>
    simp only
    split
    · exact .same (orphanOutcome_journal _ _)
    · exact .same (confirmOutcome_journal _ _)

/-! ## The retry, one record at a time -/

/-- How many steps the retry may still take for an entry: two for a CLOSED slot, whose outcome may make one record. -/
def WaitEntry.fuel : WaitEntry → Nat
  | .slot _ => 2
  | _ => 1

/-- How many steps the retry may still take. -/
def State.waitFuel (s : State) : Nat := (s.journal.waits.map WaitEntry.fuel).sum

/-- A report leaves the wait order, or adds one record of the scheduler to it. -/
theorem grow_report (w : WaitEntry) (a : Bool) : WaitsGrow s (s.report w a) := by
  unfold State.report
  split
  · exact .same rfl
  · exact .same (orphanOutcome_journal _ _)
  · split
    · exact .same rfl
    · exact (grow_outcome _ _).before rfl

/-- A report takes less fuel than its entry stood for. -/
theorem waitFuel_report (w : WaitEntry) (a : Bool) : (s.report w a).waitFuel + 1 ≤ s.waitFuel + w.fuel := by
  have grow : ∀ t : State, WaitsGrow s t → t.waitFuel ≤ s.waitFuel + 1 := by
    rintro t ⟨h | ⟨r, h⟩, _⟩ <;> simp [State.waitFuel, h, WaitEntry.fuel]
  cases w with
  | held r => exact Nat.le_refl _
  | moved ev =>
    have h : ((s.orphanOutcome ev a)).waitFuel = s.waitFuel := by rw [State.waitFuel, orphanOutcome_journal]; rfl
    show (s.orphanOutcome ev a).waitFuel + 1 ≤ _
    rw [h]
    exact Nat.le_refl _
  | slot n =>
    show (s.report (.slot n) a).waitFuel + 1 ≤ s.waitFuel + 2
    exact Nat.succ_le_succ (grow _ (grow_report _ _))

/-- Fuel enough gives what more of it gives. -/
theorem retryWaits_fuel (n m : Nat) (hn : s.waitFuel ≤ n) (hm : s.waitFuel ≤ m) : s.retryWaits n = s.retryWaits m := by
  induction n generalizing s m with
  | zero =>
    have h0 : s.journal.waits = [] := by
      cases hw : s.journal.waits with
      | nil => rfl
      | cons w ws => cases w <;> simp [State.waitFuel, hw, WaitEntry.fuel] at hn
    cases m with
    | zero => rfl
    | succ m => simp [State.retryWaits, h0]
  | succ n ih =>
    cases hw : s.journal.waits with
    | nil => cases m <;> simp [State.retryWaits, hw]
    | cons w ws =>
      have hf : s.waitFuel = w.fuel + s.popWait.waitFuel := by simp [State.waitFuel, State.popWait, hw]
      have hp : 1 ≤ w.fuel := by cases w <;> simp [WaitEntry.fuel]
      cases m with
      | zero => omega
      | succ m =>
        have step : ∀ (t : State) (a : Bool), t.journal.waits = s.popWait.journal.waits →
            (t.report w a).retryWaits n = (t.report w a).retryWaits m := by
          intro t a ht
          have e : t.waitFuel = s.popWait.waitFuel := by simp [State.waitFuel, ht]
          have := waitFuel_report (s := t) w a
          exact ih _ (by omega) (by omega)
        simp only [State.retryWaits, hw]
        split
        · exact ih _ (by omega) (by omega)
        · split
          · refine step _ _ ?_
            unfold State.refuseByState State.countRefusals State.setFlag
            simp only
            split <;> rfl
          · split
            · rfl
            · exact step _ _ rfl
            · exact step _ _ (append_waits _)

/-- The fuel of a retry is enough. -/
theorem retry_eq (n : Nat) (hn : s.waitFuel ≤ n) : s.retryWaits n = s.retry := by
  refine retryWaits_fuel _ _ hn ?_
  unfold State.waitFuel
  induction s.journal.waits with
  | nil => exact Nat.le_refl _
  | cons w ws ih => cases w <;> simp [WaitEntry.fuel] at ih ⊢ <;> omega

/-- Outside OPEN a retry empties the wait order and leaves the rest of the journal (R124). -/
theorem retry_closed (h : s.journal.st ≠ .opened) : s.retry.journal = { s.journal with waits := [] } := by
  have key : ∀ (n : Nat) (t : State), t.journal.st ≠ .opened → t.journal.waits.length ≤ n →
      (t.retryWaits n).journal = { t.journal with waits := [] } := by
    intro n
    induction n with
    | zero =>
      intro t _ hl
      rw [State.retryWaits, ← List.length_eq_zero_iff.mp (Nat.le_zero.mp hl)]
    | succ n ih =>
      intro t ht hl
      cases hw : t.journal.waits with
      | nil => simp only [State.retryWaits, hw]; rw [← hw]
      | cons w ws =>
        have hp : t.popWait.journal = { t.journal with waits := ws } := by simp [State.popWait, hw]
        have hn : ws.length ≤ n := by simpa [hw] using hl
        rw [State.retryWaits, hw]
        simp only
        split
        · rw [ih _ (by rw [hp]; exact ht) (by rw [hp]; exact hn), hp]
        · rw [if_pos ht]
          have hr : (t.popWait.refuseByState.report w false).journal = { t.journal with waits := ws } := by
            rw [(grow_report w false).2 (by rw [refuseByState_journal, hp]; exact ht), refuseByState_journal, hp]
          rw [ih _ (by rw [hr]; exact ht) (by rw [hr]; exact hn), hr]
  exact key _ s h (by omega)

end Sys2Proof.Machine
end

