-- ==== Sys2Proof/Tests/Slice0.lean ====
section
/-!
SUPPORT. Tests: ill-formed commands are refused by the well-formedness checks, worked examples of the manual come out
as the manual works them, and for every statement with hypotheses a concrete state that meets them (`witness_…`).
-/

namespace Sys2Proof.Tests

open Sys2Proof Sys2Proof.Machine

/-! ## Well-formedness: an ill-formed term for each check -/

theorem test_wf_body_too_long : Instr.wellFormed (.identify (List.replicate 251 0)) = false := by decide +kernel
theorem test_wf_body_longest : Instr.wellFormed (.linkOverrun 1 (List.replicate 250 0) 0) = true := by decide +kernel
theorem test_wf_serial_zero : Instr.wellFormed (.holdExpiry 0) = false := by decide
theorem test_wf_serial_all_ones : Instr.wellFormed (.sweepWindowEnd 0xFFFFFFFF) = false := by decide
theorem test_wf_serial_top : Instr.wellFormed (.confirmWindowEnd 0xFFFFFFFE) = true := by decide
theorem test_wf_failed_program : Instr.wellFormed (.programFailure (List.replicate 257 0)) = false := by decide +kernel
theorem test_wf_failed_mark : Instr.wellFormed (.markProgramEnd (.failed [0, 0])) = false := by decide
theorem test_wf_failed_index :
    Instr.wellFormed (.recoveryIndexProgramEnd (.failed (List.replicate 17 0))) = false := by decide
theorem test_wf_failed_erase (l : List Byte) (h : l.length = 65537) :
    Instr.wellFormed (.sectorEraseEnd (.failed l)) = false := by
  simp [Instr.wellFormed, FlashEnd.fits, h]
theorem test_wf_failed_unfinished (l : List Byte) (h : l.length = 65537) :
    Instr.wellFormed (.flashReady (.failed l)) = false := by
  simp [Instr.wellFormed, FlashEnd.fits, h]

/-! ## The manual's worked values -/

/-- R183: the CRC-16 over "123456789" is 0x29B1. -/
theorem test_crc_check_value : crc16 [0x31, 0x32, 0x33, 0x34, 0x35, 0x36, 0x37, 0x38, 0x39] = 0x29B1#16 := by decide +kernel

/-- Chapter 11, one MISS record: the 18 bytes with the check byte 0x1B. -/
theorem test_miss_record_bytes :
    MissRec.bytes { routeId := 20001, serial := 9003, leg := 14, reason := .retries, attempts := 2, routeTime := 300 } =
      [0x4D, 0x12, 0x1B, 0x21, 0x4E, 0, 0, 0x2B, 0x23, 0, 0, 0x0E, 2, 2, 0x2C, 1, 0, 0] := by decide

/-- Chapter 4, rollover: D is 380, FORWARD, rate 126 over 43,325 minutes. -/
theorem test_rollover :
    forwardDiff 230 999850 1000000 = 380 ∧ moveCase 380 1000000 50 = .forward ∧ dailyRate .forward 3800 43325 = 126 := by
  decide

/-- Chapter 4, backstep and reversal with t = 50: exactly 50 counts is a backstep, 51 a reversal. -/
theorem test_backstep_edge :
    moveCase (forwardDiff 51150 51200 100000) 100000 50 = .backstep ∧
      moveCase (forwardDiff 51149 51200 100000) 100000 50 = .reverse ∧ amountOf .reverse 99949 100000 = 51 := by
  decide

/-- Chapter 4, the edge at M/2: 5,000 of 10,000 is FORWARD, 5,001 a reversal of 4,999. -/
theorem test_half_modulus_edge :
    moveCase (forwardDiff 4000 9000 10000) 10000 10 = .forward ∧
      moveCase (forwardDiff 4001 9000 10000) 10000 10 = .reverse ∧ amountOf .reverse 5001 10000 = 4999 := by
  decide

/-- Chapter 4, the rate at its limits: it saturates, and rounds to zero. -/
theorem test_rate_limits :
    dailyRate .forward 26214000000000 0 = 4294967295 ∧ dailyRate .forward 3 10000 = 0 := by
  decide

/-! ## Small states -/

/-- A part at rest: start-up over, a journal of 2 MiB, empty and OPEN. -/
def idle : State :=
  { State.reset with
    startup := none, indicator := 2,
    journal := { Journal.reset with st := .opened, size := 2097152, indexStart := 2097152, pointer := 2097136,
                                    lastResult := .good } }

/-- Class 7 of the worked example of chapter 5. -/
def classSeven : ClassRec :=
  { digits := 5, mult := 1, tol := 50, rateLimit := 0, stopMinutes := 0, leakHours := 0, leakFloor := 1, watch := 3,
    alarm := 0x40, weights := #v[6, 8, 1, 10, 4, 3, 5, 7], threshold := 12, retries := 1, confirm := true }

/-- What a meter of leg 3 was loaded with. -/
def loadedMeter (serial : Nat) (a : Attrs) : Loaded :=
  { serial := serial, leg := 3, cls := 7, prevReg := 51200, prevAge := 20000, refStatus := 0, carried := 3, attrs := a }

/-- The attributes of most meters below: a wake is allowed. -/
def wakeable : Attrs := ⟨true, true, false⟩

/-- A meter of leg 3 in a state, after its commit. -/
def meter (serial : Nat) (st : EntryState) : Entry := { (loadedMeter serial wakeable).fresh with st := st }

/-- The open leg 3 with a budget of 4. -/
def openLeg : OpenLeg := { leg := 3, passLeft := 60000, passExpired := false, budget := 4, settled := false }

/-- A route in a phase with these meters, all of leg 3, whose state is given. -/
def route (p : Phase) (st : LegState) (es : List Entry) : State :=
  { idle with
    roster := { Roster.reset with
      classes := Vector.replicate 16 classSeven, phase := p, routeId := some 20001, entries := es,
      missed := (es.filter fun e => e.st == .missed).map fun e => e.loaded.serial,
      legs := Roster.reset.legs.set 3 { passCode := 60, budget := 4, st := st, counts := countLeg es 3 } } }

/-- An ACTIVE route with leg 3 open. -/
def atWork (es : List Entry) : State := { route .active .opened es with sched.openLeg := some openLeg }

/-- A copy of a telegram of meter 8350. -/
def copy1 : Copy :=
  { serial := 8350, register := 50950, status := 0x40, seq := 120, answer := false, intervals := [], rssi := -90,
    lane := 1, stamp := 5 }

/-- The candidate that the copy opened. -/
def cand1 : Candidate := openedCandidate copy1 false 30

/-- A batch of the store. -/
def batch7 : BatchInfo :=
  { number := 7, first := 0, length := 300, count := 5, leg := 12, recovered := false, void := false, crc := 0x3C41,
    mark := 0xFF }

theorem listening_idle : Listening idle := ⟨rfl, rfl, by decide⟩
theorem listening_route (p : Phase) (st : LegState) (es : List Entry) : Listening (route p st es) :=
  ⟨rfl, rfl, by show (0 : Nat) < 2; decide⟩
theorem listening_atWork (es : List Entry) : Listening (atWork es) := ⟨rfl, rfl, by show (0 : Nat) < 2; decide⟩

theorem route_counts (p : Phase) (st : LegState) (es : List Entry) (h : ∀ e ∈ es, e.loaded.leg = 3) (l : Byte) :
    ((route p st es).leg l).counts = countLeg es l := by
  show ((Roster.reset.legs.set 3 _)[l.toNat]).counts = _
  by_cases e : l = 3
  · subst e; simp
  · have hl : (3 : Nat) ≠ l.toNat := fun c => e (by rw [← BitVec.toNat_inj]; exact c.symm)
    have h0 : es.filter (fun e => e.loaded.leg == l) = [] := by
      rw [List.filter_eq_nil_iff]
      intro x hx; rw [h x hx]; simpa using Ne.symm e
    simp only [Vector.getElem_set, hl, ↓reduceIte, countLeg, h0]
    simp [Roster.reset, Leg.reset, LegCounts.zero]

theorem route_inv (p : Phase) (st : LegState) (es : List Entry) (h : ∀ e ∈ es, e.loaded.leg = 3)
    (hp : (es.map fun e => e.loaded.serial).Pairwise (· < ·)) (he : p = .none ∨ p = .loading → es = []) :
    RosterInv (route p st es) where
  staged := List.Pairwise.nil
  live := hp
  chainOnce := by
    show ((es.filter _).map _).Nodup
    exact List.Pairwise.imp (fun h => Nat.ne_of_lt h) (hp.sublist ((List.filter_sublist).map _))
  chain := by
    intro n
    show n ∈ (es.filter _).map _ ↔ ∃ e ∈ es, _
    simp only [List.mem_map, List.mem_filter, beq_iff_eq]
    constructor
    · rintro ⟨e, ⟨a, b⟩, c⟩; exact ⟨e, a, c, b⟩
    · rintro ⟨e, a, c, b⟩; exact ⟨e, ⟨a, b⟩, c⟩
  counts := fun _ l => route_counts p st es h l
  empty := he
  scan := by intro c; exact absurd c (by show ¬ (Option.isSome none = true); simp)

theorem atWork_inv (es : List Entry) (h : ∀ e ∈ es, e.loaded.leg = 3)
    (hp : (es.map fun e => e.loaded.serial).Pairwise (· < ·)) : RosterInv (atWork es) := by
  have k := route_inv .active .opened es h hp (by simp)
  exact ⟨k.staged, k.live, k.chainOnce, k.chain, k.counts, k.empty, k.scan⟩

/-! ## Witnesses: steps, reset and invariants -/

theorem witness_IdleSecondAdvancesClocks :
    (route .active .opened []).pending = [] ∧ (route .active .opened []).asserted = false ∧
      (route .active .opened []).roster.routeMs < 1000 := ⟨rfl, rfl, by decide⟩

/-- At work: one meter pending, one missed, one read, and a ROSTER QUERY waits. -/
def threeMeters : List Entry := [meter 8350 .pending, meter 8351 .missed, meter 8402 .read]

theorem witness_RosterInvKept :
    RosterInv { atWork threeMeters with pending := [.legClose [3]] } ∧
      ∃ t, step { atWork threeMeters with pending := [.legClose [3]] } = .next t := by
  have k := atWork_inv threeMeters (by decide) (by decide)
  exact ⟨⟨k.staged, k.live, k.chainOnce, k.chain, k.counts, k.empty, k.scan⟩, _, rfl⟩

theorem witness_StoreFormKept :
    Memory.wf [(3, 0x52#8), (7, 0#8)] ∧
      ∃ t, step { idle with flash.store := [(3, 0x52), (7, 0)], flash.port := some (.page 4 [0x4D]),
                            pending := [.pageProgramEnd] } = .next t :=
  ⟨by decide, _, rfl⟩

/-- Two replies wait, and 32 wake requests. -/
def crowded : State :=
  { idle with
    link.replies := [⟨0x81, 1, .done, 0, [], false⟩, ⟨0x81, 1, .done, 0, [], false⟩],
    sched.sweeps := List.range 32, pending := [.identify []] }

theorem witness_RoomKept : WithinRoom crowded ∧ ∃ t, step crowded = .next t :=
  ⟨by constructor <;> decide, _, rfl⟩

theorem witness_SettingsKept :
    SettingsInRange { idle with sched.credit := 36000, pending := [.dutyRefill] } ∧
      ∃ t, step { idle with sched.credit := 36000, pending := [.dutyRefill] } = .next t :=
  ⟨by constructor <;> decide, _, rfl⟩

theorem witness_LinesFollowState :
    LinesFollow { State.reset with pending := [.flagsClear [1, 0]] } ∧
      ∃ t, step { State.reset with pending := [.flagsClear [1, 0]] } = .next t :=
  ⟨⟨by decide, by decide⟩, _, rfl⟩

/-! ## Witnesses: rules over all commands -/

theorem witness_PhaseLifeCycle :
    (idle.roster.rebuild.isSome → idle.roster.phase = .committing) ∧
      ∃ t, exec (.rosterBegin [1, 0, 0, 0, 1, 0]) idle = .next t ∧ t.roster.phase = .loading :=
  ⟨by decide, _, rfl, by decide⟩

theorem witness_FlagsStayUntilCleared :
    idle.link.flags.getLsbD 0 = true ∧
      ∃ t, exec (.flagsClear [1, 0]) idle = .next t ∧ t.link.flags.getLsbD 0 = false :=
  ⟨by decide, _, rfl, by decide⟩

/-- A page program of two bytes at offset 16 is in progress. -/
def programming : State :=
  { idle with
    flash.port := some (.page 16 [0x4D, 0x12]), journal.buffer := [[0x4D, 0x12]], journal.progEnd := 16,
    journal.recordEnd := 18, journal.openBatch := some ⟨1, 16, 255, 1, 0⟩ }

theorem witness_StoreKeptOutsideOperation :
    (∃ t, exec .pageProgramEnd programming = .next t) ∧
      (∀ r, programming.flash.port = some r ∨ programming.flash.unfinished = some r →
        18 < r.span.1 ∨ r.span.1 + r.span.2 ≤ 18) := by
  refine ⟨⟨_, rfl⟩, fun r h => ?_⟩
  have e : programming.flash.port = some r := h.elim id (fun c => nomatch c)
  cases e
  decide

theorem witness_StoreKeptOutsideOperation_other_row :
    (∃ t, exec (.laneStart 0) programming = .next t) := ⟨_, rfl⟩

theorem witness_SettingsOnlyByCommands :
    (∃ t, exec .dutyRefill (atWork threeMeters) = .next t) ∧ ¬ (atWork threeMeters).resets .dutyRefill := by
  refine ⟨⟨_, rfl⟩, ?_⟩
  rintro (⟨_, h⟩ | ⟨⟨_, h⟩, _⟩) <;> exact nomatch h

/-! ## Witnesses: the van link -/

theorem witness_EveryCommandAnswered : Listening idle := listening_idle

theorem witness_FrameBytesAreTheCommand :
    idle.asserted = false ∧ idle.finish = idle ∧ idle.link.rx = .hunt ∧ ([] : List Byte).length ≤ 250 ∧
      ∃ t, exec (Cmd.identify.row []) idle = .next t :=
  ⟨rfl, rfl, rfl, by decide, _, rfl⟩

theorem witness_ReceiverByByte :
    idle.link.rx = .hunt ∧ ({ idle with link.rx := .length } : State).link.rx = .length ∧
      ({ idle with link.rx := .body 251 [] } : State).link.rx = .body 251 [] ∧
      ({ idle with link.rx := .check [1] [] } : State).link.rx = .check [1] [] ∧
      ({ idle with link.rx := .length } : State).link.rx ≠ .hunt ∧ idle.asserted = false := by
  refine ⟨rfl, rfl, rfl, rfl, by decide, rfl⟩

theorem witness_FramesTurnedAway :
    Listening idle ∧ frameCrc 1 [] ≠ 0 ∧ (∀ c : Cmd, c.kind ≠ 0x3F) ∧ (∀ c : Cmd, c.kind ≠ 0x40) ∧
      crowded.asserted = false ∧ crowded.link.restarting = false ∧ 2 ≤ crowded.link.replies.length := by
  refine ⟨listening_idle, by decide +kernel, ?_, ?_, rfl, rfl, by decide⟩ <;> intro c <;> cases c <;> decide

theorem witness_RefusedByPhaseOrBusy :
    Listening idle ∧ ¬ (Cmd.legOpen = .rosterEdit ∨ Cmd.legOpen = .legOpen → idle.roster.phase = .active) ∧
      Listening State.reset ∧ State.reset.startup.isSome ∧
      Cmd.batchSeal ∉ [Cmd.identify, .restart, .flagsRead, .flagsClear, .flagsMask, .countersRead, .journalStatus] :=
  ⟨listening_idle, by decide, ⟨rfl, rfl, by decide⟩, rfl, by decide⟩

theorem witness_ReportsChangeNothing :
    Listening (atWork threeMeters) ∧ (atWork threeMeters).roster.phase = .active ∧
      (atWork threeMeters).longOp = false ∧ (atWork threeMeters).entry? (le (toLE 4 8351)) = some (meter 8351 .missed) ∧
      (∀ o, (atWork threeMeters).sched.openLeg = some o → o.leg ≠ 4) ∧
      (atWork threeMeters).sched.openLeg = some openLeg :=
  ⟨listening_atWork _, rfl, rfl, by decide, fun o h => by cases h; decide, rfl⟩

theorem witness_FlagsAndCounters : Listening idle ∧ (0 < 8191 ∧ 8191 < 8192) := ⟨listening_idle, by decide⟩

theorem witness_RadioSetApplies :
    Listening idle ∧ idle.longOp = false ∧ (0x0A#8).toNat < 16 ∧ 1 ≤ (1#8).toNat ∧ 5 ≤ (5#8).toNat ∧ 1 ≤ (50#8).toNat ∧
      1000 ≤ 60000 ∧ 1 ≤ (100#8).toNat ∧ (1#8).toNat < 2 ∧
      [0x74#8, 0xEC#8].length = ((List.range 4).countP fun i => (0x0A#8).getLsbD i) ∧
      (∀ f ∈ [0x74#8, 0xEC#8], 0x74 ≤ f.toNat ∧ f.toNat ≤ 0xEC) :=
  ⟨listening_idle, rfl, by and_intros <;> decide⟩

/-- The reply of a RESTART is being sent. -/
def restarting : State :=
  { idle with link.sending := some (.reply ⟨0x82, 2, .done, 0, [], true⟩), link.restarting := true }

theorem witness_ResetAndRestart :
    Listening idle ∧ restarting.asserted = false ∧
      restarting.link.sending = some (.reply ⟨0x82, 2, .done, 0, [], true⟩) ∧ restarting.link.restarting = true ∧
      restarting.frameOf (.identify []) = some (0x01, [], true) ∧
      ({ idle with asserted := true } : State).asserted = true ∧ (Instr.dutyRefill ≠ .resetAssert) :=
  ⟨listening_idle, rfl, rfl, rfl, rfl, rfl, by decide⟩

/-- The tail of the current batch is being sent. -/
def tailing : State :=
  { idle with
    link.sending := some (.upload (.tail 7 0x3C41 false)), upload.st := .sending, upload.stage := .streaming,
    upload.tailOut := true, upload.batch := some batch7, upload.tailCrc := some 0x3C41 }

/-- The engine awaits the acknowledgement of batch 7. -/
def awaiting : State :=
  { idle with upload.st := .awaitAck, upload.batch := some batch7, upload.tailCrc := some 0x3C41,
              upload.slot := 2097040, upload.ackLeft := 20000 }

theorem witness_AcknowledgementAwaited :
    tailing.link.sending = some (.upload (.tail 7 0x3C41 false)) ∧ tailing.upload.tailOut = true ∧
      tailing.upload.st = .sending ∧ tailing.upload.stage = .streaming ∧ tailing.asserted = false ∧
      awaiting.upload.st = .awaitAck ∧ idle.upload.st ≠ .awaitAck ∧
      ({ idle with link.sending := some (.upload (.head batch7)) } : State).link.sending
        = some (.upload (.head batch7)) :=
  ⟨rfl, rfl, rfl, rfl, rfl, rfl, by decide, rfl⟩

theorem witness_EndOfStep :
    crowded.link.sending = none ∧ crowded.link.replies ≠ [] ∧
      ({ idle with upload.ready := some (.head batch7) } : State).upload.ready = some (.head batch7) ∧
      idle.link.replies = [] ∧ idle.upload.ready = none ∧ idle.flash.port = none ∧
      ({ idle with flash.waiting := [.read .rebuild 0 16, .erase 1] } : State).finish.flash.port = some (.erase 1) :=
  ⟨rfl, by decide, rfl, rfl, rfl, rfl, by decide⟩

/-! ## Witnesses: the roster's commands -/

/-- A route being loaded, one entry staged of three announced. -/
def loading : State :=
  { route .loading .unvisited [] with
    roster.announced := 3, roster.staging := [loadedMeter 8350 wakeable] }

theorem listening_loading : Listening loading := ⟨rfl, rfl, by decide⟩

theorem inRange_classSeven : classSeven.InRange :=
  by constructor <;> decide

theorem inRange_loadedMeter (n : Nat) (h : 1 ≤ n ∧ n ≤ 0xFFFFFFFE) (a : Attrs) :
    (loadedMeter n a).InRange (route .loading .unvisited []).roster.classes :=
  ⟨h, by show (3#8 : Byte) ≠ 255#8; decide,
    by show ((Vector.replicate 16 classSeven)[7]).digits ≠ 0; simp [classSeven],
    by show 51200 < 10 ^ ((Vector.replicate 16 classSeven)[7]).digits ∧ 51200 < 4294967296; simp [classSeven],
    by show 20000 ≤ 1048575; decide, by show 3 < 256; decide⟩

theorem witness_TablesWritten :
    Listening idle ∧ idle.longOp = false ∧ idle.roster.phase = .none ∧ [((7 : Fin 16), classSeven)] ≠ [] ∧
      (∀ w ∈ [((7 : Fin 16), classSeven)], w.2.InRange) ∧ [(3#8, 60#8, 4#8)] ≠ [] := by
  refine ⟨listening_idle, rfl, rfl, by simp, ?_, by simp⟩
  intro w hw
  rw [List.mem_singleton.mp hw]
  exact inRange_classSeven

theorem witness_RouteBegunAndDiscarded :
    Listening idle ∧ idle.longOp = false ∧ idle.roster.phase = .none ∧ 20001 < 4294967296 ∧ 1 ≤ 4096 ∧
      Listening (route .closed .passed threeMeters) ∧ (route .closed .passed threeMeters).longOp = false ∧
      (route .closed .passed threeMeters).roster.phase = .closed :=
  ⟨listening_idle, rfl, rfl, by decide, by decide, listening_route _ _ _, rfl, rfl⟩

theorem witness_RosterLoadStages :
    Listening loading ∧ loading.longOp = false ∧ loading.roster.phase = .loading ∧
      (loading.roster.staging.map Loaded.serial).Pairwise (· < ·) ∧
      (∀ l ∈ [loadedMeter 8351 wakeable, loadedMeter 8402 wakeable], l.InRange loading.roster.classes) ∧
      ((loading.roster.staging ++ [loadedMeter 8351 wakeable, loadedMeter 8402 wakeable]).map
        Loaded.serial).Pairwise (· < ·) ∧
      loading.roster.staging.length + 2 ≤ loading.roster.announced ∧
      ¬ ((loading.roster.staging ++ [loadedMeter 8350 wakeable]).map Loaded.serial).Pairwise (· < ·) := by
  refine ⟨listening_loading, rfl, rfl, by decide, ?_, by decide, by decide, by decide⟩
  intro l hl
  rcases List.mem_cons.mp hl with rfl | h
  · exact inRange_loadedMeter _ (by decide) _
  · rw [List.mem_singleton.mp h]; exact inRange_loadedMeter _ (by decide) _

theorem witness_RosterLoadStages_full :
    loading.roster.announced < loading.roster.staging.length + 3 ∧
      ((loading.roster.staging ++ [loadedMeter 8351 wakeable, loadedMeter 8402 wakeable, loadedMeter 8403 wakeable]).map
        Loaded.serial).Pairwise (· < ·) := by decide

theorem witness_RosterCommitStartsRebuild :
    Listening loading ∧ loading.longOp = false ∧ loading.roster.phase = .loading ∧ loading.upload.st ≠ .sending ∧
      loading.upload.st ≠ .awaitAck ∧ loading.roster.staging.length < loading.roster.announced ∧
      ({ loading with roster.announced := 1 } : State).roster.announced ≤ loading.roster.staging.length ∧
      ({ loading with upload.st := .awaitAck } : State).upload.st = .awaitAck :=
  ⟨listening_loading, by and_intros <;> decide⟩

theorem witness_RosterEditApplies :
    Listening (atWork threeMeters) ∧ (atWork threeMeters).longOp = false ∧
      (atWork threeMeters).roster.phase = .active ∧ [(8350, wakeable), (8402, ⟨false, false, true⟩)] ≠ [] ∧
      (∀ w ∈ [(8350, wakeable), (8402, ⟨false, false, true⟩)],
        w.1 < 4294967296 ∧ ((atWork threeMeters).entry? w.1).isSome) ∧
      (atWork threeMeters).entry? 9 = none ∧
      (atWork threeMeters).entry? 8351 = some (meter 8351 .missed) :=
  ⟨listening_atWork _, rfl, rfl, by simp, by decide, by decide, by decide⟩

theorem witness_TurnedAway :
    Listening (atWork threeMeters) ∧ (atWork threeMeters).longOp = false ∧
      (atWork threeMeters).roster.phase = .active ∧ (atWork threeMeters).sched.openLeg.isSome ∧
      (∀ o, (atWork threeMeters).sched.openLeg = some o → o.leg ≠ 4) ∧
      (atWork threeMeters).upload.st ≠ .awaitAck ∧ Listening awaiting ∧ awaiting.longOp = false ∧
      awaiting.roster.phase = .none ∧ awaiting.upload.st = .awaitAck ∧
      ({ idle with journal.st := .absent } : State).journal.st = .absent ∧
      ({ idle with journal.recordEnd := 18 } : State).journal.recordEnd ≠ idle.journal.newestEnd ∧
      idle.upload.st = .idle ∧ idle.journal.st ≠ .absent ∧ [1#8].length % 28 ≠ 0 ∧ [1#8].length % 3 ≠ 0 ∧
      loading.roster.phase = .loading :=
  ⟨listening_atWork _, rfl, rfl, rfl, fun o h => by cases h; decide, by decide, ⟨rfl, rfl, by decide⟩, by
    and_intros <;> decide⟩

/-! ## Witnesses: legs and the wake scheduler -/

theorem witness_AdmissionScanAdmits :
    RosterInv (atWork threeMeters) ∧ (atWork threeMeters).sched.openLeg = some openLeg ∧
      idle.sched.openLeg = none :=
  ⟨atWork_inv _ (by decide) (by decide), rfl, rfl⟩

/-- Two sweep requests wait, and there is credit for one wake. -/
def sweeping : State :=
  { atWork [meter 8350 .queued, meter 8351 .queued] with sched.sweeps := [8350, 8351], sched.credit := 40 }

theorem witness_WakeQueueServed :
    sweeping.sched.tx = none ∧ sweeping.sched.wakeDur ≤ sweeping.sched.credit ∧ sweeping.sched.confirms = [] ∧
      sweeping.sched.sweeps = [8350, 8351] ∧ sweeping.sched.openLeg = some openLeg ∧ 0 < openLeg.budget ∧
      ({ sweeping with sched.confirms := [8402] } : State).sched.confirms = [8402] ∧
      idle.sched.confirms = [] ∧ idle.sched.sweeps = [] ∧
      32 ≤ crowded.sched.confirms.length + crowded.sched.sweeps.length ∧
      crowded.sched.sweeps = List.range 31 ++ [31] ∧
      32 ≤ ({ idle with sched.confirms := List.range 32 } : State).sched.confirms.length ∧
      sweeping.sched.confirms.length + sweeping.sched.sweeps.length < 32 :=
  by and_intros <;> decide

theorem witness_LegOpenOpens :
    Listening (route .active .unvisited threeMeters) ∧ RosterInv (route .active .unvisited threeMeters) ∧
      (route .active .unvisited threeMeters).longOp = false ∧
      (route .active .unvisited threeMeters).roster.phase = .active ∧
      (route .active .unvisited threeMeters).sched.openLeg = none ∧ (254#8 : Byte) ≠ 255#8 :=
  ⟨listening_route _ _ _, route_inv _ _ _ (by decide) (by decide) (by decide), rfl, rfl, rfl, by decide⟩

theorem witness_LegCloseCloses :
    Listening (atWork threeMeters) ∧ RosterInv (atWork threeMeters) ∧ (atWork threeMeters).longOp = false ∧
      (atWork threeMeters).roster.phase = .active ∧ (atWork threeMeters).sched.openLeg = some openLeg :=
  ⟨listening_atWork _, atWork_inv _ (by decide) (by decide), rfl, rfl, rfl⟩

/-- Meter 8350 is heard and its candidate holds. -/
def hearing : State := { atWork [meter 8350 .heard, meter 8351 .pending] with pool.cands := [cand1] }

theorem witness_RouteCloseCloses :
    Listening hearing ∧ RosterInv hearing ∧ (hearing.pool.cands.map Candidate.serial).Nodup ∧
      hearing.longOp = false ∧ hearing.roster.phase = .active := by
  have k := atWork_inv [meter 8350 .heard, meter 8351 .pending] (by decide) (by decide)
  exact ⟨⟨rfl, rfl, by decide⟩, ⟨k.staged, k.live, k.chainOnce, k.chain, k.counts, k.empty, k.scan⟩, by decide, rfl, rfl⟩

/-- The queue holds some MISSED notices. -/
def noticed (n : Nat) (s : State) : State := { s with link.notices := List.replicate n (.missed 9003 14 .retries) }

theorem witness_MissNoticeAndSettling_queue :
    (noticed 47 idle).link.notices.length ≤ 47 ∧ 47 < (noticed 48 idle).link.notices.length ∧
      (noticed 32 idle).link.notices.length ≤ 32 ∧ 32 < (noticed 33 idle).link.notices.length := by
  decide

theorem witness_MissNoticeAndSettling_settled :
    idle.sched.openLeg = none ∧ (atWork [meter 8402 .read]).sched.openLeg = some openLeg ∧ openLeg.settled = false ∧
      ((atWork [meter 8402 .read]).leg 3).counts.outstanding = 0 ∧
      ((atWork threeMeters).leg 3).counts.outstanding ≠ 0 ∧
      RosterInv (atWork threeMeters) ∧ (atWork threeMeters).roster.phase = .active :=
  ⟨rfl, rfl, rfl, by decide, by decide, atWork_inv _ (by decide) (by decide), rfl⟩

theorem witness_MissNoticeAndSettling :
    (atWork threeMeters).entry? 8350 = some (meter 8350 .pending) ∧ (atWork threeMeters).journal.st = .opened ∧
      (atWork threeMeters).journal.waits = [] ∧ (atWork threeMeters).journal.room 18 = .fits := by
  refine ⟨by decide, rfl, rfl, by decide⟩

theorem witness_PassTimerAndRefill :
    (atWork threeMeters).asserted = false ∧ (atWork threeMeters).sched.openLeg = some openLeg ∧
      openLeg.passExpired = false ∧ (∀ o, idle.sched.openLeg = some o → o.passExpired = true) :=
  ⟨rfl, rfl, rfl, fun _ h => nomatch h⟩

/-- Meter 8350 is being woken. -/
def waking (p : Purpose) (st : EntryState) : State :=
  { atWork [meter 8350 st, meter 8351 .pending] with sched.tx := some ⟨8350, p, 40, false, 140, false⟩ }

theorem witness_TransmissionEnds :
    (waking .sweep .sending).asserted = false ∧
      (waking .sweep .sending).sched.tx = some ⟨8350, .sweep, 40, false, 140, false⟩ ∧
      (waking .sweep .sending).entry? 8350 = some (meter 8350 .sending) ∧
      ((waking .sweep .sending).leg 3).st = .opened ∧ (waking .confirm .verify).candOf? 8350 = none ∧
      (waking .confirm .verify).entry? 8350 = some (meter 8350 .verify) ∧ idle.sched.tx = none ∧
      ((route .active .passed [meter 8350 .sending]).leg 3).st ≠ .opened ∧
      (waking .sweep .heard).entry? 8350 = some (meter 8350 .heard) := by
  and_intros <;> decide

/-- Meter 8350 of leg 3 in a reply window after some attempts. -/
def windowed (st : EntryState) (attempts : Nat) : Entry :=
  { meter 8350 st with attempts := attempts, window := some 2000, confirm := some ⟨0x0A, 0x40⟩ }

theorem witness_ReplyWindowsEnd :
    (atWork [windowed .await 1]).asserted = false ∧
      (atWork [windowed .await 1]).entry? 8350 = some (windowed .await 1) ∧ (windowed .await 1).window.isSome ∧
      ((atWork [windowed .await 1]).leg 3).st = .opened ∧
      1 < ((atWork [windowed .await 1]).roster.classes[7]).retries + 1 ∧
      ((atWork [windowed .await 2]).roster.classes[7]).retries + 1 ≤ 2 ∧
      (atWork []).sched.confirms.length + (atWork []).sched.sweeps.length < 32 ∧
      (atWork []).sched.sweeps.length < openLeg.budget ∧
      (atWork [windowed .verify 2]).entry? 8350 = some (windowed .verify 2) ∧
      (atWork [windowed .verify 2]).candOf? 8350 = none ∧ (windowed .verify 2).confirm = some ⟨0x0A, 0x40⟩ ∧
      (atWork [windowed .verify 2]).journal.st = .opened ∧ (atWork [windowed .verify 2]).journal.waits = [] ∧
      (atWork [windowed .verify 2]).journal.room 23 = .fits ∧
      ((route .active .passed [windowed .await 2]).leg 3).st ≠ .opened ∧
      (hearing.candOf? 8350).isSome ∧ 32 ≤ crowded.sched.confirms.length + crowded.sched.sweeps.length := by
  and_intros <;> decide

/-! ## Witnesses: the lanes, the candidate pool and the reading evaluator -/

/-- A telegram of meter 8350 with no interval. -/
def wire : List Byte := telegram true 8350 50950 0x40 120 []

/-- Lane 1 has received a record. -/
def receiving (p : PartialRecord) : State :=
  { atWork threeMeters with intake.lanes := (atWork threeMeters).intake.lanes.set 1 ⟨.receiving p, -120, .zero⟩ }

theorem witness_LaneRecordDelivered :
    (receiving ⟨some 0xA6, some 15, wire, 15⟩).asserted = false ∧
      (receiving ⟨some 0xA6, some 15, wire, 15⟩).intake.lanes[(1 : Fin 4)].st
        = .receiving ⟨some 0xA6, some 15, wire, 15⟩ ∧
      (receiving ⟨none, none, [], 0⟩).intake.lanes[(0 : Fin 4)].st = .idle ∧
      (∀ p, (receiving ⟨none, none, [], 0⟩).intake.lanes[(0 : Fin 4)].st ≠ .receiving p) ∧
      (⟨.disabled, -120, .zero⟩ : Lane).st = .disabled := by
  refine ⟨rfl, rfl, rfl, fun p => ?_, rfl⟩
  show LaneState.idle ≠ .receiving p
  simp

/-- The telegram passes the length, check and type tests; a damaged one fails the check, another type the type test. -/
theorem witness_LaneRecordDelivered_tests :
    wire.length = 15 ∧ (byteAt wire 0).toNat = 15 ∧ (byteAt wire 12).toNat = 0 ∧
      (crc16 (wire.take 13)).toNat = le (wire.drop 13) ∧ byteAt wire 1 = 0x32 ∧
      (crc16 ((wire.set 5 1).take 13)).toNat ≠ le ((wire.set 5 1).drop 13) ∧
      (-90 : Int) < -89 ∧ (-90 : Int) ≤ -90 := by
  decide +kernel

theorem witness_LayoutsReadBack :
    8350 < 4294967296 ∧ 50950 < 4294967296 ∧ [20, 15, 18, 0, 65535, 1].length ≤ 6 ∧
      (∀ x ∈ [20, 15, 18, 0, 65535, 1], x < 65536) ∧ 65535 < 65536 ∧ 255 < 256 := by decide

/-- A pool of 64 candidates, the oldest of them HOLDING or all CLOSED. -/
def fullPool (closed : Bool) : State :=
  { atWork [meter 8350 .pending] with
    pool.cands := (List.range 64).map fun n =>
      { cand1 with serial := n + 1,
                   evaluated := if closed then some (.confirm ⟨0, n + 1, 0, 0, 0, .cleared, 0, 0⟩ 0) else none } }

theorem witness_RecordLookup :
    (atWork threeMeters).roster.phase = .active ∧ (atWork threeMeters).entry? 8350 = some (meter 8350 .pending) ∧
      (atWork threeMeters).entry? 8402 = some (meter 8402 .read) ∧ (atWork threeMeters).entry? 9 = none ∧
      (atWork [meter 8350 .excluded]).entry? 8350 = some (meter 8350 .excluded) ∧ idle.roster.phase ≠ .active ∧
      (atWork threeMeters).candOf? 8350 = none ∧ copy1.register < 10 ^ ((atWork []).roster.classes[7]).digits ∧
      10 ^ ((atWork []).roster.classes[7]).digits ≤ ({ copy1 with register := 100000 } : Copy).register ∧
      (atWork threeMeters).pool.cands.length < 64 ∧ hearing.candOf? 8350 = some cand1 ∧ cand1.evaluated = none ∧
      ((120 : Byte) - cand1.best.seq).toNat < 128 ∧ 128 ≤ ((119 : Byte) - cand1.best.seq).toNat ∧
      64 ≤ (fullPool false).pool.cands.length ∧ (∀ k ∈ (fullPool true).pool.cands, k.evaluated.isSome) ∧
      ((fullPool false).pool.cands.find? (fun k => k.evaluated.isNone)).isSome := by
  and_intros <;> decide

theorem witness_CopyJoins :
    cand1.copies ≤ 255 ∧ cand1.disagreements ≤ 255 ∧ copy1.seq = cand1.best.seq ∧
      ({ copy1 with seq := 121 } : Copy).seq ≠ cand1.best.seq := by decide

/-- The confirming candidate of a meter in VERIFY. -/
def confirming : State := { atWork [windowed .verify 1] with pool.cands := [cand1] }

theorem witness_HoldExpiryCloses :
    hearing.asserted = false ∧ hearing.candOf? 8350 = some cand1 ∧ cand1.evaluated = none ∧
      hearing.entry? 8350 = some (meter 8350 .heard) ∧ hearing.roster.phase = .active ∧
      hearing.journal.st = .opened ∧ hearing.journal.waits = [] ∧
      hearing.journal.room (hearing.evaluate (meter 8350 .heard) cand1 false).record.bytes.length = .fits ∧
      (hearing.leg 3).st ≠ .passed ∧ hearing.candOf? 9 = none ∧
      confirming.entry? 8350 = some (windowed .verify 1) ∧ confirming.candOf? 8350 = some cand1 ∧
      ({ hearing with journal.waits := [.slot 1] } : State).journal.waits ≠ [] ∧
      ({ hearing with journal.st := .full } : State).journal.st = .full := by
  and_intros <;> decide +kernel

theorem witness_HoldExpiryCloses_refused :
    ({ hearing with journal.indexStart := 48 } : State).journal.room 48 = .noSpace ∧
      ({ hearing with journal.buffer := [List.replicate 1000 0] } : State).journal.room 48 = .noBuffer := by
  decide +kernel

/-- Chapter 5, the suspect reading: the meter enters VERIFY with STATUS_ALARM and REVERSE suspected. -/
theorem test_suspect_reading :
    ∃ t, exec (.holdExpiry 8350) hearing = .next t ∧
      (t.entry? 8350).map (fun e => (e.st, e.prevReg, e.totalScore, e.confirm)) =
        some (.verify, 50950, 21, some ⟨0x0A, 0x40⟩) ∧
      t.flag .tamper = false := by
  refine ⟨_, rfl, ?_, ?_⟩ <;> decide +kernel

theorem witness_ReadingRecordMade : (meter 8350 .heard).st ≠ .verify := by decide

theorem witness_ForwardDifference : 230 < 1000000 ∧ 999850 < 1000000 := by decide

theorem witness_MovementCases :
    (4 ≤ 9 ∧ 9 ≤ 9 ∧ 500000000 < 10 ^ 9 ∧ 255 ≤ 255) ∧
      (4 ≤ 4 ∧ 0 < 10 ^ 4 ∧ 0 ≤ 255) := by decide

theorem witness_DailyRate : 26214000000000 ≤ 32767500000000 ∧ 1 ≤ 43325 ∧ dailyRate .forward 3800 43325 < 4294967295 := by
  decide

/-! ## Witnesses: the journal, the flash and start-up -/

/-- A MISS record. -/
def miss1 : JournalRecord :=
  .miss { routeId := 20001, serial := 9003, leg := 14, reason := .retries, attempts := 2, routeTime := 300 }

/-- An open batch of 254 records. -/
def almostFull : State := { idle with journal.openBatch := some ⟨4, 0, 7, 254, 0⟩, journal.recordEnd := 4572 }

theorem witness_RecordOfferedAndAppended :
    idle.journal.st = .opened ∧ idle.journal.waits = [] ∧
      idle.journal.recordEnd + 18 + 16 ≤ idle.journal.indexStart ∧
      (idle.journal.openBatch = none → idle.journal.nextBatch ≤ 65535) ∧
      ¬ (({ idle with journal.nextBatch := 65536 } : State).journal.nextBatch ≤ 65535) ∧
      ({ idle with journal.st := .full } : State).journal.st = .full ∧
      (State.reset.journal.st ≠ .opened ∧ State.reset.journal.st ≠ .full) ∧
      ({ idle with journal.waits := [.held miss1] } : State).journal.waits ≠ [] ∧
      1024 < ({ idle with journal.buffer := [List.replicate 1007 0] } : State).journal.buffer.flatten.length + 18 ∧
      almostFull.journal.openBatch = some ⟨4, 0, 7, 254, 0⟩ ∧ almostFull.journal.st = .opened := by
  refine ⟨rfl, rfl, by decide, fun _ => by decide, by decide, rfl, by decide, by decide, by decide +kernel, rfl, rfl⟩

theorem witness_BatchSealSeals :
    Listening almostFull ∧ almostFull.longOp = false ∧ almostFull.journal.openBatch = some ⟨4, 0, 7, 254, 0⟩ ∧
      almostFull.journal.st = .opened ∧ Listening idle ∧ idle.journal.openBatch = none :=
  ⟨⟨rfl, rfl, by decide⟩, rfl, rfl, rfl, listening_idle, rfl⟩

/-- A journal with one delivered batch of 300 bytes. -/
def delivered : State :=
  { idle with
    journal := { idle.journal with recordEnd := 300, progEnd := 300, newestEnd := 300, total := 1, delivered := 1,
                                   indexStart := 2097136, pointer := 2097120, nextBatch := 2 } }

/-- Sector 0 is being erased, sector 31 to follow or none. -/
def erasing (more : Bool) : State :=
  { delivered with journal.st := .erasing, journal.erasing := if more then [0, 31] else [0],
                   flash.port := some (.erase 0) }

theorem witness_JournalClearRuns :
    Listening delivered ∧ delivered.longOp = false ∧ delivered.roster.phase = .none ∧
      delivered.upload.st ≠ .sending ∧ delivered.upload.st ≠ .awaitAck ∧ delivered.journal.st = .opened ∧
      delivered.journal.delivered = delivered.journal.total ∧ delivered.journal.seals = [] ∧
      delivered.journal.recordEnd = delivered.journal.newestEnd ∧ delivered.journal.waits = [] ∧
      (erasing true).flash.port = some (.erase 0) ∧ (erasing true).journal.erasing = [0, 31] ∧
      (erasing false).journal.erasing = [0] ∧ (erasing true).asserted = false ∧ (erasing true).journal.seals = [] :=
  ⟨⟨rfl, rfl, by decide⟩, rfl, rfl, by decide, by decide, rfl, rfl, rfl, rfl, rfl, rfl, rfl, rfl, rfl, rfl⟩

/-- R138: the sectors of one delivered batch in a 2 MiB store are the first and the last. -/
theorem test_clear_sectors : delivered.journal.clearSectors = [0, 31] := by decide +kernel

/-- The index program of the front sealed batch is in progress. -/
def indexing : State :=
  { idle with
    journal.seals := [⟨4, 3880, 192, 4, 7, 0, 2097088, true⟩], journal.indexStart := 2097088,
    flash.port := some (.index 2097088 (indexBytes 4 3880 192 4 7 0 0)) }

theorem witness_ProgramsEndGood :
    programming.asserted = false ∧ programming.flash.port = some (.page 16 [0x4D, 0x12]) ∧
      indexing.flash.port = some (.index 2097088 (indexBytes 4 3880 192 4 7 0 0)) ∧
      indexing.journal.seals = [⟨4, 3880, 192, 4, 7, 0, 2097088, true⟩] := ⟨rfl, rfl, rfl, rfl⟩

theorem witness_WaitOrderRetriedAndReported :
    idle.journal.waits = [] ∧ ({ idle with journal.waits := [.held miss1] } : State).waitRecord (.held miss1) = some miss1 ∧
      idle.journal.st = .opened ∧ idle.journal.room miss1.bytes.length = .fits ∧
      ({ idle with journal.buffer := [List.replicate 1007 0] } : State).journal.room miss1.bytes.length = .noBuffer ∧
      ({ idle with journal.st := .full, journal.waits := [.held miss1] } : State).journal.st ≠ .opened ∧
      (∀ w ∈ [WaitEntry.held miss1], w.isHeld = true) ∧ idle.link.counters.refusal ≤ 65535 := by
  refine ⟨rfl, rfl, rfl, by decide +kernel, by decide +kernel, by decide, by decide, by decide⟩

/-- The mark program of batch 7 is in progress. -/
def marking : State :=
  { idle with upload.st := .sending, upload.stage := .marking, upload.batch := some batch7, upload.slot := 2097040,
              flash.port := some (.mark 2097040 batch7) }

/-- The recovery scan of a 2 MiB store, right at its start. -/
def scan0 : Recovery :=
  { size := 2097152, slot := 2097136, lastNumber := 0, newestEnd := 0, maxEnd := 0, lowest := 2097152, total := 0,
    delivered := 0, runOpen := true, pointer := 2097136, recordEnd := 0, nextBatch := 1, stage := .indexWalk }

/-- The recovery scan at a stage, its operation at the port. -/
def recovering (st : RecoveryStage) (op : FlashReq) : State :=
  { State.reset with startup := some (.scanning { scan0 with stage := st }), flash.port := some op }

theorem witness_ProgramsEndFailedOrMarked :
    programming.asserted = false ∧ programming.flash.port = some (.page 16 [0x4D, 0x12]) ∧
      programming.journal.st = .opened ∧ programming.journal.waits = [] ∧ programming.upload.st = .idle ∧
      (recovering (.sealing [⟨0, 78, 2, false⟩] false) (.recoveryIndex 2097136 [])).flash.port
        = some (.recoveryIndex 2097136 []) ∧
      (recovering (.sealing [⟨0, 78, 2, false⟩] false) (.recoveryIndex 2097136 [])).startup
        = some (.scanning { scan0 with stage := .sealing [⟨0, 78, 2, false⟩] false }) ∧
      marking.flash.port = some (.mark 2097040 batch7) ∧ marking.upload.st = .sending ∧
      marking.upload.stage = .marking ∧ marking.journal.st = .opened ∧ marking.journal.waits = [] ∧
      ¬ (({ marking with upload := .idle } : State).upload.st = .sending) :=
  ⟨rfl, rfl, rfl, rfl, rfl, rfl, rfl, rfl, rfl, rfl, rfl, rfl, by decide⟩

theorem witness_StartUpIdentifies :
    State.reset.asserted = false ∧ State.reset.startup = some (.readyWait 4000) ∧
      ({ State.reset with startup := some .identWait } : State).startup = some .identWait ∧
      21 ≤ (21#8).toNat ∧ (27#8).toNat ≤ 27 ∧ ¬ (21 ≤ (28#8).toNat ∧ (28#8).toNat ≤ 27) ∧
      ¬ (21 ≤ (20#8).toNat ∧ (20#8).toNat ≤ 27) :=
  by and_intros <;> decide

theorem witness_RecoveryScanReads :
    (recovering .indexWalk (.read .recovery 2097136 16)).asserted = false ∧
      (recovering .indexWalk (.read .recovery 2097136 16)).startup = some (.scanning scan0) ∧
      (recovering .indexWalk (.read .recovery 2097136 16)).flash.port = some (.read .recovery 2097136 16) ∧
      scan0.newestEnd < scan0.lowest ∧
      (∀ i < 16, Memory.read1 (recovering .indexWalk .identify).flash.store (2097136 + i) = 0xFF#8) ∧
      (recovering (.recordWalk 0 []) (.read .recovery 0 256)).flash.port = some (.read .recovery 0 256) ∧
      (recovering (.sealing [⟨0, 78, 2, false⟩] false) (.recoveryIndex 2097136 [])).flash.port
        = some (.recoveryIndex 2097136 []) :=
  ⟨rfl, rfl, rfl, by decide, fun _ _ => rfl, rfl, rfl⟩

/-- The rebuild scan of a route of one PENDING meter, at a stage, over a store with one MISS record of the route. -/
def rebuilding (st : RebuildStage) (op : Option FlashReq) (cells : List Host.Cell) : State :=
  { route .committing .passed [meter 8350 .pending] with
    roster.rebuild := some { Rebuild.asked with stage := st }, flash.port := op, flash.store := cells }

theorem rebuilding_inv (st : RebuildStage) (op : Option FlashReq) (cells : List Host.Cell) :
    RosterInv (rebuilding st op cells) := by
  have k := route_inv .committing .passed [meter 8350 .pending] (by decide) (by decide) (by decide)
  exact ⟨k.staged, k.live, k.chainOnce, k.chain, k.counts, k.empty, fun _ => rfl⟩

theorem witness_RebuildScanRuns :
    (rebuilding .waiting none []).roster.rebuild = some Rebuild.asked ∧ Rebuild.asked.stage = .waiting ∧
      (rebuilding .waiting none []).journal.buffer = [] ∧ (rebuilding .waiting none []).journal.seals = [] ∧
      (rebuilding .waiting none []).journal.total = 0 ∧ (rebuilding .waiting none []).journal.openBatch = none ∧
      RosterInv (rebuilding .waiting none []) ∧
      0 < ({ rebuilding .waiting none [] with journal.total := 1 } : State).journal.total ∧
      ({ idle with journal.indexStart := 2097136 } : State).journal.indexStart ≤ idle.journal.size - 16 ∧
      (rebuilding (.records 0 300 false) (some (.read .rebuild 0 60)) []).flash.port = some (.read .rebuild 0 60) ∧
      idle.journal.size ≤ 2097152 ∧ 0 < idle.journal.size :=
  ⟨rfl, rfl, rfl, rfl, rfl, rfl, rebuilding_inv _ _ _, by decide, by decide, rfl, by decide, by decide⟩

/-- A READING record of the route. -/
def reading1 (serial : Nat) (suspect : Bool) : ReadingRec :=
    { routeId := 20001, serial := serial, leg := 3, cls := 7, register := 51300, amount := 100, consumption := 100,
      rate := 7, elapsed := 20066, status := 4, conds := 0, visit := 0, total := 3, copies := 1, lanes := 1,
      late := false, woken := false, suspect := suspect, case := .forward, attempts := 0, rssi := -90, seq := 62,
      routeTime := 3960, intervals := [] }

/-- Its bytes. -/
def readingBytes (serial : Nat) : List Byte := (reading1 serial false).bytes

theorem witness_RebuildScanRuns_record :
    let s := rebuilding (.records 0 300 false) (some (.read .rebuild 0 60)) (Memory.overlay [] 0 (readingBytes 8350))
    let bs := Memory.readN s.flash.store 0 60
    recordSize (byteAt bs 0) (byteAt bs 1) = true ∧ (byteAt bs 1).toNat = 48 ∧ 0 + 48 < 300 ∧
      xorAll (bs.take 48) = 0 ∧ s.roster.routeId = some (field bs 3 4) ∧ field bs 7 4 = 8350 ∧ byteAt bs 0 = 0x52 ∧
      s.entry? 8350 = some (meter 8350 .pending) ∧ s.entry? 9 = none ∧
      xorAll ((bs.set 17 0).take 48) ≠ 0 ∧ field (bs.set 3 0) 3 4 ≠ 20001 := by
  decide +kernel

/-! ## Witnesses: the upload engine -/

/-- A read for the engine is in progress. -/
def streaming (op : FlashReq) : State :=
  { idle with upload.st := .sending, upload.stage := .streaming, upload.batch := some batch7, upload.slot := 2097040,
              flash.port := some op }

theorem witness_UploadStartsAndStops :
    Listening idle ∧ idle.longOp = false ∧ idle.roster.phase = .none ∧ idle.upload.st ≠ .sending ∧
      idle.upload.st ≠ .awaitAck ∧ marking.flash.port = some (.mark 2097040 batch7) ∧
      (∀ slot b, idle.flash.port ≠ some (.mark slot b) ∧ FlashReq.mark slot b ∉ idle.flash.waiting) ∧
      idle.journal.total ≤ idle.journal.delivered ∧ idle.journal.seals = [] ∧ indexing.journal.seals ≠ [] ∧
      ({ idle with journal.total := 1 } : State).journal.delivered < 1 := by
  refine ⟨listening_idle, rfl, rfl, by decide, by decide, rfl, fun slot b => ⟨?_, ?_⟩, by decide, rfl, by decide,
    by decide⟩
  · show (none : Option FlashReq) ≠ _
    simp
  · show _ ∉ ([] : List FlashReq)
    simp

theorem witness_BatchReceivedAcknowledges :
    Listening awaiting ∧ awaiting.longOp = false ∧ awaiting.upload.st = .awaitAck ∧
      awaiting.upload.batch = some batch7 ∧ 7 < 65536 ∧ 7 = batch7.number ∧ 8 ≠ batch7.number ∧
      awaiting.upload.tailCrc = some 0x3C41 ∧ awaiting.upload.tailCrc ≠ some 0x3C40 ∧
      awaiting.upload.mismatches + 1 < 3 ∧
      3 ≤ ({ awaiting with upload.mismatches := 2 } : State).upload.mismatches + 1 :=
  ⟨⟨rfl, rfl, by decide⟩, rfl, rfl, rfl, by decide, rfl, by decide, rfl, by decide, by decide, by decide⟩

theorem witness_UploadReadsEnd :
    (streaming (.read (.uploadSlot false) 2097040 16)).asserted = false ∧
      (streaming (.read (.uploadSlot false) 2097040 16)).flash.port = some (.read (.uploadSlot false) 2097040 16) ∧
      (streaming (.read (.uploadSlot false) 2097040 16)).upload.st = .sending ∧
      (streaming (.read (.uploadSlot false) 2097040 16)).upload.stage = .streaming ∧
      parseIndex (indexBytes 7 0 300 5 12 0 0x3C41) = some batch7 ∧ parseIndex (List.replicate 16 0xFF) = none ∧
      (streaming (.read (.uploadData false) 0 240)).upload.batch = some batch7 ∧ 0 + 240 ≤ idle.journal.size ∧
      idle.journal.size < 2097000 + 240 ∧
      (streaming (.read (.uploadData true) 0 240)).flash.port = some (.read (.uploadData true) 0 240) := by
  refine ⟨rfl, rfl, rfl, rfl, by decide, by decide, rfl, by decide, by decide, rfl⟩

/-! ## Witnesses: the further clauses of the statements -/

/-- The ready frame is taken at the end of the step: a head with bytes to send, with all sent, of a VOID batch; a tail. -/
def sending (b : BatchInfo) (off : Nat) (f : UploadFrame) : State :=
  { idle with upload.st := .sending, upload.batch := some b, upload.sendOffset := off, upload.ready := some f }

theorem witness_EndOfStep_frames :
    let a := sending batch7 0 (.head batch7)
    a.link.sending = none ∧ a.link.replies = [] ∧ a.upload.ready = some (.head batch7) ∧
      a.upload.batch = some batch7 ∧ batch7.void = false ∧ a.upload.sendOffset < batch7.length ∧
      batch7.length ≤ (sending batch7 300 (.head batch7)).upload.sendOffset ∧
      ({ batch7 with void := true } : BatchInfo).void = true ∧
      (sending batch7 300 (.tail 7 0x3C41 false)).upload.ready = some (.tail 7 0x3C41 false) ∧
      (∀ n c d, UploadFrame.head batch7 ≠ .tail n c d) := by
  and_intros <;> first | decide | exact fun _ _ _ h => nomatch h

/-- The front sealed batch is programmed and its index program not yet requested. -/
def sealReady : State :=
  { idle with journal.seals := [⟨4, 3880, 192, 4, 7, 0, 2097088, false⟩], journal.progEnd := 4072 }

theorem witness_EndOfStep_programs :
    let a : State := { programming with flash.port := none }
    a.journal.buffer.flatten ≠ [] ∧ (∀ o bs, a.flash.port ≠ some (.page o bs) ∧ FlashReq.page o bs ∉ a.flash.waiting) ∧
      (∃ o bs, programming.flash.port = some (.page o bs)) ∧ idle.journal.buffer.flatten = [] ∧
      sealReady.journal.seals = [⟨4, 3880, 192, 4, 7, 0, 2097088, false⟩] ∧ 3880 + 192 ≤ sealReady.journal.progEnd ∧
      (∃ b rest, indexing.journal.seals = b :: rest ∧ b.requested = true) := by
  intro a
  refine ⟨by decide, fun o bs => ⟨?_, ?_⟩, ⟨_, _, rfl⟩, rfl, rfl, by decide, ⟨_, _, rfl, rfl⟩⟩
  · show none ≠ some (FlashReq.page o bs); simp
  · show FlashReq.page o bs ∉ []; simp

theorem witness_EndOfStep_issue :
    let w : List FlashReq := [.read .rebuild 0 16, .erase 1, .read .rebuild 16 16]
    let r : FlashReq := .erase 1
    w = [.read .rebuild 0 16] ++ r :: [.read .rebuild 16 16] ∧ (∀ x ∈ [FlashReq.read .rebuild 0 16], r.rank < x.rank) ∧
      (∀ x ∈ [FlashReq.read .rebuild 16 16], r.rank ≤ x.rank) ∧ r.rank ≠ 3 ∧
      (∀ x ∈ [FlashReq.read .rebuild 0 16], x.rank = 3 ∧ (erasing true).journal.st = .erasing) ∧
      ({ idle with flash.waiting := w } : State).finish.flash.port = some r := by
  and_intros <;> decide

theorem witness_RosterEditApplies_bodies :
    (atWork threeMeters).entry? 8350 = some (meter 8350 .pending) ∧ (0#8 ≠ 1 ∧ 0#8 ≠ 2 ∧ 0#8 ≠ (3#8 : Byte)) ∧
      [1#8, 0, 0, 0, 0].length < 6 ∧ ([1#8, 0, 0, 0, 0, 0, 0].length - 1) % 5 ≠ 0 ∧
      (5 * 0 + 5 < [1#8, 1, 0, 0, 0, 8].length ∧ 8 ≤ (byteAt [1#8, 1, 0, 0, 0, 8] (5 * 0 + 5)).toNat) := by
  decide

/-- Leg 3 is open, an open batch of 77 bytes stands, and no meter of the leg waits. -/
def closing : State :=
  { atWork [meter 8402 .read] with journal.openBatch := some ⟨4, 0, 3, 2, 0⟩, journal.recordEnd := 77 }

theorem witness_LegCloseCloses_batch :
    closing.sched.openLeg = some openLeg ∧
      (∀ e ∈ closing.roster.entries, e.loaded.leg = openLeg.leg → e.st ≠ .pending ∧ e.st ≠ .queued ∧ e.st ≠ .verify) ∧
      (closing.received.closedLeg 3 false).journal.openBatch = some ⟨4, 0, 3, 2, 0⟩ ∧
      (closing.received.closedLeg 3 false).journal.st = .opened := by
  and_intros <;> decide

theorem witness_RouteCloseCloses_batch :
    let s : State := { closing with sched.openLeg := none }
    let v := ((s.received.forceCloseAll.closeOpenLeg).missRoute).endConfirmations (fun _ => true) true
    Listening s ∧ s.sched.openLeg = none ∧ (∀ c ∈ s.pool.cands, c.evaluated.isSome) ∧
      (∀ e ∈ s.roster.entries, e.st ≠ .pending ∧ e.st ≠ .queued ∧ e.st ≠ .verify) ∧
      v.journal.openBatch = some ⟨4, 0, 3, 2, 0⟩ ∧ v.journal.st = .opened :=
  ⟨⟨rfl, rfl, by decide⟩, by and_intros <;> decide⟩

theorem witness_TurnedAway_bodies :
    [0#8] ≠ [] ∧ loading.upload.st = .idle ∧ loading.roster.phase = .loading ∧ idle.roster.phase = .none ∧
      idle.journal.st ≠ .absent ∧ (route .closed .passed threeMeters).roster.phase = .closed ∧
      (atWork threeMeters).roster.phase = .active := by
  decide

theorem witness_HoldExpiryCloses_answered :
    let ev := hearing.evaluate (meter 8350 .heard) cand1 false
    (hearing.offer ev.record (.slot 8350)).1 = .appended ∧
      (({ hearing with journal.st := .full } : State).offer ev.record (.slot 8350)).1 = .refused := by
  decide +kernel

theorem witness_ReadingRecordMade_confirm :
    (windowed .verify 1).st = .verify ∧ (windowed .verify 1).confirm = some ⟨0x0A, 0x40⟩ := by
  decide

theorem witness_LayoutsReadBack_records :
    (reading1 8350 false).intervals.length ≤ 6 ∧ 281474976710655 < 281474976710656 ∧ 16777215 < 16777216 ∧
      (-140 : Int) ≤ -140 ∧ (-20 : Int) ≤ -20 ∧ 7 < 8 ∧ [20, 65535][1]? = some 65535 := by
  decide

/-- Records wait in the journal, the first as given and one behind it; `full` bytes are in the buffer. -/
def waiting (w : WaitEntry) (full : Nat) : State :=
  { hearing with journal.waits := [w, .held miss1], journal.buffer := [List.replicate full 0] }

/-- The evaluated record of a CLOSED candidate of meter 8350. -/
def closed1 (suspect : Bool) : Evaluated := .reading (reading1 8350 suspect) 0 true 66

/-- The CLOSED slot of meter 8350 waits. -/
def slotWaits : State :=
  { waiting (.slot 8350) 0 with pool.cands := [{ cand1 with evaluated := some (closed1 false) }] }

theorem witness_WaitOrderRetriedAndReported_steps :
    (waiting (.held miss1) 0).journal.waits = .held miss1 :: [.held miss1] ∧
      (waiting (.held miss1) 0).waitRecord (.held miss1) = some miss1 ∧
      (waiting (.held miss1) 0).journal.room miss1.bytes.length = .fits ∧
      (waiting (.held miss1) 1007).journal.room miss1.bytes.length = .noBuffer ∧
      ({ waiting (.held miss1) 0 with journal.indexStart := 33 } : State).journal.room miss1.bytes.length = .noSpace ∧
      slotWaits.candOf? 8350 = some { cand1 with evaluated := some (closed1 false) } ∧
      slotWaits.waitRecord (.slot 8350) = some (.reading (reading1 8350 false)) ∧
      slotWaits.waitRecord (.moved (closed1 false)) = some (.reading (reading1 8350 false)) := by
  and_intros <;> decide +kernel

theorem witness_WaitOrderRetriedAndReported_outcomes :
    slotWaits.entry? (reading1 8350 false).serial = some (meter 8350 .heard) ∧ slotWaits.entry? 9 = none ∧
      (reading1 8350 true).suspect = true ∧ (reading1 8350 false).suspect = false ∧
      (slotWaits.leg (reading1 8350 false).leg).st = .opened ∧
      ((route .active .passed [meter 8350 .heard]).leg 3).st = .passed ∧ slotWaits.roster.phase ≠ .closed ∧
      (route .closed .passed [meter 8350 .verify]).roster.phase = .closed := by
  decide +kernel

theorem witness_ProgramsEndGood_blank :
    Memory.wf [(18, 0x12#8)] ∧ (∀ i < [0x4D#8, 0x12].length, Memory.read1 [(18, 0x12#8)] (16 + i) = 0xFF#8) := by
  decide

/-- A page program fails while a record waits and a sealed batch is in the list. -/
def failing : State :=
  { programming with
    journal.waits := [.held miss1], journal.seals := [⟨4, 3880, 192, 4, 7, 0, 2097088, true⟩] }

theorem witness_ProgramsEndFailedOrMarked_waits :
    failing.asserted = false ∧ failing.flash.port = some (if false then .index 16 [0x4D, 0x12] else .page 16 [0x4D, 0x12]) ∧
      failing.journal.st = .opened ∧ (∀ w ∈ failing.journal.waits, w.isHeld = true) ∧
      indexing.flash.port = some (if true then .index 2097088 (indexBytes 4 3880 192 4 7 0 0) else .identify) ∧
      indexing.journal.st = .opened := by
  and_intros <;> decide

/-- A mark fails in FAULT, or in OPEN after the engine has left it. -/
theorem witness_ProgramsEndFailedOrMarked_marks :
    let s : State := { marking with journal.st := .fault }
    let t : State := { marking with upload := .idle }
    s.asserted = false ∧ s.flash.port = some (.mark 2097040 batch7) ∧ s.journal.st = .fault ∧
      s.upload.st = .sending ∧ s.upload.stage = .marking ∧ t.flash.port = some (.mark 2097040 batch7) ∧
      t.journal.st = .opened ∧ t.upload.st = .idle := by
  and_intros <;> decide

theorem witness_RecoveryScanReads_blank :
    let r : Recovery := { scan0 with newestEnd := 2097152 }
    r.stage = .indexWalk ∧ ¬ r.newestEnd < r.lowest ∧ (∀ b ∈ List.replicate 16 0xFF#8, b = 0xFF#8) := by
  decide

theorem witness_RecoveryScanReads_slots :
    let s : State := { recovering .indexWalk (.read .recovery 2097136 16) with
      flash.store := Memory.overlay [] 2097136 (indexBytes 7 0 300 5 12 0 0x3C41) }
    parseIndex (Memory.readN s.flash.store 2097136 16) = some batch7 ∧ scan0.lastNumber < batch7.number ∧
      (∃ b ∈ [0x00#8, 0xFF#8], b ≠ 0xFF#8) ∧ parseIndex (0x00#8 :: List.replicate 15 0xFF) = none := by
  decide +kernel

theorem witness_RecoveryScanReads_records :
    wellFormedRecord miss1.bytes = true ∧ 0 + (byteAt miss1.bytes 1).toNat ≤ scan0.lowest ∧
      (∀ b ∈ (List.replicate 256 0xFF#8).take (256 - 0 % 256), b = 0xFF#8) ∧
      (byteAt [0xFF#8, 0x00] 0 = 0xFF#8 ∧ ∃ b ∈ [0xFF#8, 0x00].take (256 - 0 % 256), b ≠ 0xFF#8) ∧
      wellFormedRecord [0x00#8] = false ∧ byteAt [0x00#8] 0 ≠ 0xFF#8 ∧
      (recovering (.blankSearch 20 256 []) (.read .recovery 256 256)).flash.port = some (.read .recovery 256 256) ∧
      scan0.lowest < 2097153 ∧ scan0.size ≤ 2097153 := by
  and_intros <;> decide +kernel

theorem witness_RecoveryScanReads_seals :
    runSpans [(0, 18), (18, 60)] = [⟨0, 78, 2, false⟩] ∧ [(0, 18), (18, 60)][255 * 0]? = some (0, 18) ∧
      [(0, 18), (18, 60)][min (255 * 0 + 254) (2 - 1)]? = some (18, 60) ∧
      16 * (1 + 1) ≤ scan0.lowest ∧ 78 < scan0.lowest - 16 * 1 - 16 ∧ scan0.lowest - 16 * 1 - 16 ≤ 2097130 ∧
      runSpans [] = [] ∧ scan0.nextBatch ≤ 65535 ∧ 78 ≤ scan0.lowest - 16 ∧ scan0.lowest - 16 < 2097137 := by
  decide

theorem witness_RebuildScanRuns_slots :
    let s := rebuilding .slots (some (.read .rebuild 2097136 16))
      (Memory.overlay [] 2097136 (indexBytes 7 0 300 5 12 0 0x3C41))
    s.roster.rebuild = some { Rebuild.asked with stage := .slots } ∧ 2097136 < s.journal.size ∧
      parseIndex (Memory.readN s.flash.store 2097136 16) = some batch7 ∧ Rebuild.asked.lastNumber < batch7.number ∧
      batch7.void = false ∧ batch7.length ≠ 0 ∧ parseIndex (List.replicate 16 0xFF) = none := by
  decide +kernel

theorem witness_RebuildScanRuns_misses :
    let bs := MissRec.bytes { routeId := 20001, serial := 8350, leg := 3, reason := .legClosed, attempts := 2, routeTime := 300 }
    let cs := ConfirmRec.bytes ⟨20001, 8350, 50950, 0, 0, .cleared, 300, -90⟩
    let s := rebuilding .waiting none []
    xorAll bs = 0 ∧ s.roster.routeId = some (field bs 3 4) ∧ s.entry? (field bs 7 4) = some (meter 8350 .pending) ∧
      byteAt bs 0 = 0x4D ∧ byteAt bs 12 = 1 ∧ xorAll cs = 0 ∧ field cs 3 4 = 20001 ∧ field cs 7 4 = 8350 ∧
      byteAt cs 0 = 0x43 ∧ recordSize 0 18 = false ∧ 300 ≤ 282 + 18 := by
  decide +kernel

theorem witness_UploadReadsEnd_stopped :
    (streaming (.read (.uploadSlot true) 2097040 16)).flash.port = some (.read (.uploadSlot true) 2097040 16) := rfl

/-- The window of a VERIFY meter with its attempts spent ends, in a journal in a state with these records waiting. -/
def unanswered (st : JournalState) (w : List WaitEntry) : State :=
  { atWork [windowed .verify 2] with journal.st := st, journal.waits := w, sched.confirms := [8350] }

theorem witness_ReplyWindowsEnd_unanswered :
    let r : JournalRecord := .confirm ⟨20001, 8350, 51200, 0x40, 0, .unconfirmed, 0, -140⟩
    (unanswered .opened []).entry? 8350 = some (windowed .verify 2) ∧
      (windowed .verify 2).confirm = some ⟨0x0A, 0x40⟩ ∧ (unanswered .opened []).candOf? 8350 = none ∧
      ((unanswered .opened []).offer r (.held r)).1 = .appended ∧
      ((unanswered .opened [.held miss1]).offer r (.held r)).1 = .waiting ∧
      ((unanswered .full []).offer r (.held r)).1 = .refused ∧ (confirming.candOf? 8350).isSome := by
  and_intros <;> decide +kernel

/-- R94: a record that waits ends the confirmation, and one refused in ACTIVE leaves the meter in VERIFY unrequested. -/
theorem test_unanswered_waits_and_refused :
    (((unanswered .opened [.held miss1]).endUnanswered 8350 false).entry? 8350).map
        (fun e => (e.st, e.refStatus, e.confirm, e.window)) = some (.read, 0x40, none, none) ∧
      (((unanswered .full []).endUnanswered 8350 false).entry? 8350).map
        (fun e => (e.st, e.confirm, e.window)) = some (.verify, some ⟨0x0A, 0x40⟩, none) ∧
      ((unanswered .full []).endUnanswered 8350 false).sched.confirms = [] := by
  and_intros <;> decide +kernel

theorem witness_LegCloseCloses_verify :
    let e := windowed .verify 2
    let s := unanswered .full []
    let t := confirming
    Listening s ∧ RosterInv s ∧ s.longOp = false ∧ s.roster.phase = .active ∧ s.sched.openLeg = some openLeg ∧
      e ∈ s.roster.entries ∧ e.loaded.leg = openLeg.leg ∧ e.st = .verify ∧ s.candOf? e.loaded.serial = none ∧
      e.confirm = some ⟨0x0A, 0x40⟩ ∧ Listening t ∧ RosterInv t ∧ t.sched.openLeg = some openLeg ∧
      windowed .verify 1 ∈ t.roster.entries ∧ (t.candOf? (windowed .verify 1).loaded.serial).isSome := by
  have k (a : Nat) := atWork_inv [windowed .verify a] (by simp [windowed, meter, Loaded.fresh, loadedMeter]) (by simp)
  refine ⟨⟨rfl, rfl, by decide⟩, ⟨(k 2).staged, (k 2).live, (k 2).chainOnce, (k 2).chain, (k 2).counts, (k 2).empty,
    (k 2).scan⟩, rfl, rfl, rfl, by decide, rfl, rfl, by decide, rfl, ⟨rfl, rfl, by decide⟩, ⟨(k 1).staged, (k 1).live,
    (k 1).chainOnce, (k 1).chain, (k 1).counts, (k 1).empty, (k 1).scan⟩, rfl, by decide, by decide⟩

/-- IDENTIFY but for its last byte, the second of its CRC. -/
def lastByte : State := { idle with link.rx := .check [0x01] [(frameCrc 1 []).setWidth 8] }

theorem witness_ReceiverByByte_complete :
    lastByte.asserted = false ∧ lastByte.link.rx = .check [0x01] [(frameCrc 1 []).setWidth 8] ∧ Listening lastByte ∧
      [0x01#8] = Cmd.identify.kind :: [] ∧
      frameCrc 1 [] = BitVec.ofNat 16 (le [(frameCrc 1 []).setWidth 8, ((frameCrc 1 []) >>> 8).setWidth 8]) ∧
      frameCrc (byteAt [0x01#8] 0) [0x01#8].tail ≠ BitVec.ofNat 16 (le [(frameCrc 1 []).setWidth 8, 0x00]) :=
  ⟨rfl, rfl, ⟨rfl, rfl, by decide⟩, rfl, by decide +kernel, by decide +kernel⟩

theorem witness_TurnedAway_uploads :
    let s : State := { idle with upload.st := .stalled, journal.total := 1 }
    let t : State := { route .closed .passed threeMeters with upload.st := .awaitAck }
    Listening s ∧ s.longOp = false ∧ s.roster.phase = .none ∧ s.upload.st ≠ .sending ∧ s.upload.st ≠ .awaitAck ∧
      s.journal.st ≠ .absent ∧ s.journal.delivered ≠ s.journal.total ∧ Listening t ∧ t.longOp = false ∧
      t.roster.phase = .closed ∧ t.upload.st = .awaitAck :=
  ⟨⟨rfl, rfl, by decide⟩, rfl, rfl, by decide, by decide, by decide, by decide, ⟨rfl, rfl, by decide⟩, rfl, rfl, rfl⟩

/-- A journal in FAULT with every record delivered, its record end at a sector's first byte. -/
def faulted : State := { idle with journal.st := .fault, journal.recordEnd := 65536, journal.newestEnd := 65536 }

theorem witness_JournalClearRuns_fault :
    Listening faulted ∧ faulted.longOp = false ∧ faulted.journal.st = .fault ∧
      faulted.journal.delivered = faulted.journal.total ∧ faulted.journal.recordEnd = faulted.journal.newestEnd ∧
      faulted.journal.recordEnd < faulted.journal.indexStart ∧ faulted.journal.clearSectors = [0, 1] ∧
      ({ faulted with journal.indexStart := 65536 } : State).journal.indexStart = faulted.journal.recordEnd :=
  ⟨⟨rfl, rfl, by decide⟩, rfl, rfl, rfl, rfl, by decide, by decide, rfl⟩

theorem witness_MovementCases_record :
    (meter 8350 .heard).st ≠ .verify ∧
      (∃ r n f m, hearing.evaluate (meter 8350 .heard) cand1 false = .reading r n f m) ∧
      (let k := hearing.roster.classes[(meter 8350 .heard).loaded.cls.toNat]
       4 ≤ k.digits ∧ k.digits ≤ 9 ∧ k.tol ≤ 255 ∧ cand1.best.register < 10 ^ k.digits ∧
        (meter 8350 .heard).prevReg < 10 ^ k.digits) :=
  ⟨by decide, ⟨_, _, _, _, rfl⟩, by and_intros <;> decide⟩

theorem witness_RebuildScanRuns_open :
    let b : OpenBatch := ⟨4, 0, 3, 2, 0⟩
    let s : State := { rebuilding .waiting none [] with journal.openBatch := some b, journal.recordEnd := 77 }
    s.journal.total = 0 ∧ s.journal.openBatch = some b ∧ b.first < s.journal.recordEnd ∧
      (rebuilding .waiting none []).journal.recordEnd ≤ b.first ∧
      ({ s with journal.buffer := [[0x4D]] } : State).journal.buffer.flatten ≠ [] ∧
      indexing.journal.seals ≠ [] ∧ idle.roster.rebuild = none ∧ RebuildStage.slots ≠ .waiting := by
  and_intros <;> decide

theorem witness_UploadStartsAndStops_waitingMark :
    let s : State := { programming with flash.waiting := [.erase 1, .mark 2097040 batch7] }
    (∀ k c, s.flash.port ≠ some (.mark k c)) ∧ s.flash.waiting = [.erase 1] ++ FlashReq.mark 2097040 batch7 :: [] ∧
      (∀ k c, FlashReq.mark k c ∉ [FlashReq.erase 1]) := by
  refine ⟨fun k c h => ?_, rfl, fun k c h => ?_⟩
  · exact nomatch (show some (FlashReq.page _ _) = some (FlashReq.mark k c) from h)
  · simp at h

/-- A body of RADIO SET with four floors, the last of them given. -/
def radioBody (floor : Byte) : List Byte := [15, 30, 40, 20, 0xA0, 0x8C, 10, 0, 0x88, 0x88, 0x88, floor]

theorem witness_TurnedAway_fields :
    (radioBody 0x73).length = 8 + ((List.range 4).countP fun i => (byteAt (radioBody 0x73) 0).getLsbD i) ∧
      (∃ f ∈ (radioBody 0x73).drop 8, f.toNat < 0x74 ∨ 0xEC < f.toNat) ∧ (parseRadio (radioBody 0x74)).isSome ∧
      le (toLE 2 8192) = 8192 ∧ (toLE 2 8192).length = 2 ∧ le [2#8] = 2 ∧
      field (toLE 4 20001 ++ toLE 2 4097) 4 2 = 4097 ∧ le (toLE 2 4096) = 4096 ∧
      28 * 0 + 28 ≤ (ClassRec.bytes 0 { classSeven with digits := 3 }).length ∧
      (byteAt ((ClassRec.bytes 0 { classSeven with digits := 3 }).drop (28 * 0)) 1).toNat = 3 ∧
      16 * 0 + 16 ≤ (Loaded.bytes (loadedMeter 0 wakeable)).length ∧
      field ((Loaded.bytes (loadedMeter 0 wakeable)).drop (16 * 0)) 0 4 = 0 ∧
      (atWork threeMeters).entry? (le (toLE 4 9)) = none ∧ (toLE 4 9).length = 4 ∧
      awaiting.upload.batch = some batch7 ∧ ([] : List Byte).length ≠ 4 := by
  and_intros <;> decide +kernel

theorem witness_EveryCommandAnswered_refused :
    (State.checkCommand .identify [1] idle.received).1 ≠ .done ∧
      (State.checkCommand .identify [1] idle.received).1 ≠ .mismatch := by
  decide +kernel

theorem witness_RebuildScanRuns_readings :
    let s := atWork threeMeters
    let bs := readingBytes 8351
    xorAll bs = 0 ∧ s.roster.routeId = some (field bs 3 4) ∧ s.entry? (field bs 7 4) = some (meter 8351 .missed) ∧
      byteAt bs 0 = 0x52 ∧ (meter 8351 .missed).st = .missed := by
  decide +kernel

/-- The engine waits for a batch to join. -/
def waitingSeal : State := { indexing with upload.st := .sending, upload.stage := .waitingSeal }

theorem witness_ProgramsEndGood_seals :
    waitingSeal.upload.st = .sending ∧ waitingSeal.upload.stage = .waitingSeal ∧ waitingSeal.asserted = false ∧
      waitingSeal.journal.st = .opened ∧ waitingSeal.journal.seals ≠ [] ∧ idle.upload.st ≠ .sending ∧
      waitingSeal.flash.port = some (if true then .index 2097088 (indexBytes 4 3880 192 4 7 0 0) else .identify) := by
  and_intros <;> decide

theorem witness_MissNoticeAndSettling_moves :
    (atWork threeMeters).entry? 8351 = some (meter 8351 .missed) ∧ (atWork threeMeters).entry? 9 = none := by
  decide

theorem witness_BatchSealSeals_triggers :
    programming.journal.openBatch = some ⟨1, 16, 255, 1, 0⟩ ∧ programming.journal.st = .opened ∧
      idle.journal.openBatch = none := by
  decide

end Sys2Proof.Tests
end

section
/-!
PROOF. The settings and tables of the part as one view, `State.settings`, and what each event outside the command rows
and the rebuild scan does to it: nothing (`settings_<event>`).
-/

namespace Sys2Proof.Machine

/-! ## The view -/

/-- What the van's computer sets: the tables, the leg settings, the route and the loaded roster, the radio settings, the
mask and the rate, with the run clock and the queue, which no command touches. -/
structure Settings where
  classes : Vector ClassRec 16
  legs : Vector (Byte × Byte) 256
  phase : Phase
  routeId : Option Nat
  loaded : List Loaded
  holdTime : Nat
  capacity : Nat
  refill : Nat
  wakeDur : Nat
  replyWin : Nat
  forwarding : Bool
  floors : Vector Int 4
  mask : BitVec 13
  rate : BitVec 2
  runClock : BitVec 32
  pending : List Instr

/-- The settings of a state. -/
def State.settings (s : State) : Settings :=
  { classes := s.roster.classes, legs := s.roster.legs.map fun k => (k.passCode, k.budget), phase := s.roster.phase,
    routeId := s.roster.routeId, loaded := s.roster.entries.map Entry.loaded, holdTime := s.pool.holdTime,
    capacity := s.sched.capacity, refill := s.sched.refill, wakeDur := s.sched.wakeDur, replyWin := s.sched.replyWin,
    forwarding := s.intake.forwarding, floors := s.intake.lanes.map Lane.floor, mask := s.link.mask,
    rate := s.link.rate, runClock := s.runClock, pending := s.pending }

/-- Equal plain parts give equal pass codes and budgets. -/
theorem legSettings_of_plain {a b : Vector Leg 256} (h : a.map Leg.plain = b.map Leg.plain) :
    a.map (fun k => (k.passCode, k.budget)) = b.map fun k => (k.passCode, k.budget) := by
  have e := congrArg (Vector.map fun k : Leg => (k.passCode, k.budget)) h
  rw [Vector.map_map, Vector.map_map] at e
  exact e

/-- Equal intakes apart from the lane counters have equal floors. -/
theorem floors_of_bare {a b : Intake} (h : a.bare = b.bare) : a.lanes.map Lane.floor = b.lanes.map Lane.floor := by
  have e := congrArg (fun k : Intake => k.lanes.map Lane.floor) h
  simp only [Intake.bare, Vector.map_map] at e
  exact e

theorem forwarding_of_bare {a b : Intake} (h : a.bare = b.bare) : a.forwarding = b.forwarding := by
  have e := congrArg Intake.forwarding h
  exact e

/-- A run of small changes keeps the settings. -/
theorem Moves.settings {s t : State} (h : Moves s t) : t.settings = s.settings := by
  simp only [State.settings, h.classes, legSettings_of_plain h.legs, h.phase, h.routeId, h.loaded, h.holdTime,
    h.capacity,
    h.refill, h.wakeDur, h.replyWin, forwarding_of_bare h.intake, floors_of_bare h.intake, h.mask, h.rate, h.runClock,
    h.pending]

@[simp] theorem settings_finish (s : State) : s.finish.settings = s.settings := by
  simp only [State.settings, finish_roster, finish_pool, finish_sched, finish_intake, finish_mask, finish_rate,
    finish_runClock, finish_pending]

/-! ## The upload engine and the flash port -/

theorem settings_chooseBatch (s : State) : s.chooseBatch.settings = s.settings := by
  unfold State.chooseBatch
  split
  · rfl
  · split
    · rfl
    · split <;> rfl

theorem settings_sealsChanged (s : State) : s.sealsChanged.settings = s.settings := by
  unfold State.sealsChanged
  split
  · exact settings_chooseBatch s
  · rfl

theorem settings_uploadSlotEnded (s : State) : s.uploadSlotEnded.settings = s.settings := by
  unfold State.uploadSlotEnded
  split
  · split
    · unfold State.slotRead
      split <;> rfl
    · rfl
  · rfl

theorem settings_uploadDataEnded (s : State) : s.uploadDataEnded.settings = s.settings := by
  unfold State.uploadDataEnded
  split
  · split
    · unfold State.dataRead
      split <;> rfl
    · rfl
  · rfl

theorem settings_uploadReadFailed (s : State) : s.uploadReadFailed.settings = s.settings := by
  unfold State.uploadReadFailed
  split
  · split <;> rfl
  · split <;> rfl
  · rfl

theorem settings_ackExpired (s : State) : s.ackExpired.settings = s.settings := by
  unfold State.ackExpired
  split <;> rfl

theorem settings_tailSent (s : State) : s.tailSent.settings = s.settings := by
  unfold State.tailSent
  split <;> rfl

theorem settings_pageEnded (s : State) : s.pageEnded.settings = s.settings := by
  unfold State.pageEnded
  split
  · exact (moves_retry _).settings.trans rfl
  · rfl

theorem settings_indexEnded (s : State) : s.indexEnded.settings = s.settings := by
  unfold State.indexEnded
  split
  · unfold State.batchJoins
    split
    · rfl
    · exact (settings_sealsChanged _).trans rfl
  · rfl

theorem settings_journalFault (off : Nat) (b : Bool) (s : State) : (s.journalFault off b).settings = s.settings := by
  have captured : ((s.setFlag .journalFault).captureFault off).settings = s.settings := rfl
  unfold State.journalFault
  dsimp only
  split
  · rw [settings_sealsChanged, (moves_retry _).settings]
    exact captured
  · exact captured

theorem settings_markFailed (n : Nat) (s : State) : (s.markFailed n).settings = s.settings := by
  unfold State.markFailed
  dsimp only
  split <;> exact settings_journalFault _ _ s

theorem settings_markGood (n : Nat) (s : State) : (s.markGood n).settings = s.settings := by
  unfold State.markGood
  dsimp only
  split
  · exact (settings_chooseBatch _).trans rfl
  · rfl

theorem settings_markEnded (e : FlashEnd) (s : State) : (s.markEnded e).settings = s.settings := by
  unfold State.markEnded
  split
  · split
    · exact (settings_markGood _ _).trans rfl
    · exact (settings_markFailed _ _).trans rfl
  · rfl

theorem settings_nextErase (s : State) : s.nextErase.settings = s.settings := by
  unfold State.nextErase
  split <;> rfl

theorem settings_clearFailed (k : Nat) (s : State) : (s.clearFailed k).settings = s.settings := rfl

theorem settings_eraseEnded (e : FlashEnd) (s : State) : (s.eraseEnded e).settings = s.settings := by
  unfold State.eraseEnded
  split
  · split
    · exact (settings_nextErase _).trans rfl
    · exact (settings_clearFailed _ _).trans rfl
  · rfl

/-! ## Start-up and recovery -/

theorem settings_recoveryEnds (r : Recovery) (st : JournalState) (o : OpResult) (s : State) :
    (s.recoveryEnds r st o).settings = s.settings := by
  unfold State.recoveryEnds
  dsimp only
  rw [(moves_testLow _).settings]
  split <;> rfl

theorem settings_nextSeal (r : Recovery) (sp : List Span) (f : Bool) (s : State) :
    (s.nextSeal r sp f).settings = s.settings := by
  unfold State.nextSeal
  split
  · exact settings_recoveryEnds ..
  · split
    · exact settings_recoveryEnds ..
    · rfl

theorem settings_searchPage (r : Recovery) (a b : Nat) (l : List (Nat × Nat)) (s : State) :
    (s.searchPage r a b l).settings = s.settings := by
  unfold State.searchPage
  split
  · rfl
  · exact settings_nextSeal ..

theorem settings_walkTo (r : Recovery) (p : Nat) (l : List (Nat × Nat)) (s : State) :
    (s.walkTo r p l).settings = s.settings := by
  unfold State.walkTo
  split
  · exact settings_nextSeal ..
  · split
    · exact settings_searchPage ..
    · rfl

theorem settings_walkRead (r : Recovery) (p : Nat) (l : List (Nat × Nat)) (b : List Byte) (s : State) :
    (s.walkRead r p l b).settings = s.settings := by
  unfold State.walkRead
  split
  · split
    · exact settings_nextSeal ..
    · exact settings_searchPage ..
  · split
    · exact settings_walkTo ..
    · exact settings_searchPage ..

theorem settings_nextSlot (r : Recovery) (s : State) : (s.nextSlot r).settings = s.settings := by
  unfold State.nextSlot
  split
  · exact settings_walkTo ..
  · rfl

theorem settings_scanReadGood (r : Recovery) (b : List Byte) (s : State) :
    (s.scanReadGood r b).settings = s.settings := by
  unfold State.scanReadGood
  split
  · unfold State.slotWalked
    split
    · exact settings_walkTo ..
    · split <;> exact settings_nextSlot ..
  · exact settings_walkRead ..
  · split
    · exact settings_nextSeal ..
    · exact settings_searchPage ..
  · rfl

theorem settings_recoveryReadEnded (g : Bool) (s : State) : (s.recoveryReadEnded g).settings = s.settings := by
  unfold State.recoveryReadEnded
  split
  · split
    · exact (settings_scanReadGood _ _ _).trans rfl
    · exact (settings_recoveryEnds _ _ _ s.freePort).trans rfl
  · rfl

theorem settings_recoveryIndexEnded (e : FlashEnd) (s : State) : (s.recoveryIndexEnded e).settings = s.settings := by
  unfold State.recoveryIndexEnded
  split
  · split
    · unfold State.sealProgrammed
      split
      · exact (settings_nextSeal ..).trans rfl
      · rfl
    · exact (settings_recoveryEnds _ _ _ (s.endOp _ _)).trans rfl
  · rfl

theorem settings_anyProgramFailed (l : List Byte) (s : State) : (s.anyProgramFailed l).settings = s.settings := by
  unfold State.anyProgramFailed
  split
  · exact settings_recoveryIndexEnded _ s
  · unfold State.programFailed
    split
    · exact (settings_journalFault _ _ _).trans rfl
    · exact (settings_journalFault _ _ _).trans rfl
    · exact (settings_markFailed _ _).trans rfl
    · rfl

theorem settings_flashIsReady (e : FlashEnd) (s : State) : (s.flashIsReady e).settings = s.settings := by
  unfold State.flashIsReady
  split <;> rfl

theorem settings_readyTimedOut (s : State) : s.readyTimedOut.settings = s.settings := by
  unfold State.readyTimedOut
  split <;> rfl

theorem settings_identified (c : Byte) (s : State) : (s.identified c).settings = s.settings := by
  unfold State.identified
  split
  · split <;> rfl
  · rfl

theorem settings_identTimedOut (s : State) : s.identTimedOut.settings = s.settings := by
  unfold State.identTimedOut
  split <;> rfl

/-! ## The lanes, the link's bytes and the reset input -/

/-- Changing a lane but not its floor keeps the settings. -/
theorem settings_updLane (i : Fin 4) (f : Lane → Lane) (hf : ∀ l, (f l).floor = l.floor) (s : State) :
    (s.updLane i f).settings = s.settings := by
  have floors : (s.updLane i f).intake.lanes.map Lane.floor = s.intake.lanes.map Lane.floor := by
    ext1 j hj
    simp only [State.updLane, Vector.getElem_map, Vector.getElem_set]
    split
    · rename_i h; subst h; exact hf _
    · rfl
  simp only [State.settings, floors]
  rfl

theorem settings_laneStarts (i : Fin 4) (s : State) : (s.laneStarts i).settings = s.settings := by
  unfold State.laneStarts
  split
  · rfl
  · exact settings_updLane i _ (by simp) s
  · exact settings_updLane i _ (by simp) s

theorem settings_laneByte (i : Fin 4) (b : Byte) (s : State) : (s.laneByte i b).settings = s.settings := by
  unfold State.laneByte
  split
  · exact settings_updLane i _ (by simp) s
  · rfl

/-- A candidate that opens touches no setting. -/
theorem OpenMoves.settings {s t : State} (h : OpenMoves s t) : t.settings = s.settings := by
  obtain h | ⟨u, k, h1, _, _, h2⟩ := h
  · exact h.settings
  · exact h2.settings.trans (Eq.trans rfl h1.settings)

theorem settings_laneEnds (i : Fin 4) (s : State) : (s.laneEnds i).settings = s.settings := by
  unfold State.laneEnds
  split
  · exact (openMoves_intakeTests ..).settings.trans (settings_updLane i _ (by simp) s)
  · rfl

theorem settings_refills (s : State) : s.refills.settings = s.settings := (moves_offerLane _).settings.trans rfl

theorem settings_framingError (s : State) : s.framingError.settings = s.settings := by
  unfold State.framingError
  split <;> rfl

theorem settings_gapExpires (s : State) : s.gapExpires.settings = s.settings := by
  unfold State.gapExpires
  split <;> rfl

end Sys2Proof.Machine
end

section
/-!
PROOF. What a command may do to the settings: each command writes its own and no other (`others_carryOut`), and the
route phase moves by the five commands of its life cycle alone (`phase_carryOut`).
-/

namespace Sys2Proof.Machine

/-! ## Changes of the roster that are no settings -/

theorem legSettings_map (v : Vector Leg 256) (f : Leg → Leg)
    (hf : ∀ k, (f k).passCode = k.passCode ∧ (f k).budget = k.budget) :
    (v.map f).map (fun k => (k.passCode, k.budget)) = v.map fun k => (k.passCode, k.budget) := by
  rw [Vector.map_map]
  exact Vector.map_congr_left fun k _ => by simp only [Function.comp_apply, hf]

/-- New legs with the pass codes and budgets of the old ones change no setting. -/
theorem settings_setLegs (v : Vector Leg 256) (s : State)
    (hv : v.map (fun k => (k.passCode, k.budget)) = s.roster.legs.map fun k => (k.passCode, k.budget)) :
    ({ s with roster.legs := v } : State).settings = s.settings := by
  simp only [State.settings, hv]

theorem settings_updLeg (l : Byte) (f : Leg → Leg) (hf : ∀ k, (f k).passCode = k.passCode ∧ (f k).budget = k.budget)
    (s : State) : (s.updLeg l f).settings = s.settings := by
  refine settings_setLegs _ s ?_
  ext1 i hi
  simp only [State.leg, Vector.getElem_map, Vector.getElem_set]
  split
  · rename_i h
    subst h
    exact Prod.ext (hf _).1 (hf _).2
  · rfl

theorem settings_updEntry (n : Nat) (f : Entry → Entry) (hf : ∀ e, (f e).loaded = e.loaded) (s : State) :
    (s.updEntry n f).settings = s.settings := by
  simp only [State.settings, loaded_updEntry n f hf s]
  rfl

theorem settings_placeEntry (n : Nat) (st : EntryState) (s : State) : (s.placeEntry n st).settings = s.settings := by
  unfold State.placeEntry
  split
  · rfl
  · exact settings_updEntry n _ (by simp) s

/-! ## The legs' commands -/

theorem settings_openedLeg (l : Byte) (s : State) : (s.openedLeg l).settings = s.settings := by
  have opened : (s.openRecord l).settings = s.settings :=
    Eq.trans rfl (settings_updLeg l (fun k => { k with st := .opened }) (fun _ => ⟨rfl, rfl⟩) s)
  have returned := (moves_returnMissed l (s.openRecord l)).settings
  have kept (t : State) : (t.resetAttempts l).settings = t.settings := by
    have loaded : (t.resetAttempts l).roster.entries.map Entry.loaded = t.roster.entries.map Entry.loaded := by
      simp only [State.resetAttempts, List.map_map]
      refine List.map_congr_left fun e _ => ?_
      simp only [Function.comp_apply]
      split <;> rfl
    simp only [State.settings, loaded]
    rfl
  exact (kept _).trans (returned.trans opened)

theorem settings_legOpen (b : List Byte) (s : State) : (s.doLegOpen b).2.2.settings = s.settings := by
  unfold State.doLegOpen
  split
  · rfl
  · split
    · rfl
    · exact (moves_afterOpening _).settings.trans (settings_openedLeg _ s)

theorem settings_legClosed (l : Byte) (f : Bool) (s : State) :
    ((s.closedLeg l f).afterClosing l).settings = s.settings := by
  have passed : (s.passOpenLeg l).settings = s.settings :=
    Eq.trans rfl (settings_updLeg l (fun k => { k with st := .passed }) (fun _ => ⟨rfl, rfl⟩) s)
  exact (moves_afterClosing l _).settings.trans ((moves_closedLeg l f s).settings.trans passed)

theorem settings_legClose (b : List Byte) (s : State) : (s.doLegClose b).2.2.settings = s.settings := by
  unfold State.doLegClose
  split
  · rfl
  · split
    · exact settings_legClosed _ false s
    · rfl

theorem settings_closeOpenLeg (s : State) : s.closeOpenLeg.settings = s.settings := by
  unfold State.closeOpenLeg
  split
  · rfl
  · exact settings_legClosed _ true s

/-- Passing the route closes it, and changes no other setting. -/
theorem settings_passRoute (s : State) : s.passRoute.settings = { s.settings with phase := .closed } := by
  have legs := legSettings_map s.roster.legs (fun k => { k with st := .passed }) (fun _ => ⟨rfl, rfl⟩)
  have sealedSame :=
    (moves_sealOpen { s with roster.legs := s.roster.legs.map fun k => { k with st := .passed } }).settings
  have closed (t : State) : ({ t with roster.phase := .closed } : State).settings =
      { t.settings with phase := .closed } :=
    rfl
  refine (closed _).trans ?_
  rw [sealedSame]
  simp only [State.settings, legs]

/-- ROUTE CLOSE changes the phase and no other setting (R116). -/
theorem settings_routeClose (b : List Byte) (s : State) :
    (s.doRouteClose b).2.2.settings = s.settings ∨
      (s.doRouteClose b).2.2.settings = { s.settings with phase := .closed } := by
  unfold State.doRouteClose
  split
  · exact .inl rfl
  · refine .inr ?_
    rw [settings_passRoute, (moves_endConfirmations _ _ _).settings, (moves_missRoute _).settings,
      settings_closeOpenLeg,
      (moves_forceCloseAll s).settings]

/-! ## The other commands -/

theorem settings_clearLegs (s : State) : s.clearLegs.settings = s.settings :=
  settings_setLegs _ s (legSettings_map _ _ fun _ => ⟨rfl, rfl⟩)

theorem settings_countersRead (b : List Byte) (s : State) : (s.doCountersRead b).2.2.settings = s.settings := by
  have floors : s.clearCounters.intake.lanes.map Lane.floor = s.intake.lanes.map Lane.floor := by
    simp only [State.clearCounters, Vector.map_map]
    rfl
  unfold State.doCountersRead
  split
  · rfl
  · dsimp only
    split
    · simp only [State.settings, floors]
      rfl
    · rfl

theorem settings_startUpload (s : State) : s.startUpload.settings = s.settings := by
  unfold State.startUpload
  exact (settings_chooseBatch _).trans (Eq.trans rfl (moves_sealOpen s).settings)

theorem settings_batchReceived (b : List Byte) (s : State) : (s.doBatchReceived b).2.2.settings = s.settings := by
  unfold State.doBatchReceived
  split
  · split
    · rfl
    · split
      · rfl
      · split
        · rfl
        · unfold State.mismatched
          dsimp only
          split <;> rfl
  · rfl

/-- The commands that write no setting. -/
def Cmd.writesNone : Cmd → Bool
  | .radioSet => false
  | .flagsMask => false
  | .classWrite => false
  | .legWrite => false
  | .rosterBegin => false
  | .rosterCommit => false
  | .rosterDiscard => false
  | .routeClose => false
  | _ => true

theorem settings_carryOut {c : Cmd} (hc : c.writesNone = true) (b : List Byte) (s : State) :
    (s.carryOut c b).2.2.settings = s.settings := by
  cases c <;> simp only [Cmd.writesNone, Bool.false_eq_true] at hc <;> dsimp only [State.carryOut]
  case identify => unfold State.doIdentify; split <;> rfl
  case restart => unfold State.doRestart; split <;> rfl
  case flagsRead => unfold State.doFlagsRead; split <;> rfl
  case flagsClear =>
    unfold State.doFlagsClear
    split
    · rfl
    · split <;> rfl
  case countersRead => exact settings_countersRead b s
  case rosterLoad =>
    unfold State.doRosterLoad
    split
    · rfl
    · split
      · rfl
      · split <;> rfl
  case rosterEdit => exact (moves_rosterEdit b s).settings
  case rosterQuery =>
    unfold State.doRosterQuery
    split
    · rfl
    · split <;> rfl
  case missedRead => unfold State.doMissedRead; split <;> rfl
  case legOpen => exact settings_legOpen b s
  case legClose => exact settings_legClose b s
  case legStatus => unfold State.doLegStatus; split <;> rfl
  case journalStatus => unfold State.doJournalStatus; split <;> rfl
  case batchSeal =>
    unfold State.doBatchSeal
    split
    · rfl
    · exact (moves_sealOpen s).settings
  case journalClear =>
    unfold State.doJournalClear
    split
    · rfl
    · split
      · rfl
      · split
        · exact (settings_nextErase _).trans rfl
        · rfl
  case uploadStart =>
    unfold State.doUploadStart
    split
    · rfl
    · split
      · rfl
      · exact settings_startUpload s
  case batchReceived => exact settings_batchReceived b s
  case uploadStop => unfold State.doUploadStop; split <;> rfl

/-- The settings with those blanked out that a command writes. -/
def Cmd.others (c : Cmd) (v : Settings) : Settings :=
  match c with
  | .radioSet =>
    { v with holdTime := 0, capacity := 0, refill := 0, wakeDur := 0, replyWin := 0, forwarding := false,
             floors := Vector.replicate 4 0 }
  | .flagsMask => { v with mask := 0 }
  | .classWrite => { v with classes := Vector.replicate 16 .unset }
  | .legWrite => { v with legs := Vector.replicate 256 (0, 0) }
  | .rosterBegin => { v with phase := .none, routeId := none }
  | .rosterCommit => { v with phase := .none, loaded := [] }
  | .rosterDiscard => { v with phase := .none, routeId := none, loaded := [] }
  | .routeClose => { v with phase := .none }
  | _ => v

/-- A command changes the settings that it writes and no other. -/
theorem others_carryOut (c : Cmd) (b : List Byte) (s : State) :
    c.others (s.carryOut c b).2.2.settings = c.others s.settings := by
  by_cases hc : c.writesNone = true
  · rw [settings_carryOut hc]
  cases c <;> simp only [Cmd.writesNone, not_true_eq_false] at hc <;> dsimp only [State.carryOut]
  case radioSet =>
    unfold State.doRadioSet
    split
    · rfl
    · rw [(moves_offerLane _).settings]
      rfl
  case flagsMask => unfold State.doFlagsMask; split <;> rfl
  case classWrite => unfold State.doClassWrite; split <;> rfl
  case legWrite =>
    have one (t : State) (l : Byte) (f : Leg → Leg) :
        Cmd.legWrite.others (t.updLeg l f).settings = Cmd.legWrite.others t.settings := rfl
    unfold State.doLegWrite
    split
    · rfl
    · rename_i sets hb
      clear hb
      induction sets generalizing s with
      | nil => rfl
      | cons w ws ih => exact (ih _).trans (one s _ _)
  case rosterBegin =>
    unfold State.doRosterBegin
    split
    · rfl
    · have cleared := congrArg Cmd.rosterBegin.others (settings_clearLegs s)
      exact cleared
  case rosterCommit =>
    have legs := legSettings_map s.roster.legs (fun k => { k with counts := .zero }) (fun _ => ⟨rfl, rfl⟩)
    unfold State.doRosterCommit
    split
    · rfl
    · split
      · rfl
      · split
        · rfl
        · simp only [Cmd.others, State.settings, legs]
  case rosterDiscard =>
    unfold State.doRosterDiscard
    split
    · rfl
    · have cleared := congrArg Cmd.rosterDiscard.others (settings_clearLegs s)
      exact cleared
  case routeClose =>
    dsimp only [Cmd.others]
    rcases settings_routeClose b s with e | e <;> rw [e]

/-- The phase that a command's effect gives (R7). -/
theorem phase_carryOut (c : Cmd) (b : List Byte) (s : State) :
    let p := (s.carryOut c b).2.2.roster.phase
    p = s.roster.phase ∨ (c = .rosterBegin ∧ p = .loading) ∨ (c = .rosterCommit ∧ p = .committing) ∨
      (c = .routeClose ∧ p = .closed) ∨ (c = .rosterDiscard ∧ p = .none) := by
  have others := congrArg Settings.phase (others_carryOut c b s)
  dsimp only
  cases c
  case rosterBegin =>
    dsimp only [State.carryOut]
    unfold State.doRosterBegin
    split
    · exact .inl rfl
    · exact .inr (.inl ⟨rfl, rfl⟩)
  case rosterCommit =>
    dsimp only [State.carryOut]
    unfold State.doRosterCommit
    split
    · exact .inl rfl
    · split
      · exact .inl rfl
      · split
        · exact .inl rfl
        · exact .inr (.inr (.inl ⟨rfl, rfl⟩))
  case routeClose =>
    rcases settings_routeClose b s with e | e
    · exact .inl (congrArg Settings.phase e)
    · exact .inr (.inr (.inr (.inl ⟨rfl, congrArg Settings.phase e⟩)))
  case rosterDiscard =>
    dsimp only [State.carryOut]
    unfold State.doRosterDiscard
    split
    · exact .inl rfl
    · exact .inr (.inr (.inr (.inr ⟨rfl, rfl⟩)))
  all_goals exact .inl others

/-- A command is turned away with no change, or carried out in one of its phases (R169, R171). -/
theorem checkCommand_effect (c : Cmd) (b : List Byte) (s : State) :
    (s.checkCommand c b).2.2 = s ∨
      (c.inPhase s.roster.phase = true ∧ (s.checkCommand c b).2.2 = (s.carryOut c b).2.2) := by
  unfold State.checkCommand
  split
  · exact .inl rfl
  · rename_i hp
    split
    · exact .inl rfl
    · exact .inr ⟨by simpa using hp, rfl⟩

end Sys2Proof.Machine
end

section
/-!
PROOF. Every row by kind (`rowKind`): a frame that completes, a reset, a step of the rebuild scan, or an event that
keeps the roster's invariant and the settings. The rules over all commands follow from it.
-/

namespace Sys2Proof.Machine

/-! ## The rebuild scan -/

theorem settings_offerRecord (bs : List Byte) (s : State) : (s.offerRecord bs).settings = s.settings := by
  unfold State.offerRecord
  split
  · rfl
  · split
    · rfl
    · unfold State.applyRecord
      dsimp only
      split
      · rfl
      · split
        · exact (settings_placeEntry ..).trans (settings_updEntry _ _ (by simp) s)
        · split
          · unfold State.applyMiss
            have placed (n : Nat) : (match s.entry? n with
                | some e => if e.st = EntryState.pending ∨ e.st = EntryState.missed then s.placeEntry n .missed else s
                | none => s).settings = s.settings := by
              split
              · split
                · exact settings_placeEntry _ _ s
                · rfl
              · rfl
            dsimp only
            split
            · exact (settings_updLeg _ _ (by simp) _).trans (placed _)
            · exact placed _
          · rfl

theorem settings_foldl {α : Type} (f : State → α → State) (hf : ∀ t a, (f t a).settings = t.settings) (as : List α)
    (s : State) : (as.foldl f s).settings = s.settings := by
  induction as generalizing s with
  | nil => rfl
  | cons a as ih => exact (ih _).trans (hf s a)

theorem settings_recount (s : State) : s.recount.settings = s.settings := by
  refine settings_setLegs _ s ?_
  ext1 i hi
  simp

/-- The end of the scan opens the route, and changes no other setting (R14). -/
theorem settings_rebuildEnds (s : State) : s.rebuildEnds.settings = { s.settings with phase := .active } := by
  have opened (t : State) :
      (({ t with roster.phase := .active, roster.routeClock := 0, roster.routeMs := 0, roster.rebuild := none,
                 journal.lastResult := .good } : State).setFlag .commitDone).settings =
        { t.settings with phase := .active } := rfl
  unfold State.rebuildEnds
  refine (opened _).trans ?_
  rw [settings_recount, settings_foldl _ fun t n => settings_placeEntry n .missed t]

/-- A good step of the scan leaves the settings, or ends the scan. -/
def ScanGoesOn (s t : State) : Prop := t.settings = s.settings ∨ t.settings = { s.settings with phase := .active }

theorem ScanGoesOn.before {s u t : State} (h : ScanGoesOn u t) (e : u.settings = s.settings) : ScanGoesOn s t := by
  unfold ScanGoesOn at *
  rwa [e] at h

theorem goesOn_rebuildEnds (s : State) : ScanGoesOn s s.rebuildEnds := .inr (settings_rebuildEnds s)

theorem goesOn_rebuildSlots (rb : Rebuild) (s : State) : ScanGoesOn s (s.rebuildSlots rb) := by
  unfold State.rebuildSlots
  split
  · exact .inl rfl
  · unfold State.rebuildOpen
    split
    · split
      · exact .inl rfl
      · exact goesOn_rebuildEnds s
    · exact goesOn_rebuildEnds s

theorem goesOn_rebuildBatchDone (rb : Rebuild) (last : Bool) (s : State) :
    ScanGoesOn s (s.rebuildBatchDone rb last) := by
  unfold State.rebuildBatchDone
  split
  · exact goesOn_rebuildEnds s
  · exact goesOn_rebuildSlots rb s

theorem goesOn_rebuildAt (rb : Rebuild) (a z : Nat) (last : Bool) (s : State) :
    ScanGoesOn s (s.rebuildAt rb a z last) := by
  unfold State.rebuildAt
  split
  · exact .inl rfl
  · exact goesOn_rebuildBatchDone rb last s

theorem goesOn_rebuildReadGood (rb : Rebuild) (bs : List Byte) (s : State) :
    ScanGoesOn s (s.rebuildReadGood rb bs) := by
  unfold State.rebuildReadGood
  split
  · exact .inl rfl
  · unfold State.rebuildSlotRead
    split
    · exact goesOn_rebuildSlots _ s
    · dsimp only
      split
      · exact goesOn_rebuildSlots _ s
      · exact goesOn_rebuildAt _ _ _ _ s
  · unfold State.rebuildRecordRead
    dsimp only
    split
    · exact (goesOn_rebuildAt ..).before (settings_offerRecord _ s)
    · exact (goesOn_rebuildBatchDone rb _ s.countBadRecord).before rfl

/-- REBUILD_SCAN_START goes on with the scan in progress, if it does anything. -/
theorem rebuildBegins_settings (s : State) :
    s.rebuildBegins.settings = s.settings ∨ (s.roster.rebuild.isSome ∧ ScanGoesOn s s.rebuildBegins) := by
  unfold State.rebuildBegins
  split
  · rename_i rb hr
    split
    · exact .inr ⟨by rw [hr]; rfl, goesOn_rebuildSlots _ s⟩
    · exact .inl rfl
  · exact .inl rfl

/-- REBUILD_READ_END, good, goes on with the scan in progress, if it does anything. -/
theorem rebuildReadEnded_good_settings (s : State) :
    (s.rebuildReadEnded true).settings = s.settings ∨
      (s.roster.rebuild.isSome ∧ ScanGoesOn s (s.rebuildReadEnded true)) := by
  unfold State.rebuildReadEnded
  split
  · rename_i hr
    exact .inr ⟨by rw [hr]; rfl, (goesOn_rebuildReadGood _ _ s.freePort).before rfl⟩
  · exact .inl rfl

/-- REBUILD_READ_END, failed, takes the route back to LOADING with nothing live, if it does anything (R15). -/
theorem rebuildReadEnded_failed_settings (s : State) :
    (s.rebuildReadEnded false).settings = s.settings ∨ (s.roster.rebuild.isSome ∧
      (s.rebuildReadEnded false).settings = { s.settings with phase := .loading, loaded := [] }) := by
  unfold State.rebuildReadEnded
  split
  · rename_i hr
    refine .inr ⟨by rw [hr]; rfl, ?_⟩
    rw [← settings_clearLegs s]
    rfl
  · exact .inl rfl

/-! ## The rows by kind -/

/-- An event that keeps the roster's invariant and the settings. -/
structure Quiet (s t : State) : Prop where
  inv : RosterInv s → RosterInv t
  same : t.settings = s.settings

theorem Quiet.of_moves {s t : State} (h : Moves s t) : Quiet s t := ⟨h.rosterInv, h.settings⟩

theorem Quiet.of_core {s t : State} (h : CoreMoves s t) (hs : t.settings = s.settings) : Quiet s t := ⟨h.rosterInv, hs⟩

theorem Quiet.of_roster {s t : State} (h : t.roster = s.roster) (hs : t.settings = s.settings) : Quiet s t :=
  ⟨fun hi => hi.congr h, hs⟩

theorem Quiet.of_eq {s t u : State} (e : t = u) (h : Quiet s u) : Quiet s t := e ▸ h

theorem quiet_laneEnds (i : Fin 4) (s : State) : Quiet s (s.laneEnds i) := by
  obtain ⟨k, hk⟩ := laneEnds_moves i s
  exact ⟨fun h => hk.rosterInv (h.congr rfl), settings_laneEnds i s⟩

theorem quiet_laneStarts (i : Fin 4) (s : State) : Quiet s (s.laneStarts i) := by
  obtain ⟨k, hk⟩ := laneStarts_intake i s
  exact .of_roster (by rw [hk]) (settings_laneStarts i s)

theorem quiet_laneByte (i : Fin 4) (b : Byte) (s : State) : Quiet s (s.laneByte i b) := by
  obtain ⟨k, hk⟩ := laneByte_intake i b s
  exact .of_roster (by rw [hk]) (settings_laneByte i b s)

theorem quiet_refills (s : State) : Quiet s s.refills :=
  ⟨fun h => (moves_offerLane _).rosterInv (h.congr rfl), settings_refills s⟩

theorem quiet_framingError (s : State) : Quiet s s.framingError := by
  refine .of_roster ?_ (settings_framingError s)
  unfold State.framingError
  split <;> rfl

theorem quiet_gapExpires (s : State) : Quiet s s.gapExpires := by
  refine .of_roster ?_ (settings_gapExpires s)
  unfold State.gapExpires
  split <;> rfl

theorem quiet_tailSent (s : State) : Quiet s s.tailSent := by
  refine .of_roster ?_ (settings_tailSent s)
  unfold State.tailSent
  split <;> rfl

/-- The end of a frame sent resets the part when it is the reply of a RESTART, and is quiet otherwise (R141, R179). -/
theorem frameSent_cases (straps : BitVec 2) (s : State) :
    (s.resets (.outboundFrameSent straps) ∧ s.frameSent straps = ({ s with straps := straps } : State).resetEffect) ∨
      Quiet s (s.frameSent straps) := by
  unfold State.frameSent
  split
  · exact .inr (.of_roster rfl rfl)
  · rename_i r hr
    split
    · rename_i hq
      exact .inl ⟨.inr ⟨⟨straps, rfl⟩, r, hr, hq⟩, rfl⟩
    · exact .inr (.of_roster rfl rfl)
  · have freed : Quiet s { s with link.sending := none } := .of_roster rfl rfl
    have tail := quiet_tailSent { s with link.sending := none }
    exact .inr ⟨tail.inv ∘ freed.inv, tail.same.trans freed.same⟩
  · exact .inr (.of_roster rfl rfl)
  · exact .inr (.of_roster rfl rfl)

/-- The kinds of rows. -/
inductive RowKind (i : Instr) (s : State) : Prop
  /-- A frame completes. -/
  | frame (k : Byte) (b : List Byte) (g : Bool) (hf : s.frameOf i = some (k, b, g)) (e : s.act i = s.frameArrives k b g)
  /-- A reset takes effect with the reply of a RESTART sent. -/
  | reset (straps : BitVec 2) (h : s.resets i) (e : s.act i = ({ s with straps := straps } : State).resetEffect)
  /-- The rebuild scan begins. -/
  | scanStart (h : i = .rebuildScanStart)
  /-- A read of the rebuild scan ends. -/
  | scanRead (g : Bool) (h : i = .rebuildReadEnd g)
  /-- Any other row. -/
  | quiet (h : Quiet s (s.act i))

/-- Every row is of one of the kinds. -/
theorem rowKind (i : Instr) (s : State) : RowKind i s := by
  cases i
  case rebuildScanStart => exact .scanStart rfl
  case rebuildReadEnd g => exact .scanRead g rfl
  case outboundFrameSent straps =>
    rcases frameSent_cases straps s with ⟨h, e⟩ | h
    · exact .reset straps h e
    · exact .quiet h
  case linkByteReceived x =>
    rcases linkByte_cases x s with ⟨r, e⟩ | e | ⟨k, b, g, hf, e⟩
    · exact .quiet (.of_eq e (.of_roster rfl rfl))
    · exact .quiet (.of_eq e (.of_roster rfl rfl))
    · exact .frame k b g hf e
  case resetAssert => exact .quiet (.of_roster rfl rfl)
  case resetRelease => exact .quiet (.of_roster rfl rfl)
  case linkFramingError => exact .quiet (quiet_framingError s)
  case gapTimerExpiry => exact .quiet (quiet_gapExpires s)
  case laneStart l => exact .quiet (quiet_laneStarts l s)
  case laneByteReceived l b => exact .quiet (quiet_laneByte l b s)
  case laneRecordTaken l => exact .quiet (quiet_laneEnds l s)
  case holdExpiry n => exact .quiet (.of_moves (moves_closeCand n false s))
  case passTimerExpiry => exact .quiet (.of_moves (moves_passExpires s))
  case dutyRefill => exact .quiet (quiet_refills s)
  case transmitDone => exact .quiet (.of_moves (moves_transmitDone s))
  case transmitTimeout => exact .quiet (.of_moves (moves_transmitTimesOut s))
  case sweepWindowEnd n => exact .quiet (.of_moves (moves_sweepWindowEnded n s))
  case confirmWindowEnd n => exact .quiet (.of_moves (moves_confirmWindowEnded n s))
  case pageProgramEnd => exact .quiet (.of_core (core_pageEnded s) (settings_pageEnded s))
  case indexProgramEnd => exact .quiet (.of_core (core_indexEnded s) (settings_indexEnded s))
  case programFailure l =>
    exact .quiet (.of_core (core_anyProgramFailed l s) (settings_anyProgramFailed l s))
  case markProgramEnd e => exact .quiet (.of_core (core_markEnded e s) (settings_markEnded e s))
  case sectorEraseEnd e => exact .quiet (.of_core (core_eraseEnded e s) (settings_eraseEnded e s))
  case flashReady e =>
    exact .quiet (.of_core (sameCore_flashIsReady e s).core (settings_flashIsReady e s))
  case flashReadyTimeout =>
    exact .quiet (.of_core (sameCore_readyTimedOut s).core (settings_readyTimedOut s))
  case identificationResponse b0 b1 c =>
    exact .quiet (.of_core (sameCore_identified c s).core (settings_identified c s))
  case identificationTimeout =>
    exact .quiet (.of_core (sameCore_identTimedOut s).core (settings_identTimedOut s))
  case recoveryReadEnd g =>
    exact .quiet (.of_core (sameCore_recoveryReadEnded g s).core (settings_recoveryReadEnded g s))
  case recoveryIndexProgramEnd e =>
    exact .quiet (.of_core (sameCore_recoveryIndexEnded e s).core (settings_recoveryIndexEnded e s))
  case uploadSlotReadEnd =>
    exact .quiet (.of_core (core_uploadSlotEnded s) (settings_uploadSlotEnded s))
  case uploadDataReadEnd =>
    exact .quiet (.of_core (core_uploadDataEnded s) (settings_uploadDataEnded s))
  case uploadReadFailure =>
    exact .quiet (.of_core (core_uploadReadFailed s) (settings_uploadReadFailed s))
  case ackTimerExpiry => exact .quiet (.of_core (core_ackExpired s) (settings_ackExpired s))
  all_goals exact .frame _ _ _ rfl rfl

end Sys2Proof.Machine
end

section
/-!
PROOF. The rules over all commands: the roster's invariant (O5), the life cycle of the route phase (O10) and the
settings that only their own commands change (O13).
-/

namespace Sys2Proof.Machine

/-! ## The roster's invariant -/

theorem rosterInv_of_reset {s : State} (h : s.roster = .reset) : RosterInv s := by
  have zero (l : Byte) : (s.leg l).counts = .zero := by
    simp only [State.leg, h, Roster.reset, Vector.getElem_replicate]
    rfl
  constructor
  · rw [h]; exact .nil
  · rw [h]; exact .nil
  · rw [h]; exact .nil
  · rw [h]; simp [Roster.reset]
  · intro _ l
    rw [zero, h]
    rfl
  · rw [h]; exact fun _ => rfl
  · rw [h]; exact nofun

theorem RosterInv.resetEffect {s : State} : RosterInv s.resetEffect := rosterInv_of_reset rfl

/-- A millisecond moves the route clock and the reply windows alone. -/
theorem RosterInv.tick {s : State} (h : RosterInv s) : RosterInv s.tick := by
  unfold State.tick
  split
  · exact h
  · have windows : RosterInv { s with roster.entries := s.roster.entries.map fun e =>
        { e with window := e.window.map fun w => w - 1 } } :=
      h.mapEntries (fun e => { e with window := e.window.map fun w => w - 1 }) (fun _ => ⟨rfl, rfl⟩) rfl
    obtain ⟨h1, h2, h3, h4, h5, h6, h7⟩ := windows
    unfold Roster.tick
    dsimp only
    split
    · split
      · exact ⟨h1, h2, h3, h4, h5, h6, h7⟩
      · exact ⟨h1, h2, h3, h4, h5, h6, h7⟩
    · exact ⟨h1, h2, h3, h4, h5, h6, h7⟩

theorem RosterInv.act {s : State} (h : RosterInv s) (i : Instr) : RosterInv (s.act i) := by
  rcases rowKind i s with ⟨k, b, g, _, e⟩ | ⟨straps, _, e⟩ | rfl | ⟨g, rfl⟩ | hq
  · rw [e]; exact h.frameArrives k b g
  · rw [e]; exact .resetEffect
  · exact h.rebuildBegins
  · exact h.rebuildReadEnded g
  · exact hq.inv h

/-- No row breaks the roster's invariant. -/
theorem RosterInv.exec {i : Instr} {s t : State} (h : RosterInv s) (hs : exec i s = .next t) : RosterInv t := by
  rcases exec_next hs with ⟨_, rfl⟩ | ⟨straps, _, rfl⟩ | ⟨_, rfl⟩ | ⟨_, rfl⟩
  · exact h.congr rfl
  · exact .resetEffect
  · exact h
  · exact (h.act i).congr (finish_roster _)

/-- Settles O5: a millisecond keeps the invariant, and so does every row. -/
theorem rosterInvKept : Obligations.RosterInvKept := by
  intro s t h hs
  unfold step at hs
  split at hs
  · cases hs
    exact h.tick
  · rename_i c rest _
    have popped : RosterInv { s with pending := rest } := h.congr rfl
    exact popped.exec hs

/-! ## The frames by the settings -/

/-- A frame that completes leaves the settings, or is a good frame of a command that is carried out in one of its phases
and has written some. -/
theorem frameArrives_settings (k : Byte) (b : List Byte) (g : Bool) (s : State) :
    (s.frameArrives k b g).settings = s.settings ∨
      ∃ c : Cmd, c.kind = k ∧ g = true ∧ c.inPhase s.roster.phase = true ∧
        (s.frameArrives k b g).settings = (s.received.carryOut c b).2.2.settings := by
  rcases frameArrives_cases k b g s with ⟨_, e⟩ | ⟨_, e⟩ | ⟨_, u, _, _, _, _, _, e, hu⟩
  · rw [e]; exact .inl rfl
  · rw [e]; exact .inl rfl
  · rw [e]
    rcases hu with rfl | rfl | ⟨c, hk, hg, rfl⟩
    · exact .inl rfl
    · exact .inl rfl
    · rcases checkCommand_effect c b s.received with e | ⟨hp, e⟩
      · rw [e]; exact .inl rfl
      · rw [e]; exact .inr ⟨c, hk, hg, hp, rfl⟩

/-! ## The life cycle of the phase -/

/-- Settles O10: of the rows that move the phase, each command is carried out in one of its own phases, and the rebuild
scan runs only in COMMITTING. -/
theorem phaseLifeCycle : Obligations.PhaseLifeCycle := by
  intro i s t scan hs
  have phase {u : State} (e : u.settings = s.settings) : u.roster.phase = s.roster.phase :=
    congrArg Settings.phase e
  rcases exec_next hs with ⟨_, rfl⟩ | ⟨straps, rfl, rfl⟩ | ⟨_, rfl⟩ | ⟨_, rfl⟩
  · exact .inl rfl
  · exact .inr (.inl ⟨.inl ⟨straps, rfl⟩, rfl⟩)
  · exact .inl rfl
  rw [finish_roster]
  rcases rowKind i s with ⟨k, b, g, hf, e⟩ | ⟨straps, hr, e⟩ | rfl | ⟨g, rfl⟩ | hq
  · rcases frameArrives_settings k b g s with hsame | ⟨c, rfl, rfl, hp, hc⟩
    · exact .inl (e ▸ phase hsame)
    · have carries : s.carries c i := ⟨b, hf⟩
      have after : (s.act i).roster.phase = (s.received.carryOut c b).2.2.roster.phase := by
        rw [e]
        exact congrArg Settings.phase hc
      rw [after]
      rcases phase_carryOut c b s.received with h | ⟨rfl, h⟩ | ⟨rfl, h⟩ | ⟨rfl, h⟩ | ⟨rfl, h⟩
      · exact .inl h
      · exact .inr (.inr (.inl ⟨by simpa [Cmd.inPhase] using hp, h, carries⟩))
      · exact .inr (.inr (.inr (.inl ⟨by simpa [Cmd.inPhase] using hp, h, carries⟩)))
      · exact .inr (.inr (.inr (.inr (.inr (.inr (.inl ⟨by simpa [Cmd.inPhase] using hp, h, carries⟩))))))
      · exact .inr (.inr (.inr (.inr (.inr (.inr (.inr ⟨by simpa [Cmd.inPhase] using hp, h, carries⟩))))))
  · exact .inr (.inl ⟨hr, by rw [e]; rfl⟩)
  · rcases rebuildBegins_settings s with h | ⟨hr, h | h⟩
    · exact .inl (phase h)
    · exact .inl (phase h)
    · exact .inr (.inr (.inr (.inr (.inl ⟨scan hr, congrArg Settings.phase h, .inl rfl⟩))))
  · cases g with
    | true =>
      rcases rebuildReadEnded_good_settings s with h | ⟨hr, h | h⟩
      · exact .inl (phase h)
      · exact .inl (phase h)
      · exact .inr (.inr (.inr (.inr (.inl ⟨scan hr, congrArg Settings.phase h, .inr rfl⟩))))
    | false =>
      rcases rebuildReadEnded_failed_settings s with h | ⟨hr, h⟩
      · exact .inl (phase h)
      · exact .inr (.inr (.inr (.inr (.inr (.inl ⟨scan hr, congrArg Settings.phase h, rfl⟩)))))
  · exact .inl (phase hq.same)

/-! ## The settings -/

/-- Which settings may differ between two views, before and after a row in a state: those that the row's command writes,
and the phase; the loaded roster also by a failed read of the rebuild scan. -/
structure ChangedBy (i : Instr) (s : State) (v w : Settings) : Prop where
  classes : w.classes = v.classes ∨ s.carries .classWrite i
  legs : w.legs = v.legs ∨ s.carries .legWrite i
  routeId : w.routeId = v.routeId ∨ s.carries .rosterBegin i ∨ s.carries .rosterDiscard i
  loaded : w.loaded = v.loaded ∨ s.carries .rosterCommit i ∨ s.carries .rosterDiscard i ∨ i = .rebuildReadEnd false
  radio : (w.holdTime = v.holdTime ∧ w.capacity = v.capacity ∧ w.refill = v.refill ∧ w.wakeDur = v.wakeDur ∧
    w.replyWin = v.replyWin ∧ w.forwarding = v.forwarding ∧ w.floors = v.floors) ∨ s.carries .radioSet i
  mask : w.mask = v.mask ∨ s.carries .flagsMask i
  rate : w.rate = v.rate
  runClock : w.runClock = v.runClock
  pending : w.pending = v.pending

theorem ChangedBy.phase (i : Instr) (s : State) (v : Settings) (p : Phase) : ChangedBy i s v { v with phase := p } :=
  ⟨.inl rfl, .inl rfl, .inl rfl, .inl rfl, .inl ⟨rfl, rfl, rfl, rfl, rfl, rfl, rfl⟩,
    .inl rfl, rfl, rfl, rfl⟩

theorem ChangedBy.readFailed (s : State) (v : Settings) (p : Phase) (l : List Loaded) :
    ChangedBy (.rebuildReadEnd false) s v { v with phase := p, loaded := l } :=
  ⟨.inl rfl, .inl rfl, .inl rfl, .inr (.inr (.inr rfl)), .inl ⟨rfl, rfl, rfl, rfl, rfl, rfl, rfl⟩,
    .inl rfl, rfl, rfl, rfl⟩

/-- A command changes what it writes alone. -/
theorem ChangedBy.command {c : Cmd} {i : Instr} {s : State} {v w : Settings} (hc : s.carries c i)
    (h : c.others w = c.others v) : ChangedBy i s v w := by
  have field {α : Type} (f : Settings → α) : f (c.others w) = f (c.others v) := congrArg f h
  constructor
  · cases c
    case classWrite => exact .inr hc
    all_goals exact .inl (field Settings.classes)
  · cases c
    case legWrite => exact .inr hc
    all_goals exact .inl (field Settings.legs)
  · cases c
    case rosterBegin => exact .inr (.inl hc)
    case rosterDiscard => exact .inr (.inr hc)
    all_goals exact .inl (field Settings.routeId)
  · cases c
    case rosterCommit => exact .inr (.inl hc)
    case rosterDiscard => exact .inr (.inr (.inl hc))
    all_goals exact .inl (field Settings.loaded)
  · cases c
    case radioSet => exact .inr hc
    all_goals
      exact .inl ⟨field Settings.holdTime, field Settings.capacity, field Settings.refill, field Settings.wakeDur,
        field Settings.replyWin, field Settings.forwarding, field Settings.floors⟩
  · cases c
    case flagsMask => exact .inr hc
    all_goals exact .inl (field Settings.mask)
  · cases c <;> exact field Settings.rate
  · cases c <;> exact field Settings.runClock
  · cases c <;> exact field Settings.pending

/-- Every row but a reset. -/
theorem act_changedBy (i : Instr) (s : State) (hr : ¬ s.resets i) : ChangedBy i s s.settings (s.act i).settings := by
  have same {u : State} (e : u.settings = s.settings) : ChangedBy i s s.settings u.settings := by
    rw [e]
    exact .phase i s s.settings s.roster.phase
  have opens {u : State} {p : Phase} (e : u.settings = { s.settings with phase := p }) :
      ChangedBy i s s.settings u.settings := e ▸ .phase i s s.settings p
  rcases rowKind i s with ⟨k, b, g, hf, e⟩ | ⟨_, h, _⟩ | rfl | ⟨g, rfl⟩ | hq
  · rcases frameArrives_settings k b g s with hsame | ⟨c, rfl, rfl, _, hc⟩
    · exact same (e ▸ hsame)
    · refine .command (c := c) ⟨b, hf⟩ ?_
      rw [e, hc, others_carryOut]
      rfl
  · exact absurd h hr
  · rcases rebuildBegins_settings s with h | ⟨_, h | h⟩
    · exact same h
    · exact same h
    · exact opens h
  · cases g with
    | true =>
      rcases rebuildReadEnded_good_settings s with h | ⟨_, h | h⟩
      · exact same h
      · exact same h
      · exact opens h
    | false =>
      rcases rebuildReadEnded_failed_settings s with h | ⟨_, h⟩
      · exact same h
      · exact h ▸ .readFailed s s.settings _ _
  · exact same hq.same

theorem leg_of_settings {s t : State} (h : t.settings.legs = s.settings.legs) (l : Byte) :
    (t.leg l).passCode = (s.leg l).passCode ∧ (t.leg l).budget = (s.leg l).budget := by
  have e := congrArg (fun v : Vector (Byte × Byte) 256 => v[l.toNat]) h
  simp only [State.settings, Vector.getElem_map, Prod.mk.injEq] at e
  exact e

theorem floor_of_settings {s t : State} (h : t.settings.floors = s.settings.floors) (k : Fin 4) :
    t.intake.lanes[k].floor = s.intake.lanes[k].floor := by
  have e := congrArg (fun v : Vector Int 4 => v[k]) h
  simpa only [State.settings, Fin.getElem_fin, Vector.getElem_map] using e

/-- Settles O13: by the kinds of rows, and for a command by the settings that it alone writes. -/
theorem settingsOnlyByCommands : Obligations.SettingsOnlyByCommands := by
  intro i s t hs hr
  have changed : ChangedBy i s s.settings t.settings := by
    rcases exec_next hs with ⟨_, rfl⟩ | ⟨straps, rfl, rfl⟩ | ⟨_, rfl⟩ | ⟨_, rfl⟩
    · exact .phase i s s.settings _
    · exact absurd (.inl ⟨straps, rfl⟩) hr
    · exact .phase i _ _ _
    · rw [settings_finish]
      exact act_changedBy i s hr
  obtain ⟨classes, legs, routeId, loaded, radio, mask, rate, runClock, pending⟩ := changed
  refine ⟨classes, legs.imp_left leg_of_settings, routeId, loaded, radio.imp_left ?_, mask, rate, runClock, pending⟩
  rintro ⟨hold, cap, ref, dur, win, fwd, floors⟩
  exact ⟨hold, cap, ref, dur, win, fwd, floor_of_settings floors⟩

end Sys2Proof.Machine
end

section
/-!
PROOF. The state after reset (O4), and a second with no command (O2): what `k` idle steps do, by induction on `k`.
-/

namespace Sys2Proof.Machine

/-! ## The state after reset -/

theorem withinRoom_reset : WithinRoom .reset := by
  constructor <;> decide

theorem settingsInRange_reset : SettingsInRange .reset := by
  constructor <;> decide

theorem linesFollow_reset : LinesFollow .reset :=
  ⟨iff_of_true rfl ⟨rfl, 0, by decide, by decide⟩, rfl⟩

/-- Settles O4. -/
theorem invariantsAtReset : Obligations.InvariantsAtReset :=
  ⟨rosterInv_of_reset rfl, ⟨.nil, nofun⟩, withinRoom_reset, settingsInRange_reset, linesFollow_reset⟩

/-! ## A second with no command -/

/-- The roster apart from the route clock and the reply windows. -/
def Roster.still (r : Roster) : Roster :=
  { r with routeClock := 0, routeMs := 0, entries := r.entries.map Entry.unwindowed }

/-- The milliseconds that the route clock counts of `k` that pass (R16). -/
def Roster.counted (r : Roster) (k : Nat) : Nat := if r.phase = .active ∨ r.phase = .closed then k else 0

/-- A state `k` idle milliseconds after another (log 1). -/
structure Idled (s : State) (k : Nat) (t : State) : Prop where
  awake : t.asserted = false
  queue : t.pending = []
  runClock : t.runClock = s.runClock + BitVec.ofNat 32 k
  still : t.roster.still = s.roster.still
  seconds : t.roster.routeClock = s.roster.routeClock + BitVec.ofNat 32 ((s.roster.routeMs + s.roster.counted k) / 1000)
  millis : t.roster.routeMs = (s.roster.routeMs + s.roster.counted k) % 1000
  journal : t.journal = s.journal
  intake : t.intake = s.intake
  store : t.flash.store = s.flash.store
  flags : t.link.flags = s.link.flags

theorem tick_awake {s : State} (h : s.asserted = false) :
    s.tick = { s with
      runClock := s.runClock + 1, roster := s.roster.tick,
      pool.cands := s.pool.cands.map fun c => { c with holdLeft := c.holdLeft - 1 },
      sched := s.sched.tick, flash.portLeft := s.flash.portLeft - 1, startup := s.startup.map Startup.tick,
      upload.ackLeft := s.upload.ackLeft - 1, link.gapLeft := s.link.gapLeft - 1 } := by
  rw [State.tick, h]
  rfl

theorem still_tick (r : Roster) : r.tick.still = r.still := by
  have windows : (r.entries.map fun e => { e with window := e.window.map fun w => w - 1 }).map Entry.unwindowed
      = r.entries.map Entry.unwindowed := by
    rw [List.map_map]
    rfl
  unfold Roster.tick Roster.still
  dsimp only
  split
  · split <;> simp only [windows]
  · simp only [windows]

theorem counted_succ (r : Roster) (k : Nat) : r.counted (k + 1) = r.counted k + r.counted 1 := by
  unfold Roster.counted
  split <;> rfl

/-- The route clock counts a millisecond where it runs (R16). -/
theorem tick_clock (r : Roster) (h : r.routeMs < 1000) :
    r.tick.routeMs = (r.routeMs + r.counted 1) % 1000 ∧
      r.tick.routeClock = r.routeClock + BitVec.ofNat 32 ((r.routeMs + r.counted 1) / 1000) := by
  unfold Roster.tick Roster.counted
  dsimp only
  split
  · split
    · have sum : (r.routeMs + 1) / 1000 = 0 ∧ (r.routeMs + 1) % 1000 = r.routeMs + 1 := by omega
      rw [sum.1, sum.2]
      simp
    · have sum : (r.routeMs + 1) / 1000 = 1 ∧ (r.routeMs + 1) % 1000 = 0 := by omega
      rw [sum.1, sum.2]
      exact ⟨rfl, rfl⟩
  · have sum : (r.routeMs + 0) / 1000 = 0 ∧ (r.routeMs + 0) % 1000 = r.routeMs := by omega
    rw [sum.1, sum.2]
    simp

theorem Idled.start {s : State} (ha : s.asserted = false) (hp : s.pending = []) (hm : s.roster.routeMs < 1000) :
    Idled s 0 s := by
  have none : s.roster.counted 0 = 0 := by
    unfold Roster.counted
    split <;> rfl
  have sum : s.roster.routeMs / 1000 = 0 ∧ s.roster.routeMs % 1000 = s.roster.routeMs := by omega
  refine ⟨ha, hp, by simp, rfl, ?_, ?_, rfl, rfl, rfl, rfl⟩
  · rw [none, Nat.add_zero, sum.1]
    simp
  · rw [none, Nat.add_zero, sum.2]

theorem Idled.tick {s t : State} {k : Nat} (h : Idled s k t) : Idled s (k + 1) t.tick := by
  have phase : t.roster.phase = s.roster.phase := by
    have e := congrArg Roster.phase h.still
    exact e
  have counted (n : Nat) : t.roster.counted n = s.roster.counted n := by simp only [Roster.counted, phase]
  obtain ⟨millis, seconds⟩ := tick_clock t.roster (by rw [h.millis]; omega)
  rw [tick_awake h.awake]
  refine ⟨h.awake, h.queue, ?_, (still_tick _).trans h.still, ?_, ?_, h.journal, h.intake, h.store, h.flags⟩
  · dsimp only
    rw [h.runClock, BitVec.add_assoc, BitVec.ofNat_add]
    rfl
  · dsimp only
    rw [seconds, h.seconds, h.millis, counted, BitVec.add_assoc, ← BitVec.ofNat_add, counted_succ s.roster k]
    congr 2
    omega
  · dsimp only
    rw [millis, h.millis, counted, counted_succ s.roster k]
    omega

theorem step_idle {s : State} (h : s.pending = []) : step s = .next s.tick := by
  simp only [step, h]

/-- `k` steps on an empty queue are `k` milliseconds. -/
theorem run_idle {s : State} (k : Nat) {j : Nat} {u : State} (h : Idled s j u) :
    ∃ t : State, Sys2Proof.core.run k u = .next t ∧ Idled s (j + k) t := by
  induction k generalizing j u with
  | zero => exact ⟨u, rfl, h⟩
  | succ k ih =>
    have stepped : Sys2Proof.core.step u = .next u.tick := step_idle h.queue
    obtain ⟨t, ht, hi⟩ := ih h.tick
    refine ⟨t, ?_, by rwa [Nat.add_right_comm, Nat.add_assoc] at hi⟩
    simp only [Host.Core.run, stepped]
    exact ht

/-- Settles O2: of a thousand milliseconds the run clock counts all, and the route clock one second where it runs. -/
theorem idleSecondAdvancesClocks : Obligations.IdleSecondAdvancesClocks := by
  intro s hp ha hm
  obtain ⟨t, ht, h⟩ := run_idle 1000 (Idled.start ha hp hm)
  rw [Nat.zero_add] at h
  have counted : (s.roster.routeMs + s.roster.counted 1000) % 1000 = s.roster.routeMs := by
    unfold Roster.counted
    split <;> omega
  have millis := h.millis.trans counted
  refine ⟨t, ht, h.runClock, ?_, millis, ?_, h.journal, h.intake, h.store, h.flags, h.queue⟩
  · rw [h.seconds]
    unfold Roster.counted
    split
    · have sum : (s.roster.routeMs + 1000) / 1000 = 1 := by omega
      rw [sum]
      rfl
    · have sum : (s.roster.routeMs + 0) / 1000 = 0 := by omega
      rw [sum]
      simp
  · have put := congrArg (fun r : Roster => { r with routeMs := s.roster.routeMs }) h.still
    simp only [Roster.still] at put
    rw [← put, ← millis]

end Sys2Proof.Machine
end

section
/-!
PROOF. Reading bodies back: the fields of bytes written one after another, and bodies that are runs of sets
(layout 11.3).
-/

namespace Sys2Proof.Machine

/-! ## Fields -/

@[simp] theorem length_toLE (n v : Nat) : (toLE n v).length = n := by
  induction n generalizing v with
  | zero => rfl
  | succ n ih => simp [toLE, ih]

theorem le_toLE {n v : Nat} (h : v < 256 ^ n) : le (toLE n v) = v := by
  induction n generalizing v with
  | zero => simp only [pow_zero, Nat.lt_one_iff] at h; subst h; rfl
  | succ n ih =>
    rw [pow_succ] at h
    rw [toLE, le, ih (by omega), BitVec.toNat_ofNat]
    omega

theorem le_lt (bs : List Byte) : le bs < 256 ^ bs.length := by
  induction bs with
  | nil => decide
  | cons b bs ih =>
    rw [le, List.length_cons, pow_succ]
    have := b.isLt
    omega

theorem field_append_left {a : List Byte} {off n : Nat} (b : List Byte) (h : off + n ≤ a.length) :
    field (a ++ b) off n = field a off n := by
  unfold field
  rw [List.drop_append_of_le_length (by omega), List.take_append_of_le_length (by rw [List.length_drop]; omega)]

theorem field_append_right {a : List Byte} {off : Nat} (b : List Byte) (n : Nat) (h : a.length ≤ off) :
    field (a ++ b) off n = field b (off - a.length) n := by
  unfold field
  rw [List.drop_append, List.drop_of_length_le h, List.nil_append]

theorem byteAt_append_right {a : List Byte} {i : Nat} (b : List Byte) (h : a.length ≤ i) :
    byteAt (a ++ b) i = byteAt b (i - a.length) := by
  unfold byteAt
  rw [List.getD_append_right _ _ _ _ h]

/-- A field that a value was written to holds the value. -/
theorem field_toLE {n v : Nat} (h : v < 256 ^ n) : field (toLE n v) 0 n = v := by
  unfold field
  rw [List.drop_zero, List.take_of_length_le (by simp), le_toLE h]

/-- A field of one byte is the byte's value. -/
theorem field_one (b : List Byte) (i : Nat) : field b i 1 = (byteAt b i).toNat := by
  unfold field byteAt
  rw [List.take_one, List.getD_eq_getElem?_getD, List.head?_drop]
  cases b[i]? <;> rfl

/-- A field inside a group is the field of the body at the group's place. -/
theorem field_take {b : List Byte} {m off n : Nat} (h : off + n ≤ m) : field (b.take m) off n = field b off n := by
  unfold field
  rw [List.drop_take, List.take_take, Nat.min_eq_left (by omega)]

theorem byteAt_take {b : List Byte} {m i : Nat} (h : i < m) : byteAt (b.take m) i = byteAt b i := by
  unfold byteAt
  rw [List.getD_eq_getElem?_getD, List.getD_eq_getElem?_getD, List.getElem?_take_of_lt h]

/-! ## Runs of sets -/

theorem groups_flatMap {α : Type} {n : Nat} (f : α → List Byte) (hf : ∀ x, (f x).length = n) (xs : List α) :
    groups n xs.length (xs.flatMap f) = xs.map f := by
  induction xs with
  | nil => rfl
  | cons x xs ih =>
    rw [List.length_cons, groups, List.flatMap_cons, List.map_cons, List.take_left' (hf x), List.drop_left' (hf x), ih]

/-- A body that is a run of sets is cut into the sets. -/
theorem parseGroups_flatMap {α : Type} {n : Nat} (hn : 0 < n) (f : α → List Byte) (hf : ∀ x, (f x).length = n)
    {xs : List α} (hx : xs ≠ []) : parseGroups n (xs.flatMap f) = some (xs.map f) := by
  have len : (xs.flatMap f).length = xs.length * n := by
    rw [List.length_flatMap, List.map_congr_left fun x _ => hf x, List.map_const', List.sum_replicate, smul_eq_mul]
  have pos : 0 < xs.length := List.length_pos_iff.mpr hx
  have nonempty : xs.flatMap f ≠ [] := by
    rw [← List.length_pos_iff, len]
    exact Nat.mul_pos pos hn
  unfold parseGroups
  rw [if_neg (by rw [len, Nat.mul_mod_left]; simpa using nonempty), len, Nat.mul_div_cancel _ hn, groups_flatMap f hf]

/-- A body of no whole number of sets, or of none, is no run of sets. -/
theorem parseGroups_none {n : Nat} {b : List Byte} (h : b.length % n ≠ 0 ∨ b = []) : parseGroups n b = none := by
  unfold parseGroups
  rw [if_pos h.symm]

/-- Sets that each read back are read back together. -/
theorem mapM_map_some {α β γ : Type} (p : β → Option γ) (f : α → β) (g : α → γ) {xs : List α}
    (h : ∀ x ∈ xs, p (f x) = some (g x)) : (xs.map f).mapM p = some (xs.map g) := by
  induction xs with
  | nil => rfl
  | cons x xs ih =>
    rw [List.map_cons, List.mapM_cons, h x List.mem_cons_self, ih fun y hy => h y (List.mem_cons_of_mem _ hy)]
    rfl

/-- One set that does not read back fails the body. -/
theorem mapM_none {β γ : Type} (p : β → Option γ) {xs : List β} {x : β} (hx : x ∈ xs) (h : p x = none) :
    xs.mapM p = none := by
  induction xs with
  | nil => cases hx
  | cons y ys ih =>
    rw [List.mapM_cons]
    rcases List.mem_cons.mp hx with rfl | hx
    · rw [h]; rfl
    · rw [ih hx]
      cases p y <;> rfl

/-- The group at each place that fits the body. -/
theorem mem_groups {n : Nat} (m : Nat) {k : Nat} (hk : k < m) (b : List Byte) :
    (b.drop (n * k)).take n ∈ groups n m b := by
  induction m generalizing k b with
  | zero => omega
  | succ m ih =>
    rw [groups]
    cases k with
    | zero => exact List.mem_cons_self
    | succ k =>
      have := ih (k := k) (by omega) (b.drop n)
      rw [List.drop_drop, Nat.add_comm n, ← Nat.mul_succ] at this
      exact List.mem_cons_of_mem _ this

/-- A body one of whose sets does not read back is refused whole. -/
theorem parseGroups_bad {γ : Type} {n k : Nat} (hn : 0 < n) {b : List Byte} (p : List Byte → Option γ)
    (hk : n * k + n ≤ b.length) (h : p ((b.drop (n * k)).take n) = none) :
    ((parseGroups n b).bind fun gs => gs.mapM p) = none := by
  unfold parseGroups
  split
  · rfl
  · refine mapM_none p (mem_groups _ ?_ b) h
    rw [Nat.lt_div_iff_mul_lt hn]
    have := Nat.mul_comm n k
    omega

end Sys2Proof.Machine
end

section
/-!
PROOF. The commands of the tables and of loading: what their bodies read as, and what each of them answers (O25 to O28).
-/

namespace Sys2Proof.Machine

/-! ## The answer of a command that is carried out -/

/-- A command that passes the checks of phase and long operation answers what its own effect says (R169, R170). -/
theorem exec_carried {c : Cmd} {b d : List Byte} {o : ReplyCode} {s t : State} (h : Listening s)
    (hp : c.inPhase s.roster.phase = true) (hl : s.longOp = false ∨ c.duringLong = true)
    (hr : c ≠ .restart ∨ o ≠ .done) (hc : s.received.carryOut c b = (o, d, t)) :
    exec (c.row b) s = .next (State.finish (t.replied c o d)) := by
  have plain : (c == Cmd.restart && o == ReplyCode.done) = false := by
    rcases hr with hr | hr <;> simp [hr]
  have checked : s.received.checkCommand c b = (o, d, t) := (checkCommand_carried (s := s.received) hp hl).trans hc
  rw [exec_row c b h, State.takeCommand, checked, plain]
  rfl

/-! ## Class sets (R1, R2) -/

theorem length_classBytes (w : Fin 16 × ClassRec) : (w.2.bytes w.1).length = 28 := by
  simp [ClassRec.bytes]

/-- The fields of a class set are the class's. -/
theorem classBytes_fields (i : Fin 16) {c : ClassRec} (h : c.InRange) :
    (byteAt (c.bytes i) 0).toNat = i.val ∧ field (c.bytes i) 1 1 = c.digits ∧ field (c.bytes i) 2 2 = c.mult ∧
    field (c.bytes i) 4 1 = c.tol ∧ field (c.bytes i) 5 4 = c.rateLimit ∧ field (c.bytes i) 9 3 = c.stopMinutes ∧
    field (c.bytes i) 12 1 = c.leakHours ∧ field (c.bytes i) 13 2 = c.leakFloor ∧ byteAt (c.bytes i) 15 = c.watch ∧
    byteAt (c.bytes i) 16 = c.alarm ∧ ((c.bytes i).drop 17).take 8 = c.weights.toList.map (BitVec.ofNat 8) ∧
    field (c.bytes i) 25 1 = c.threshold ∧ field (c.bytes i) 26 1 = c.retries ∧
    byteAt (c.bytes i) 27 = (if c.confirm then 1 else 0) := by
  obtain ⟨digits, ⟨_, mult⟩, tol, rate, stop, leak, ⟨_, floor⟩, weights, threshold, retries⟩ := h
  have w : c.weights.toList.length = 8 := by simp
  have i16 := i.isLt
  simp only [field_one]
  unfold ClassRec.bytes
  simp [toLE, byteAt, field, le, w]
  and_intros <;> omega

/-- The weights of a class set are the class's. -/
theorem classBytes_weight (i : Fin 16) {c : ClassRec} (h : c.InRange) (j : Fin 8) :
    field (c.bytes i) (17 + j.val) 1 = c.weights[j] := by
  obtain ⟨_, _, _, _, _, _, _, _, _, _, run, _⟩ := classBytes_fields i h
  have at_j := congrArg (fun l : List Byte => l[j.val]?) run
  simp only [List.getElem?_take_of_lt j.isLt, List.getElem?_drop, List.getElem?_map] at at_j
  rw [field_one, byteAt, List.getD_eq_getElem?_getD, at_j]
  have weight := h.weights j
  simp only [Fin.getElem_fin] at weight ⊢
  simp
  omega

/-- A class set in range reads back as its class (R1, R2). -/
theorem parseClassSet_bytes (i : Fin 16) {c : ClassRec} (h : c.InRange) :
    parseClassSet (c.bytes i) = some (i, c.written) := by
  have weight : (Vector.ofFn fun j : Fin 8 => field (c.bytes i) (17 + j.val) 1) = c.weights := by
    ext1 j hj
    rw [Vector.getElem_ofFn]
    exact classBytes_weight i h ⟨j, hj⟩
  have small : ((c.weights.toList.map (BitVec.ofNat 8)).all fun w => w.toNat ≤ 15) = true := by
    rw [List.all_eq_true]
    intro w hw
    obtain ⟨x, hx, rfl⟩ := List.mem_map.mp hw
    obtain ⟨j, hj, rfl⟩ := List.mem_iff_getElem.mp hx
    have := h.weights ⟨j, by simpa using hj⟩
    simp at this ⊢
    omega
  obtain ⟨e0, e1, e2, e4, e5, e9, e12, e13, e15, e16, e17, e25, e26, e27⟩ := classBytes_fields i h
  have confirm : (byteAt (c.bytes i) 27 == 1#8) = c.confirm := by rw [e27]; cases c.confirm <;> rfl
  have confirmSmall : field (c.bytes i) 27 1 ≤ 1 := by rw [field_one, e27]; cases c.confirm <;> decide
  obtain ⟨digits, ⟨multPos, _⟩, _, _, stop, leak, ⟨floor, _⟩, _, _, retries⟩ := h
  unfold parseClassSet
  simp only [e0, e1, e2, e4, e5, e9, e12, e13, e15, e16, e17, e25, e26, weight, small, confirm]
  rw [dif_pos i.isLt, if_neg (by simp; omega)]
  unfold ClassRec.written
  split <;> rfl

theorem parseClassWrite_bytes {sets : List (Fin 16 × ClassRec)} (hn : sets ≠ []) (h : ∀ w ∈ sets, w.2.InRange) :
    parseClassWrite (sets.flatMap fun w => w.2.bytes w.1) = some (sets.map fun w => (w.1, w.2.written)) := by
  unfold parseClassWrite
  rw [parseGroups_flatMap (by decide) _ length_classBytes hn]
  exact mapM_map_some parseClassSet _ _ fun w hw => parseClassSet_bytes w.1 (h w hw)

/-! ## Leg sets (R4) -/

theorem parseLegWrite_bytes {sets : List (Byte × Byte × Byte)} (hn : sets ≠ []) :
    parseLegWrite (sets.flatMap fun w => [w.1, w.2.1, w.2.2]) = some sets := by
  unfold parseLegWrite
  rw [parseGroups_flatMap (by decide) (fun w : Byte × Byte × Byte => [w.1, w.2.1, w.2.2]) (fun _ => rfl) hn,
    Option.map_some, List.map_map]
  exact congrArg some (List.map_id sets)

/-- LEG WRITE's sets one after another write the legs alone. -/
theorem foldl_updLeg (sets : List (Byte × Byte × Byte)) (s : State) :
    sets.foldl (fun t w => t.updLeg w.1 fun l => { l with passCode := w.2.1, budget := w.2.2 }) s =
      { s with
        roster.legs := sets.foldl
          (fun t w => t.set w.1.toNat { t[w.1.toNat] with passCode := w.2.1, budget := w.2.2 }) s.roster.legs } := by
  induction sets generalizing s with
  | nil => rfl
  | cons w ws ih => exact ih _

/-- Settles O25: both bodies read back as their sets, which are applied in order. -/
theorem tablesWritten : Obligations.TablesWritten := by
  refine ⟨fun s sets h hl hp hn hr => ?_, fun s sets h hl hp hn => ?_⟩
  · refine exec_carried (c := .classWrite) h (by rw [hp]; rfl) (.inl hl) (.inl (by decide)) ?_
    simp only [State.carryOut, State.doClassWrite, parseClassWrite_bytes hn hr, List.foldl_map, received_roster]
  · refine exec_carried (c := .legWrite) h (by rcases hp with hp | hp <;> rw [hp] <;> rfl) (.inl hl)
      (.inl (by decide)) ?_
    simp only [State.carryOut, State.doLegWrite, parseLegWrite_bytes hn, foldl_updLeg, received_roster]

end Sys2Proof.Machine
end

section
/-!
PROOF. Loading a route: ROSTER LOAD, ROSTER BEGIN, ROSTER DISCARD and ROSTER COMMIT (O27, O26, O28).
-/

namespace Sys2Proof.Machine

/-! ## Entry sets (R5) -/

theorem parseAttrs_byte (a : Attrs) : parseAttrs a.byte = some a := by
  obtain ⟨w, wa, x⟩ := a
  revert w wa x
  decide

theorem length_loadedBytes (l : Loaded) : l.bytes.length = 16 := by
  simp [Loaded.bytes]

/-- The fields of an entry set are the entry's. -/
theorem loadedBytes_fields {l : Loaded} {classes : Vector ClassRec 16} (h : l.InRange classes) :
    field l.bytes 0 4 = l.serial ∧ byteAt l.bytes 4 = l.leg ∧ byteAt l.bytes 5 = l.cls.setWidth 8 ∧
    field l.bytes 6 4 = l.prevReg ∧ field l.bytes 10 3 = l.prevAge ∧ byteAt l.bytes 13 = l.refStatus ∧
    field l.bytes 14 1 = l.carried ∧ byteAt l.bytes 15 = l.attrs.byte := by
  obtain ⟨⟨_, serial⟩, _, _, ⟨_, prevReg⟩, prevAge, carried⟩ := h
  unfold Loaded.bytes
  simp [toLE, byteAt, field, le]
  and_intros <;> omega

/-- An entry set in range reads back as its entry (R5). -/
theorem parseEntry_bytes {classes : Vector ClassRec 16} {l : Loaded} (h : l.InRange classes) :
    parseEntry classes l.bytes = some l := by
  obtain ⟨e0, e4, e5, e6, e10, e13, e14, e15⟩ := loadedBytes_fields h
  have cls : (byteAt l.bytes 5).setWidth 4 = l.cls := by
    rw [e5]
    exact BitVec.setWidth_setWidth_of_le _ (by decide)
  have clsSmall : (byteAt l.bytes 5).toNat < 16 := by
    rw [e5, BitVec.toNat_setWidth]
    have := l.cls.isLt
    omega
  have leg : field l.bytes 4 1 ≤ 254 := by
    rw [field_one, e4]
    have := h.leg
    bv_omega
  obtain ⟨serial, _, digits, ⟨prevReg, _⟩, prevAge, _⟩ := h
  unfold parseEntry
  simp only [cls, e0, e6, e10]
  rw [if_pos ⟨serial.1, serial.2, leg, clsSmall, digits, prevReg, prevAge⟩, e15, parseAttrs_byte, e4, e13, e14]
  rfl

theorem parseLoad_bytes {classes : Vector ClassRec 16} {sets : List Loaded} (hn : sets ≠ [])
    (h : ∀ l ∈ sets, l.InRange classes) : parseLoad classes (sets.flatMap Loaded.bytes) = some sets := by
  unfold parseLoad
  rw [parseGroups_flatMap (by decide) _ length_loadedBytes hn]
  refine (mapM_map_some (parseEntry classes) _ id fun l hl => parseEntry_bytes (h l hl)).trans ?_
  rw [List.map_id]

/-! ## The order of the sets (R9) -/

theorem ascendingFrom_iff (n : Nat) (ls : List Loaded) :
    ascendingFrom n ls = true ↔ (∀ l ∈ ls, n < l.serial) ∧ (ls.map Loaded.serial).Pairwise (· < ·) := by
  refine ⟨ascendingFrom_pairwise, fun h => ?_⟩
  induction ls generalizing n with
  | nil => rfl
  | cons l ls ih =>
    obtain ⟨above, ordered⟩ := h
    rw [List.map_cons, List.pairwise_cons] at ordered
    rw [ascendingFrom, Bool.and_eq_true, decide_eq_true_eq]
    exact ⟨above l List.mem_cons_self, ih _ ⟨fun m hm => ordered.1 _ (List.mem_map_of_mem hm), ordered.2⟩⟩

/-- The last serial staged is a serial staged, or there is none. -/
theorem lastSerial_mem {es : List Loaded} (h : es ≠ []) : lastSerial es ∈ es.map Loaded.serial := by
  unfold lastSerial
  rw [List.getLast?_eq_some_getLast h]
  exact List.mem_map_of_mem (List.getLast_mem h)

/-- Sets ascend from above what is staged exactly when all serials ascend strictly. -/
theorem ascendingFrom_lastSerial {staged sets : List Loaded} (hs : (staged.map Loaded.serial).Pairwise (· < ·))
    (pos : ∀ l ∈ sets, 1 ≤ l.serial) :
    ascendingFrom (lastSerial staged) sets = true ↔ ((staged ++ sets).map Loaded.serial).Pairwise (· < ·) := by
  rw [ascendingFrom_iff, List.map_append, List.pairwise_append]
  constructor
  · rintro ⟨above, ordered⟩
    refine ⟨hs, ordered, fun a ha b hb => ?_⟩
    obtain ⟨x, hx, rfl⟩ := List.mem_map.mp ha
    obtain ⟨y, hy, rfl⟩ := List.mem_map.mp hb
    exact (le_lastSerial hs hx).trans_lt (above y hy)
  · rintro ⟨_, ordered, above⟩
    refine ⟨fun l hl => ?_, ordered⟩
    by_cases hn : staged = []
    · subst hn
      exact pos l hl
    · exact above _ (lastSerial_mem hn) _ (List.mem_map_of_mem hl)

/-- Settles O27: the body reads back as its sets, and the two tests of R9 are those of the statement. -/
theorem rosterLoadStages : Obligations.RosterLoadStages := by
  intro s sets h hl hp hn hr hs
  have parsed := parseLoad_bytes hn hr
  have order := ascendingFrom_lastSerial hs fun l hl => (hr l hl).serial.1
  have answer {o : ReplyCode} {d : List Byte} {t : State}
      (hc : s.received.doRosterLoad (sets.flatMap Loaded.bytes) = (o, d, t)) :
      exec (.rosterLoad (sets.flatMap Loaded.bytes)) s = .next (State.finish (t.replied .rosterLoad o d)) :=
    exec_carried (c := .rosterLoad) h (by rw [hp]; rfl) (.inl hl) (.inl (by decide)) hc
  dsimp only
  refine ⟨fun inOrder room => answer ?_, fun unordered => answer ?_, fun inOrder full => answer ?_⟩
  · simp [State.doRosterLoad, parsed, order.mpr inOrder, Nat.not_lt.mpr room]
  · simp [State.doRosterLoad, parsed, Bool.eq_false_iff.mpr fun hc => unordered (order.mp hc), refuse]
  · simp [State.doRosterLoad, parsed, order.mpr inOrder, full, refuse]

/-! ## Beginning, discarding and committing a route -/

theorem parseBegin_bytes {route count : Nat} (hr : route < 4294967296) (h1 : 1 ≤ count) (h2 : count ≤ 4096) :
    parseBegin (toLE 4 route ++ toLE 2 count) = some (route, count) := by
  have number : field (toLE 4 route ++ toLE 2 count) 0 4 = route := by
    rw [field_append_left _ (by simp), field_toLE (by simpa using hr)]
  have announced : field (toLE 4 route ++ toLE 2 count) 4 2 = count := by
    rw [field_append_right _ _ (by simp), length_toLE, Nat.sub_self, field_toLE (by omega)]
  unfold parseBegin
  rw [number, announced, if_pos ⟨by simp, h1, h2⟩]

/-- Settles O26: both commands are carried out in their phases. -/
theorem routeBegunAndDiscarded : Obligations.RouteBegunAndDiscarded := by
  refine ⟨fun s route count h hl hp hr h1 h2 => ?_, fun s h hl hp => ?_⟩
  · refine exec_carried (c := .rosterBegin) h (by rw [hp]; rfl) (.inl hl) (.inl (by decide)) ?_
    simp only [State.carryOut, State.doRosterBegin, parseBegin_bytes hr h1 h2]
    rfl
  · refine exec_carried (c := .rosterDiscard) h (by rcases hp with hp | hp <;> rw [hp] <;> rfl) (.inl hl)
      (.inl (by decide)) ?_
    rfl

/-- Settles O28: the tests of R10 in their order, in LOADING. -/
theorem rosterCommitStartsRebuild : Obligations.RosterCommitStartsRebuild := by
  intro s h hl hp
  have answer {o : ReplyCode} {t : State} (hc : s.received.doRosterCommit [] = (o, [], t)) :
      exec (.rosterCommit []) s = .next (State.finish (t.replied .rosterCommit o [])) :=
    exec_carried (c := .rosterCommit) h (by rw [hp]; rfl) (.inl hl) (.inl (by decide)) hc
  have busy : s.received.uploadBusy = (s.upload.st == .sending || s.upload.st == .awaitAck) := rfl
  refine ⟨fun h1 h2 => ?_, fun hu => answer ?_⟩
  · have idle : s.received.uploadBusy = false := by simp [busy, h1, h2]
    refine ⟨fun full => answer ?_, fun short => answer ?_⟩
    · rw [State.doRosterCommit, idle, if_neg (by decide), if_neg (by decide), if_neg (by simpa using full)]
      rfl
    · rw [State.doRosterCommit, idle, if_neg (by decide), if_neg (by decide), if_pos (by simpa using short)]
      rfl
  · have sending : s.received.uploadBusy = true := by rcases hu with hu | hu <;> simp [busy, hu]
    rw [State.doRosterCommit, sending, if_pos rfl]
    rfl

end Sys2Proof.Machine
end

section
/-!
PROOF. The commands that only report (O19): their data, and nothing else changed.
-/

namespace Sys2Proof.Machine

/-- The status data with its fields spelled (R139). -/
theorem statusData_eq (j : Journal) :
    j.statusData =
      [j.st.code] ++ toLE 4 j.size ++ toLE 4 j.recordEnd ++ toLE 4 j.indexStart ++ toLE 4 (j.indexStart - j.recordEnd)
        ++ toLE 2 j.total ++ toLE 2 j.delivered
        ++ (match j.openBatch with
            | some o => toLE 2 o.number ++ [BitVec.ofNat 8 o.count]
            | none => ([0, 0, 0] : List Byte))
        ++ toLE 2 j.seals.length ++ toLE 2 j.buffer.flatten.length ++ toLE 2 j.waits.length ++ toLE 4 j.nextBatch
        ++ (match j.capture with
            | some (off, n) => toLE 4 off ++ toLE 2 n
            | none => ([0xFF, 0xFF, 0xFF, 0xFF, 0, 0] : List Byte))
        ++ [j.lastOp.code, j.lastResult.code] := by
  unfold Journal.statusData
  cases j.openBatch <;> cases j.capture <;> rfl

/-- The presence byte with its bits spelled (layout 11.3). -/
theorem presence_eq (s : State) (e : Entry) :
    s.presence e = (if e.readingMinute.isSome then 1 else 0) ||| (if e.lastSeq.isSome then 2 else 0)
      ||| (if (s.candOf? e.loaded.serial).isSome then 4 else 0) := by
  unfold State.presence
  cases e.readingMinute.isSome <;> cases e.lastSeq.isSome <;> cases (s.candOf? e.loaded.serial).isSome <;> rfl

/-- A leg that is not the open one has no fields of the open leg (R100). -/
theorem openLegData_other {s : State} {l : Byte} (h : ∀ o, s.sched.openLeg = some o → o.leg ≠ l) :
    s.openLegData l = List.replicate 14 0 := by
  have none : s.sched.openLeg.filter (fun o => o.leg == l) = none := by
    rw [Option.filter_eq_none_iff]
    intro o ho
    simpa using h o ho
  rw [State.openLegData, none]

theorem openLegData_open {s : State} {o : OpenLeg} (h : s.sched.openLeg = some o) :
    s.openLegData o.leg =
      [(1 : Byte)] ++ toLE 2 (if o.passExpired then 65535 else o.passLeft / 1000)
        ++ [BitVec.ofNat 8 o.budget, if o.settled then 1 else 0, BitVec.ofNat 8 s.sched.confirms.length,
            BitVec.ofNat 8 s.sched.sweeps.length, if s.sched.tx.isSome then 1 else 0]
        ++ toLE 4 (match s.sched.tx with
            | some x => x.serial
            | none => Config.absentTransmitSerial s.draws)
        ++ toLE 2 s.sched.credit := by
  have found : s.sched.openLeg.filter (fun k => k.leg == o.leg) = some o := by simp [h, Option.filter]
  rw [State.openLegData, found]
  rfl

theorem parsePosition_toLE {n : Nat} (h : n < 4096) : parsePosition (toLE 2 n) = some n := by
  have value : le (toLE 2 n) = n := le_toLE (by omega)
  unfold parsePosition
  rw [value, if_pos ⟨by simp, by omega⟩]

/-- Settles O19: each of the six commands in turn. -/
theorem reportsChangeNothing : Obligations.ReportsChangeNothing := by
  intro s h
  refine ⟨?_, ?_, ?_, fun hp hl => ⟨fun b e hb he => ?_, fun n hn => ?_, fun l ho => ?_, fun o ho => ?_⟩⟩
  · exact exec_carried (c := .identify) h rfl (.inr rfl) (.inl (by decide)) rfl
  · exact exec_carried (c := .flagsRead) h rfl (.inr rfl) (.inl (by decide)) rfl
  · exact exec_carried (c := .journalStatus) h rfl (.inr rfl) (.inl (by decide))
      (congrArg (fun d => (ReplyCode.done, d, s.received)) (statusData_eq s.journal))
  · refine exec_carried (c := .rosterQuery) h (by rcases hp with hp | hp <;> rw [hp] <;> rfl) (.inl hl)
      (.inl (by decide)) ?_
    have found : s.received.entry? (le b) = some e := he
    have data := presence_eq s.received e
    simp only [State.carryOut, State.doRosterQuery, parseSerial, hb, if_true, found, State.queryData, data]
    rfl
  · refine exec_carried (c := .missedRead) h (by rcases hp with hp | hp <;> rw [hp] <;> rfl) (.inl hl)
      (.inl (by decide)) ?_
    simp only [State.carryOut, State.doMissedRead, parsePosition_toLE hn, received_roster, List.length_take,
      List.length_drop]
  · refine exec_carried (c := .legStatus) h (by rcases hp with hp | hp <;> rw [hp] <;> rfl) (.inl hl)
      (.inl (by decide)) ?_
    have data : s.received.openLegData l = _ := openLegData_other ho
    simp only [State.carryOut, State.doLegStatus, parseByte, data]
    rfl
  · refine exec_carried (c := .legStatus) h (by rcases hp with hp | hp <;> rw [hp] <;> rfl) (.inl hl)
      (.inl (by decide)) ?_
    have data : s.received.openLegData o.leg = _ := openLegData_open ho
    simp only [State.carryOut, State.doLegStatus, parseByte, data]
    simp only [List.append_assoc]
    rfl

end Sys2Proof.Machine
end

section
/-!
PROOF. What the commands turn away (O30): the bodies that do not read back, and the states that refuse.
-/

namespace Sys2Proof.Machine

/-- A command that its own rule turns away is answered so and has no other effect (R169). -/
theorem exec_turnedAway {c : Cmd} {b : List Byte} {o : ReplyCode} {s : State} (h : Listening s)
    (hp : c.inPhase s.roster.phase = true) (hl : s.longOp = false ∨ c.duringLong = true) (ho : o ≠ .done)
    (hc : s.received.carryOut c b = refuse o s.received) :
    exec (c.row b) s = .next (State.finish (s.received.replied c o [])) :=
  exec_carried h hp hl (.inr ho) hc

/-! ## Bodies that do not read back -/

theorem parseFlags_none {b : List Byte} (h : b.length ≠ 2 ∨ 8192 ≤ le b) : parseFlags b = none := by
  unfold parseFlags
  exact if_neg (by omega)

/-- A set of no flag is the only one that reads as 0. -/
theorem parseFlags_zero {b : List Byte} (h : le b = 0) : parseFlags b = none ∨ parseFlags b = some 0 := by
  unfold parseFlags
  split
  · rw [h]; exact .inr rfl
  · exact .inl rfl

theorem parseClearOption_none {b : List Byte} (h : b.length ≠ 1 ∨ 2 ≤ le b) : parseClearOption b = none := by
  unfold parseClearOption
  split
  · rename_i x
    have large : 2 ≤ x.toNat := by simpa [le] using h
    rw [if_neg (by rintro rfl; simp at large), if_neg (by rintro rfl; simp at large)]
  · rfl

theorem parseByte_none {b : List Byte} (h : b.length ≠ 1) : parseByte b = none := by
  unfold parseByte
  split
  · exact absurd rfl h
  · rfl

theorem parseOpenLeg_none {b : List Byte} (h : b.length ≠ 1) : parseOpenLeg b = none := by
  rw [parseOpenLeg, parseByte_none h]
  rfl

theorem parseOpenLeg_some {l : Byte} (h : l ≠ 255#8) : parseOpenLeg [l] = some l := by
  simp [parseOpenLeg, parseByte, Option.filter, h]

theorem parseSerial_none {b : List Byte} (h : b.length ≠ 4) : parseSerial b = none := if_neg h

theorem parsePosition_none {b : List Byte} (h : b.length ≠ 2 ∨ 4095 < le b) : parsePosition b = none := by
  unfold parsePosition
  exact if_neg (by omega)

theorem parseAck_none {b : List Byte} (h : b.length ≠ 4) : parseAck b = none := if_neg h

theorem parseBegin_none {b : List Byte} (h : b.length ≠ 6 ∨ field b 4 2 = 0 ∨ 4096 < field b 4 2) :
    parseBegin b = none := by
  unfold parseBegin
  exact if_neg (by omega)

theorem parseClassWrite_ragged {b : List Byte} (h : b.length % 28 ≠ 0 ∨ b = []) : parseClassWrite b = none := by
  rw [parseClassWrite, parseGroups_none h]
  rfl

theorem parseLegWrite_ragged {b : List Byte} (h : b.length % 3 ≠ 0 ∨ b = []) : parseLegWrite b = none := by
  rw [parseLegWrite, parseGroups_none h]
  rfl

theorem parseLoad_ragged (classes : Vector ClassRec 16) {b : List Byte} (h : b = [] ∨ b.length % 16 ≠ 0) :
    parseLoad classes b = none := by
  rw [parseLoad, parseGroups_none h.symm]
  rfl

/-- The lanes that a mask byte enables. -/
theorem lanesBelow_setWidth (b : Byte) : lanesBelow (b.setWidth 4) 4 = (List.range 4).countP fun i => b.getLsbD i := by
  unfold lanesBelow
  refine List.countP_congr fun i hi => ?_
  rw [BitVec.getLsbD_setWidth, decide_eq_true (List.mem_range.mp hi), Bool.true_and]

/-- A RADIO SET body with a setting or a floor out of range, or of a wrong length (R29, R53, R106, R174). -/
theorem parseRadio_none {b : List Byte}
    (h : b.length < 8 ∨ 16 ≤ (byteAt b 0).toNat ∨ byteAt b 1 = 0 ∨ (byteAt b 2).toNat < 5 ∨ 250 < (byteAt b 2).toNat ∨
      byteAt b 3 = 0 ∨ 50 < (byteAt b 3).toNat ∨ field b 4 2 < 1000 ∨ 60000 < field b 4 2 ∨ byteAt b 6 = 0 ∨
      100 < (byteAt b 6).toNat ∨ 2 ≤ (byteAt b 7).toNat ∨
      b.length ≠ 8 + ((List.range 4).countP fun i => (byteAt b 0).getLsbD i) ∨
      (∃ f ∈ b.drop 8, f.toNat < 0x74 ∨ 0xEC < f.toNat)) : parseRadio b = none := by
  unfold parseRadio
  refine if_pos ?_
  simp only [field_one, lanesBelow_setWidth]
  by_contra hc
  simp only [not_or, not_not] at hc
  obtain ⟨len, mask, hold, wake, win, cap, refill, fwd, lanes, floors⟩ := hc
  have zero {x : Byte} (hx : x = 0) : x.toNat = 0 := by rw [hx]; rfl
  rcases h with h | h | h | h | h | h | h | h | h | h | h | h | h | ⟨f, hf, h⟩
  · exact len h
  · exact mask h
  · exact hold h
  · omega
  · omega
  · have := zero h; omega
  · omega
  · omega
  · omega
  · have := zero h; omega
  · omega
  · exact fwd h
  · exact h lanes
  · have inRange := List.all_eq_true.mp floors f hf
    simp only [Bool.and_eq_true, decide_eq_true_eq] at inRange
    omega

/-- A class set with a field out of range (R1, R2), at the front of a body's rest. -/
theorem parseClassSet_none {g : List Byte}
    (h : 16 ≤ (byteAt g 0).toNat ∨ (1 ≤ (byteAt g 1).toNat ∧ (byteAt g 1).toNat ≤ 3) ∨ 9 < (byteAt g 1).toNat ∨
      (byteAt g 1 ≠ 0 ∧ field g 2 2 = 0) ∨ 1048575 < field g 9 3 ∨ 6 < (byteAt g 12).toNat ∨ field g 13 2 = 0 ∨
      (∃ i < 8, 15 < (byteAt g (17 + i)).toNat) ∨ 3 < (byteAt g 26).toNat ∨ 1 < (byteAt g 27).toNat) :
    parseClassSet (g.take 28) = none := by
  have weights : ((g.take 28).drop 17).take 8 = (g.drop 17).take 8 := by
    rw [List.drop_take, List.take_take]
    rfl
  unfold parseClassSet
  simp only [field_one, byteAt_take (show 0 < 28 by decide), byteAt_take (show 1 < 28 by decide),
    byteAt_take (show 12 < 28 by decide), byteAt_take (show 26 < 28 by decide), byteAt_take (show 27 < 28 by decide),
    field_take (show 2 + 2 ≤ 28 by decide), field_take (show 9 + 3 ≤ 28 by decide),
    field_take (show 13 + 2 ≤ 28 by decide), weights]
  split
  · refine if_pos ?_
    by_contra hc
    simp only [not_or, not_not] at hc
    obtain ⟨low, high, mult, stop, leak, floor, all, retries, confirm⟩ := hc
    rcases h with h | h | h | ⟨h, hm⟩ | h | h | h | ⟨i, hi, h⟩ | h | h
    · omega
    · exact low h
    · exact high h
    · exact mult ⟨fun hz => h (BitVec.eq_of_toNat_eq hz), hm⟩
    · exact stop h
    · exact leak h
    · exact floor h
    · have inside : 17 + i < g.length := by
        by_contra hout
        rw [byteAt, List.getD_eq_default _ _ (by omega)] at h
        exact absurd h (by decide)
      have mem : byteAt g (17 + i) ∈ (g.drop 17).take 8 := by
        rw [List.mem_take_iff_getElem]
        refine ⟨i, by rw [List.length_drop]; omega, ?_⟩
        rw [List.getElem_drop, byteAt, List.getD_eq_getElem _ _ inside]
      have small := List.all_eq_true.mp all _ mem
      simp only [decide_eq_true_eq] at small
      omega
    · exact retries h
    · exact confirm h
  · rfl

theorem parseAttrs_none {b : Byte} (h : 8 ≤ b.toNat) : parseAttrs b = none := if_neg (by omega)

/-- An entry set with a field out of range under the class table (R5), at the front of a body's rest. -/
theorem parseEntry_none {classes : Vector ClassRec 16} {g : List Byte}
    (h : field g 0 4 = 0 ∨ field g 0 4 = 0xFFFFFFFF ∨ byteAt g 4 = 255 ∨ 16 ≤ (byteAt g 5).toNat ∨
      (classes[((byteAt g 5).setWidth 4).toNat]).digits = 0 ∨
      10 ^ (classes[((byteAt g 5).setWidth 4).toNat]).digits ≤ field g 6 4 ∨ 1048575 < field g 10 3 ∨
      8 ≤ (byteAt g 15).toNat) : parseEntry classes (g.take 16) = none := by
  unfold parseEntry
  simp only [field_one, byteAt_take (show 4 < 16 by decide), byteAt_take (show 5 < 16 by decide),
    byteAt_take (show 15 < 16 by decide), field_take (show 0 + 4 ≤ 16 by decide),
    field_take (show 6 + 4 ≤ 16 by decide),
    field_take (show 10 + 3 ≤ 16 by decide)]
  split
  · rename_i ok
    obtain ⟨low, high, leg, cls, digits, reg, age⟩ := ok
    rcases h with h | h | h | h | h | h | h | h
    · omega
    · omega
    · rw [h] at leg
      exact absurd leg (by decide)
    · omega
    · exact absurd h digits
    · omega
    · omega
    · rw [parseAttrs_none h]
      rfl
  · rfl

/-! ## The refusals -/

/-- Refusals of the link's commands, long operation or not (R169, R176, R177, R180). -/
theorem turnedAway_always (s : State) (b : List Byte) (h : Listening s) :
    let param (c : Cmd) := exec (c.row b) s = .next (State.finish (s.received.replied c .param []))
    (b ≠ [] → ∀ c ∈ [Cmd.identify, .restart, .flagsRead, .journalStatus], param c) ∧
    (b.length ≠ 2 ∨ le b = 0 ∨ 8192 ≤ le b → param .flagsClear) ∧ (b.length ≠ 2 ∨ 8192 ≤ le b → param .flagsMask) ∧
    (b.length ≠ 1 ∨ 2 ≤ le b → param .countersRead) := by
  refine ⟨fun hb c hc => ?_, fun hb => ?_, fun hb => ?_, fun hb => ?_⟩
  · simp only [List.mem_cons, List.not_mem_nil, or_false] at hc
    rcases hc with rfl | rfl | rfl | rfl <;>
      exact exec_turnedAway h rfl (.inr rfl) (by decide) (if_pos hb)
  · refine exec_turnedAway h rfl (.inr rfl) (by decide) ?_
    have read : parseFlags b = none ∨ parseFlags b = some 0 := by
      rcases hb with hb | hb | hb
      · exact .inl (parseFlags_none (.inl hb))
      · exact parseFlags_zero hb
      · exact .inl (parseFlags_none (.inr hb))
    rcases read with read | read <;> simp [State.carryOut, State.doFlagsClear, read]
  · refine exec_turnedAway h rfl (.inr rfl) (by decide) ?_
    simp only [State.carryOut, State.doFlagsMask, parseFlags_none hb]
  · refine exec_turnedAway h rfl (.inr rfl) (by decide) ?_
    simp only [State.carryOut, State.doCountersRead, parseClearOption_none hb]

end Sys2Proof.Machine
end

section
/-!
PROOF. The refusals of O30, command by command.
-/

namespace Sys2Proof.Machine

theorem refused_bodies (s : State) (b : List Byte) (h : Listening s) (hl : s.longOp = false) :
    let param (c : Cmd) := exec (c.row b) s = .next (State.finish (s.received.replied c .param []))
    (b.length < 8 ∨ 16 ≤ (byteAt b 0).toNat ∨ byteAt b 1 = 0 ∨ (byteAt b 2).toNat < 5 ∨ 250 < (byteAt b 2).toNat ∨
        byteAt b 3 = 0 ∨ 50 < (byteAt b 3).toNat ∨ field b 4 2 < 1000 ∨ 60000 < field b 4 2 ∨ byteAt b 6 = 0 ∨
        100 < (byteAt b 6).toNat ∨ 2 ≤ (byteAt b 7).toNat ∨
        b.length ≠ 8 + ((List.range 4).countP fun i => (byteAt b 0).getLsbD i) ∨
        (∃ f ∈ b.drop 8, f.toNat < 0x74 ∨ 0xEC < f.toNat) → param .radioSet) ∧
    (s.roster.phase = .none →
      (∀ k, 28 * k + 28 ≤ b.length →
        let g := b.drop (28 * k)
        16 ≤ (byteAt g 0).toNat ∨ (1 ≤ (byteAt g 1).toNat ∧ (byteAt g 1).toNat ≤ 3) ∨ 9 < (byteAt g 1).toNat ∨
          (byteAt g 1 ≠ 0 ∧ field g 2 2 = 0) ∨ 1048575 < field g 9 3 ∨ 6 < (byteAt g 12).toNat ∨ field g 13 2 = 0 ∨
          (∃ i < 8, 15 < (byteAt g (17 + i)).toNat) ∨ 3 < (byteAt g 26).toNat ∨ 1 < (byteAt g 27).toNat →
        param .classWrite) ∧
      (b.length ≠ 6 ∨ field b 4 2 = 0 ∨ 4096 < field b 4 2 → param .rosterBegin)) ∧
    (s.roster.phase = .loading →
      (b = [] ∨ b.length % 16 ≠ 0 → param .rosterLoad) ∧
      (∀ k, 16 * k + 16 ≤ b.length →
        let g := b.drop (16 * k)
        let digits := (s.roster.classes[((byteAt g 5).setWidth 4).toNat]).digits
        field g 0 4 = 0 ∨ field g 0 4 = 0xFFFFFFFF ∨ byteAt g 4 = 255 ∨ 16 ≤ (byteAt g 5).toNat ∨ digits = 0 ∨
          10 ^ digits ≤ field g 6 4 ∨ 1048575 < field g 10 3 ∨ 8 ≤ (byteAt g 15).toNat → param .rosterLoad)) ∧
    (s.roster.phase = .active ∨ s.roster.phase = .closed →
      (b.length ≠ 4 → param .rosterQuery) ∧
      (b.length = 4 → s.entry? (le b) = none →
        exec (.rosterQuery b) s = .next (State.finish (s.received.replied .rosterQuery .notFound []))) ∧
      (b.length ≠ 2 ∨ 4095 < le b → param .missedRead) ∧ (b.length ≠ 1 → param .legStatus)) ∧
    (s.roster.phase = .active → b.length ≠ 1 → param .legOpen ∧ param .legClose) ∧
    (∀ k, s.upload.st = .awaitAck → s.upload.batch = some k → b.length ≠ 4 → param .batchReceived) := by
  refine ⟨fun hb => ?_, fun hp => ⟨fun k hk hb => ?_, fun hb => ?_⟩, fun hp => ⟨fun hb => ?_, fun k hk hb => ?_⟩,
    fun hp => ⟨fun hb => ?_, fun hb he => ?_, fun hb => ?_, fun hb => ?_⟩, fun hp hb => ⟨?_, ?_⟩, fun k hu hk hb => ?_⟩
  · refine exec_turnedAway h rfl (.inl hl) (by decide) ?_
    simp only [State.carryOut, State.doRadioSet, parseRadio_none hb]
  · refine exec_turnedAway h (by rw [hp]; rfl) (.inl hl) (by decide) ?_
    have read : parseClassWrite b = none := parseGroups_bad (by decide) _ hk (parseClassSet_none hb)
    simp only [State.carryOut, State.doClassWrite, read]
  · refine exec_turnedAway h (by rw [hp]; rfl) (.inl hl) (by decide) ?_
    simp only [State.carryOut, State.doRosterBegin, parseBegin_none hb]
  · refine exec_turnedAway h (by rw [hp]; rfl) (.inl hl) (by decide) ?_
    simp only [State.carryOut, State.doRosterLoad, parseLoad_ragged _ hb]
  · refine exec_turnedAway h (by rw [hp]; rfl) (.inl hl) (by decide) ?_
    have read : parseLoad s.roster.classes b = none := parseGroups_bad (by decide) _ hk (parseEntry_none hb)
    simp only [State.carryOut, State.doRosterLoad, received_roster, read]
  · refine exec_turnedAway h (by rcases hp with hp | hp <;> rw [hp] <;> rfl) (.inl hl)
      (by decide) ?_
    simp only [State.carryOut, State.doRosterQuery, parseSerial_none hb]
  · refine exec_turnedAway (c := .rosterQuery) h (by rcases hp with hp | hp <;> rw [hp] <;> rfl) (.inl hl)
      (by decide) ?_
    have unknown : s.received.entry? (le b) = none := he
    simp only [State.carryOut, State.doRosterQuery, parseSerial, hb, if_true, unknown]
  · refine exec_turnedAway h (by rcases hp with hp | hp <;> rw [hp] <;> rfl) (.inl hl)
      (by decide) ?_
    simp only [State.carryOut, State.doMissedRead, parsePosition_none hb]
  · refine exec_turnedAway h (by rcases hp with hp | hp <;> rw [hp] <;> rfl) (.inl hl)
      (by decide) ?_
    simp only [State.carryOut, State.doLegStatus, parseByte_none hb]
  · refine exec_turnedAway h (by rw [hp]; rfl) (.inl hl) (by decide) ?_
    simp only [State.carryOut, State.doLegOpen, parseOpenLeg_none hb]
  · refine exec_turnedAway h (by rw [hp]; rfl) (.inl hl) (by decide) ?_
    simp only [State.carryOut, State.doLegClose, parseByte_none hb]
  · refine exec_turnedAway h rfl (.inl hl) (by decide) ?_
    have st : s.received.upload.st = .awaitAck := hu
    have batch : s.received.upload.batch = some k := hk
    simp only [State.carryOut, State.doBatchReceived, st, batch, parseAck_none hb]

theorem uploadBusy_iff (s : State) : s.uploadBusy = true ↔ s.upload.st = .sending ∨ s.upload.st = .awaitAck := by
  simp [State.uploadBusy]

theorem uploadIdle {s : State} (h1 : s.upload.st ≠ .sending) (h2 : s.upload.st ≠ .awaitAck) : s.uploadBusy = false := by
  rw [← Bool.not_eq_true, uploadBusy_iff]
  tauto

/-- JOURNAL CLEAR would lose records (R137). -/
theorem not_allDelivered {j : Journal}
    (h : j.delivered ≠ j.total ∨ j.seals ≠ [] ∨ j.recordEnd ≠ j.newestEnd ∨ j.waits ≠ []) : j.allDelivered = false := by
  rw [← Bool.not_eq_true]
  simp only [Journal.allDelivered, Bool.and_eq_true, beq_iff_eq, List.isEmpty_iff]
  tauto

theorem doBatchReceived_notNow {s : State} (b : List Byte) (h : s.upload.st ≠ .awaitAck) :
    s.doBatchReceived b = refuse .notNow s := by
  unfold State.doBatchReceived
  split
  · exact absurd ‹_› h
  · rfl

/-- Settles O30: each refusal by the test of its command that makes it. -/
theorem turnedAway : Obligations.TurnedAway := by
  refine ⟨turnedAway_always, refused_bodies, fun s b h hl => ?_⟩
  have busy (hu : s.upload.st = .sending ∨ s.upload.st = .awaitAck) : s.received.uploadBusy = true :=
    (uploadBusy_iff s.received).mpr hu
  have idle (h1 : s.upload.st ≠ .sending) (h2 : s.upload.st ≠ .awaitAck) : s.received.uploadBusy = false :=
    uploadIdle (s := s.received) h1 h2
  refine ⟨fun hb c hc => ?_, fun hp hb => ?_, fun hp hb => ?_, fun hp => ⟨fun l hn ho => ?_, ?_, fun l ho => ?_⟩,
    fun hu => ?_, fun hp hu => ?_, fun hp hu => ?_, fun hp hj => ?_, fun hp h1 h2 hj hd => ?_,
    fun hb => ⟨fun hp => ?_, fun h1 h2 => ⟨fun hp hj => ?_, fun hp => ?_, fun hp => ?_⟩, fun hp => ?_⟩⟩
  · simp only [List.mem_cons, List.not_mem_nil, or_false] at hc
    rcases hc with rfl | rfl | rfl | rfl | rfl | rfl <;>
      exact exec_turnedAway h rfl (.inl hl) (by decide) (if_pos hb)
  · refine exec_turnedAway (c := .classWrite) h (by rw [hp]; rfl) (.inl hl) (by decide) ?_
    simp only [State.carryOut, State.doClassWrite, parseClassWrite_ragged hb]
  · refine exec_turnedAway (c := .legWrite) h (by rcases hp with hp | hp <;> rw [hp] <;> rfl) (.inl hl)
      (by decide) ?_
    simp only [State.carryOut, State.doLegWrite, parseLegWrite_ragged hb]
  · refine exec_turnedAway (c := .legOpen) h (by rw [hp]; rfl) (.inl hl) (by decide) ?_
    have opened : s.received.sched.openLeg.isSome = true := ho
    simp only [State.carryOut, State.doLegOpen, parseOpenLeg_some hn, opened, if_true]
  · exact exec_turnedAway (c := .legOpen) h (by rw [hp]; rfl) (.inl hl) (by decide) rfl
  · refine exec_turnedAway (c := .legClose) h (by rw [hp]; rfl) (.inl hl) (by decide) ?_
    have closed : s.received.sched.openLeg.map OpenLeg.leg ≠ some l := by
      rw [Ne, Option.map_eq_some_iff]
      rintro ⟨o, hs, hl⟩
      exact ho o hs hl
    simp only [State.carryOut, State.doLegClose, parseByte, closed, if_false]
  · exact exec_turnedAway (c := .batchReceived) h rfl (.inl hl) (by decide)
      (doBatchReceived_notNow (s := s.received) b hu)
  · refine exec_turnedAway (c := .journalClear) h (by rw [hp]; rfl) (.inl hl) (by decide) ?_
    simp [State.carryOut, State.doJournalClear, busy hu]
  · refine exec_turnedAway (c := .uploadStart) h (by rcases hp with hp | hp <;> rw [hp] <;> rfl) (.inl hl)
      (by decide) ?_
    simp [State.carryOut, State.doUploadStart, busy hu]
  · refine exec_turnedAway (c := .journalClear) h (by rw [hp]; rfl) (.inl hl) (by decide) ?_
    have absent : s.received.journal.st = .absent := hj
    simp [State.carryOut, State.doJournalClear, absent]
  · refine exec_turnedAway (c := .journalClear) h (by rw [hp]; rfl) (.inl hl) (by decide) ?_
    have present : s.received.journal.st ≠ .absent := hj
    have undelivered : s.received.journal.allDelivered = false := not_allDelivered hd
    simp [State.carryOut, State.doJournalClear, idle h1 h2, present, undelivered]
  · exact exec_turnedAway (c := .routeClose) h (by rw [hp]; rfl) (.inl hl) (by decide) (if_pos hb)
  · refine exec_turnedAway (c := .journalClear) h (by rw [hp]; rfl) (.inl hl) (by decide) ?_
    have present : s.received.journal.st ≠ .absent := hj
    simp [State.carryOut, State.doJournalClear, idle h1 h2, present, hb]
  · refine exec_turnedAway (c := .uploadStart) h (by rcases hp with hp | hp <;> rw [hp] <;> rfl) (.inl hl)
      (by decide) ?_
    simp [State.carryOut, State.doUploadStart, idle h1 h2, hb]
  · refine exec_turnedAway (c := .rosterCommit) h (by rw [hp]; rfl) (.inl hl) (by decide) ?_
    simp [State.carryOut, State.doRosterCommit, idle h1 h2, hb]
  · exact exec_turnedAway (c := .rosterDiscard) h (by rcases hp with hp | hp <;> rw [hp] <;> rfl) (.inl hl) (by decide)
      (if_pos hb)

end Sys2Proof.Machine
end

section
/-!
PROOF. The shared operations on meters spelled out: a move, a notice's admission, the settled test and a miss (O36).
-/

namespace Sys2Proof.Machine

/-! ## A move -/

/-- The place of a category in the leg counts. -/
def CountKind.index : CountKind → Nat
  | .read => 0
  | .missed => 1
  | .excluded => 2
  | .outstanding => 3

/-- A move of one count, each count apart (R21). -/
theorem LegCounts.move_eq (c : LegCounts) (a b : CountKind) :
    let move (x n : Nat) : Nat := n - (if a.index = x then 1 else 0) + (if b.index = x then 1 else 0)
    c.move a b = if a.index = b.index then c else
      ⟨c.total, move 0 c.read, move 1 c.missed, move 2 c.excluded, move 3 c.outstanding⟩ := by
  cases a <;> cases b <;> rfl

/-- A move's place on the chain: off it, and at its back when the new state is MISSED (R19). -/
theorem chainMove_eq (n : Nat) (old new : EntryState) (chain : List Nat) :
    chainMove n old new chain =
      (if old = .missed then chain.erase n else chain) ++ (if new = .missed then [n] else []) := by
  unfold chainMove
  by_cases h : new = .missed
  · simp only [h, if_true]
  · simp only [h, if_false, List.append_nil]

theorem moveTo_unknown {s : State} {n : Nat} (st : EntryState) (h : s.entry? n = none) : s.moveTo n st = s := by
  simp only [State.moveTo, h]

/-- A move changes the entry, the chain and the leg's counts, and nothing else (R19, R21). -/
theorem moveTo_eq {s : State} {n : Nat} {e : Entry} (st : EntryState) (h : s.entry? n = some e) :
    s.moveTo n st = { s with roster := { s.roster with
      entries := s.roster.entries.map fun x => if x.loaded.serial = n then { x with st := st } else x,
      missed := chainMove n e.st st s.roster.missed,
      legs := s.roster.legs.set e.loaded.leg.toNat
        { s.leg e.loaded.leg with counts := (s.leg e.loaded.leg).counts.move e.st.kind st.kind } } } := by
  simp only [State.moveTo, State.placeEntry, h]
  rfl

/-! ## Notices and the settled test -/

/-- Between two states the journal and the link alone may differ. -/
def Reports (s t : State) : Prop := ∃ (j : Journal) (l : Link), t = { s with journal := j, link := l }

theorem Reports.of {s t : State} (h : t = { s with journal := t.journal, link := t.link }) : Reports s t := ⟨_, _, h⟩

theorem Reports.refl (s : State) : Reports s s := .of rfl

theorem Reports.trans {s t u : State} (h : Reports s t) (k : Reports t u) : Reports s u := by
  obtain ⟨_, _, rfl⟩ := h
  obtain ⟨j, l, rfl⟩ := k
  exact ⟨j, l, rfl⟩

theorem reports_requestNotice (x : Notice) (s : State) : Reports s (s.requestNotice x) := by
  unfold State.requestNotice
  split <;> exact .of rfl

/-- The settled test changes the open-leg record, the journal and the link at most. -/
theorem settleTest_frame (s : State) :
    ∃ (o : Option OpenLeg) (j : Journal) (l : Link),
      s.settleTest = { s with sched.openLeg := o, journal := j, link := l } := by
  unfold State.settleTest
  split
  · exact ⟨_, _, _, rfl⟩
  · rename_i o _
    split
    · obtain ⟨j, l, e⟩ := reports_requestNotice (.leg o.leg .settled (s.leg o.leg).st (s.leg o.leg).counts)
        (({ s with sched.openLeg := some { o with settled := true } } : State).setFlag .legSettled)
      exact ⟨_, j, l, e⟩
    · exact ⟨_, _, _, rfl⟩

theorem requestNotice_fits {x : Notice} {s : State} (h : noticeFits x s.link.notices.length = true) :
    s.requestNotice x = { s with link.notices := s.link.notices ++ [x] } := by
  rw [State.requestNotice, if_pos h]

theorem requestNotice_dropped {x : Notice} {s : State} (h : noticeFits x s.link.notices.length = false) :
    s.requestNotice x =
      { s with link.counters.noticeDropped := min (s.link.counters.noticeDropped + 1) 65535,
               link.flags := s.link.flags ||| 0x0400#13 } := by
  rw [State.requestNotice, if_neg (by rw [h]; decide)]
  rfl

/-- Where the settled test finds the leg settled. -/
theorem settleTest_settles {s : State} {o : OpenLeg} (h : s.sched.openLeg = some o) (hs : o.settled = false)
    (hc : (s.leg o.leg).counts.outstanding = 0) :
    s.settleTest = State.requestNotice (.leg o.leg .settled (s.leg o.leg).st (s.leg o.leg).counts)
      { s with sched.openLeg := some { o with settled := true }, link.flags := s.link.flags ||| 0x0010#13 } := by
  simp only [State.settleTest, h]
  rw [if_pos ⟨hs, hc⟩]
  rfl

theorem settleTest_idle {s : State}
    (h : ∀ o, s.sched.openLeg = some o → o.settled = true ∨ (s.leg o.leg).counts.outstanding ≠ 0) :
    s.settleTest = s := by
  unfold State.settleTest
  split
  · rfl
  · rename_i o ho
    rw [if_neg]
    rintro ⟨hs, hc⟩
    rcases h o ho with hn | hn
    · rw [hs] at hn
      cases hn
    · exact hn hc

/-- A state is outstanding when it is none of READ, MISSED and EXCLUDED (R21). -/
theorem kind_outstanding (st : EntryState) :
    st.kind = .outstanding ↔ ¬ (st = .read ∨ st = .missed ∨ st = .excluded) := by
  cases st <;> simp [EntryState.kind]

/-- On a true roster no meter of a leg is outstanding exactly when each is READ, MISSED or EXCLUDED. -/
theorem outstanding_zero {s : State} (h : RosterInv s) (hp : s.roster.phase = .active) (l : Byte) :
    (s.leg l).counts.outstanding = 0 ↔
      ∀ e ∈ s.roster.entries, e.loaded.leg = l → e.st = .read ∨ e.st = .missed ∨ e.st = .excluded := by
  rw [h.counts (.inl hp) l]
  simp only [countLeg, List.countP_eq_zero, List.mem_filter, beq_iff_eq, kind_outstanding, not_not, and_imp]

/-! ## A miss -/

theorem reports_testLow (s : State) : Reports s s.testLow := by
  unfold State.testLow
  split
  · exact .of rfl
  · exact .refl s

theorem reports_sealOpen (s : State) : Reports s s.sealOpen := by
  unfold State.sealOpen
  split
  · exact .refl s
  · split
    · exact Reports.trans (.of rfl) (reports_testLow _)
    · exact .refl s

theorem reports_append (bs : List Byte) (s : State) : Reports s (s.append bs) := by
  have joined : Reports s (s.joinBuffer bs) := .of rfl
  unfold State.append
  refine (joined.trans (reports_testLow _)).trans ?_
  unfold State.sealFull
  split
  · split
    · exact reports_sealOpen _
    · exact .refl _
  · exact .refl _

theorem reports_joinWait (w : WaitEntry) (s : State) : Reports s (s.joinWait w).2 := by
  unfold State.joinWait
  split <;> exact .of rfl

theorem reports_refuseByState (s : State) : Reports s s.refuseByState := by
  unfold State.refuseByState
  dsimp only
  split <;> exact .of rfl

theorem reports_offer (r : JournalRecord) (w : WaitEntry) (s : State) : Reports s (s.offer r w).2 := by
  unfold State.offer
  split
  · exact reports_refuseByState s
  · split
    · exact reports_joinWait w s
    · split
      · exact .of rfl
      · exact reports_joinWait w s
      · exact reports_append _ s

theorem leg_moveTo {s : State} {n : Nat} {e : Entry} (st : EntryState) (h : s.entry? n = some e) (l : Byte) :
    (s.moveTo n st).leg l =
      if l = e.loaded.leg then
        { s.leg e.loaded.leg with counts := (s.leg e.loaded.leg).counts.move e.st.kind st.kind }
      else s.leg l := by
  have placed (k : Byte) : (s.placeEntry n st).leg k = s.leg k := by simp only [State.leg, placeEntry_legs]
  simp only [State.moveTo, h]
  rw [leg_updLeg, placed, placed]

/-- A flag that is set stays set over small changes. -/
theorem Moves.flag {s t : State} (h : Moves s t) {f : Flag} (hf : s.flag f = true) : t.flag f = true := by
  have both := congrArg (fun v : BitVec 13 => v.getLsbD f.number) h.flags
  unfold State.flag at *
  simp only [BitVec.getLsbD_and, hf, Bool.and_true] at both
  exact both

theorem flag_setFlag (f : Flag) (s : State) : (s.setFlag f).flag f = true := by
  cases f <;> simp [State.setFlag, State.flag, Flag.number]

theorem flag_requestNotice_dropped {x : Notice} {s : State} (h : noticeFits x s.link.notices.length = false) :
    (s.requestNotice x).flag .noticeLoss = true := by
  rw [State.requestNotice, if_neg (by rw [h]; decide)]
  exact flag_setFlag _ _

/-- The settled test adds its own notice at most, and none to a queue that takes none (R117, R178). -/
theorem settleTest_notices (s : State) : ∃ more, s.settleTest.link.notices = s.link.notices ++ more ∧
    (more = [] ∨ (s.link.notices.length ≤ 47 ∧ ∃ o, s.sched.openLeg = some o ∧
      more = [.leg o.leg .settled (s.leg o.leg).st (s.leg o.leg).counts])) := by
  unfold State.settleTest
  split
  · exact ⟨[], by simp, .inl rfl⟩
  · rename_i o ho
    split
    · unfold State.requestNotice
      split
      · rename_i fits
        exact ⟨_, rfl, .inr ⟨of_decide_eq_true fits, o, ho, rfl⟩⟩
      · exact ⟨[], by simp, .inl rfl⟩
    · exact ⟨[], by simp, .inl rfl⟩

theorem append_buffer (bs : List Byte) (s : State) : (s.append bs).journal.buffer = s.journal.buffer ++ [bs] := by
  unfold State.append State.sealFull State.sealOpen State.testLow State.joinBuffer State.setFlag
  simp only
  repeat' split
  all_goals rfl

/-- A record that the journal has room for, with none waiting, joins the buffer (R123, R125). -/
theorem offer_appends {s : State} {r : JournalRecord} (w : WaitEntry) (ho : s.journal.st = .opened)
    (hw : s.journal.waits = []) (hr : s.journal.room r.bytes.length = .fits) :
    s.offer r w = (.appended, s.append r.bytes) := by
  simp only [State.offer, ho, hw, hr, ne_eq, not_true_eq_false, if_false]

theorem length_missBytes (r : MissRec) : r.bytes.length = 18 := by
  simp [MissRec.bytes, sealRecord]

/-- The meter has moved and its MISS record has been offered. -/
def State.missOffered (s : State) (n : Nat) (e : Entry) (r : MissReason) : State :=
  ((s.moveTo n .missed).offerHeld (.miss (s.missRecord e r))).2

/-- A miss with its notice and flag, before the settled test. -/
def State.missTold (s : State) (n : Nat) (e : Entry) (r : MissReason) : State :=
  State.setFlag .missed ((s.missOffered n e r).requestNotice (.missed n e.loaded.leg r))

theorem missMeter_eq {s : State} {n : Nat} {e : Entry} (r : MissReason) (h : s.entry? n = some e) :
    s.missMeter n r = (s.missTold n e r).settleTest := by
  simp only [State.missMeter, h]
  rfl

theorem reports_missTold (s : State) (n : Nat) (e : Entry) (r : MissReason) :
    Reports (s.moveTo n .missed) (s.missTold n e r) :=
  (reports_offer _ _ _).trans ((reports_requestNotice _ _).trans (.of rfl))

theorem moveTo_link (s : State) (n : Nat) (st : EntryState) : (s.moveTo n st).link = s.link := by
  unfold State.moveTo State.placeEntry
  cases s.entry? n <;> rfl

theorem missOffered_notices (s : State) (n : Nat) (e : Entry) (r : MissReason) :
    (s.missOffered n e r).link.notices = s.link.notices := by
  rw [State.missOffered, State.offerHeld, (offer_blocks _ _).2.2, moveTo_link]

/-- A miss's blocks: after the move, the open-leg record, the journal and the link alone may differ. -/
theorem missMeter_frame {s : State} {n : Nat} {e : Entry} (r : MissReason) (h : s.entry? n = some e) :
    ∃ (o : Option OpenLeg) (j : Journal) (l : Link),
      s.missMeter n r = { s.moveTo n .missed with sched.openLeg := o, journal := j, link := l } := by
  obtain ⟨_, _, told⟩ := reports_missTold s n e r
  obtain ⟨o, j, l, settled⟩ := settleTest_frame (s.missTold n e r)
  refine ⟨o, j, l, (missMeter_eq r h).trans (settled.trans ?_)⟩
  rw [told]

/-- The notices of a miss: its own when it is admitted, and no other but that of the settled test (R113, R117). -/
theorem missMeter_notices {s : State} {n : Nat} {e : Entry} (r : MissReason) (h : s.entry? n = some e) :
    (s.link.notices.length ≤ 47 → ∃ more,
      (s.missMeter n r).link.notices = s.link.notices ++ [.missed n e.loaded.leg r] ++ more ∧
      (more = [] ∨ ∃ o, s.sched.openLeg = some o ∧
        more = [.leg o.leg .settled ((s.missMeter n r).leg o.leg).st ((s.missMeter n r).leg o.leg).counts])) ∧
    (47 < s.link.notices.length →
      (s.missMeter n r).link.notices = s.link.notices ∧ (s.missMeter n r).flag .noticeLoss = true) := by
  have before := missOffered_notices s n e r
  have sched : (s.missTold n e r).sched = s.sched := by
    obtain ⟨j, l, told⟩ := reports_missTold s n e r
    rw [told]
    exact moveTo_sched n .missed s
  obtain ⟨more, after, hm⟩ := settleTest_notices (s.missTold n e r)
  rw [missMeter_eq r h]
  refine ⟨fun room => ⟨more, ?_, ?_⟩, fun full => ?_⟩
  · have fits : noticeFits (.missed n e.loaded.leg r) (s.missOffered n e r).link.notices.length = true := by
      rw [before]
      exact decide_eq_true room
    rw [after, State.missTold, State.setFlag_link_notices, requestNotice_fits fits, before]
  · rcases hm with rfl | ⟨_, o, ho, rfl⟩
    · exact .inl rfl
    · refine .inr ⟨o, by rwa [sched] at ho, ?_⟩
      have legs : ∀ l, (s.missTold n e r).settleTest.leg l = (s.missTold n e r).leg l := fun l => by
        simp only [State.leg, settleTest_blocks.1]
      rw [legs]
  · have drops : noticeFits (.missed n e.loaded.leg r) (s.missOffered n e r).link.notices.length = false := by
      rw [before]
      exact decide_eq_false (by omega)
    have told : (s.missTold n e r).link.notices = s.link.notices := by
      rw [State.missTold, State.setFlag_link_notices, requestNotice_dropped drops]
      exact before
    refine ⟨?_, (moves_settleTest _).flag ((moves_setFlag _ _).flag (flag_requestNotice_dropped drops))⟩
    rcases hm with rfl | ⟨room, _⟩
    · rw [after, told, List.append_nil]
    · rw [told] at room
      omega

/-- Settles O36: each operation by its own lemmas. -/
theorem missNoticeAndSettling : Obligations.MissNoticeAndSettling := by
  refine ⟨fun s n f st => ⟨rfl, moveTo_unknown st, fun e he => ?_⟩, fun s x => ?_,
    fun s => ⟨fun ho => ?_, fun o ho => ⟨?_, ?_, ?_⟩⟩,
    fun s n r e he => ?_⟩
  · intro kind k move
    have index (x : EntryState) : kind x = x.kind.index := by cases x <;> rfl
    have counts := LegCounts.move_eq k.counts e.st.kind st.kind
    simp only [← index] at counts
    rw [moveTo_eq st he, chainMove_eq, counts]
  · have fits : noticeFits x s.link.notices.length = true ↔ s.link.notices.length ≤ (match x with
        | .foreign _ _ _ => 32
        | _ => 47) := by
      cases x <;> exact decide_eq_true_iff
    refine ⟨fun room => requestNotice_fits (fits.mpr room), fun full => requestNotice_dropped ?_⟩
    rw [← Bool.not_eq_true, fits]
    exact Nat.not_le.mpr full
  · exact settleTest_idle fun o h => by rw [ho] at h; cases h
  · exact fun h => settleTest_idle fun k hk => by
      rw [ho] at hk
      cases hk
      exact h
  · exact fun hs hc => settleTest_settles ho hs hc
  · exact fun hi hp => outstanding_zero hi hp o.leg
  · obtain ⟨o, j, l, frame⟩ := missMeter_frame r he
    obtain ⟨room, full⟩ := missMeter_notices r he
    have roster : (s.missMeter n r).roster = (s.moveTo n .missed).roster := by rw [frame]
    have legs (k : Byte) : (s.missMeter n r).leg k = (s.moveTo n .missed).leg k := by simp only [State.leg, roster]
    have moved := moveTo_eq .missed he
    have sched : (s.moveTo n .missed).sched = s.sched := moveTo_sched n .missed s
    refine ⟨missMeter_eq r he, ?_, fun k hk => (missMeter_other r hk).1, ?_, fun h1 h2 h3 => ?_, fun k hk => ?_, ?_,
      room, full, fun ho hw hr => ?_, (missMeter_other r (Nat.succ_ne_self n)).2, ?_, ?_, ?_, ?_, ?_, ?_, ?_⟩
    · exact (entry?_of_entries n (congrArg Roster.entries roster)).trans (entry?_moveTo_self .missed he)
    · rw [roster, moved]
      exact chainMove_eq n e.st .missed s.roster.missed
    · have outstanding : e.st.kind = .outstanding := (kind_outstanding _).mpr (by simp [h1, h2, h3])
      rw [legs, leg_moveTo .missed he, if_pos rfl, outstanding]
      rfl
    · rw [legs, leg_moveTo .missed he, if_neg hk]
    · rw [missMeter_eq r he]
      exact (moves_settleTest _).flag (flag_setFlag _ _)
    · have appended := offer_appends (s := s.moveTo n .missed) (r := .miss (s.missRecord e r))
        (.held (.miss (s.missRecord e r))) (by rw [moveTo_journal]; exact ho) (by rw [moveTo_journal]; exact hw)
        (by rw [moveTo_journal, JournalRecord.bytes, length_missBytes]; exact hr)
      rw [missMeter_eq r he, settleTest_journal, State.missTold, State.setFlag_journal, requestNotice_journal,
        State.missOffered, State.offerHeld, appended, append_buffer, moveTo_journal]
      rfl
    · rw [frame, moved]
    · rw [frame, moved]
    · rw [frame, moved]
    · rw [frame, moved]
    · rw [frame, moved]
    · rw [frame, moved]
    · rw [frame, moved]

end Sys2Proof.Machine
end

section
/-!
PROOF. ROSTER EDIT (O29): its body, and what one of its sets does.
-/

namespace Sys2Proof.Machine

/-! ## The body (R22) -/

/-- One set of ROSTER EDIT as the van's computer writes it (layout 11.3). -/
def editSet (w : Nat × Attrs) : List Byte := toLE 4 w.1 ++ [w.2.byte]

/-- One set of ROSTER EDIT as the part reads it. -/
def parseEditSet (g : List Byte) : Option (Nat × Attrs) := (parseAttrs (byteAt g 4)).map fun a => (field g 0 4, a)

theorem parseEdit_cons (m : Byte) (rest : List Byte) :
    parseEdit (m :: rest) =
      (parseMode m).bind fun mode =>
        ((parseGroups 5 rest).bind fun gs => gs.mapM parseEditSet).map fun sets => (mode, sets) := by
  show ((parseMode m).bind fun mode => (parseGroups 5 rest).bind fun gs =>
    (gs.mapM parseEditSet).map fun sets => (mode, sets)) = _
  cases parseGroups 5 rest <;> rfl

theorem parseMode_byte (m : EditMode) : parseMode m.byte = some m := by cases m <;> rfl

theorem parseEditSet_bytes {w : Nat × Attrs} (h : w.1 < 4294967296) : parseEditSet (editSet w) = some w := by
  have serial : field (editSet w) 0 4 = w.1 := by
    rw [editSet, field_append_left _ (by simp), field_toLE (by simpa using h)]
  have attrs : byteAt (editSet w) 4 = w.2.byte := by
    rw [editSet, byteAt_append_right _ (by simp)]
    simp [byteAt]
  rw [parseEditSet, serial, attrs, parseAttrs_byte]
  rfl

theorem parseEdit_bytes (m : EditMode) {sets : List (Nat × Attrs)} (hn : sets ≠ [])
    (h : ∀ w ∈ sets, w.1 < 4294967296) :
    parseEdit (m.byte :: sets.flatMap editSet) = some (m, sets) := by
  have run : (parseGroups 5 (sets.flatMap editSet)).bind (fun gs => gs.mapM parseEditSet) = some sets := by
    rw [parseGroups_flatMap (by decide) editSet (fun _ => by simp [editSet]) hn]
    refine (mapM_map_some parseEditSet editSet id fun w hw => parseEditSet_bytes (h w hw)).trans ?_
    rw [List.map_id]
  rw [parseEdit_cons, parseMode_byte, run]
  rfl

/-- A body of another form: an unknown mode, no whole number of sets, or a spare attribute bit. -/
theorem parseEdit_none {b : List Byte}
    (h : (byteAt b 0 ≠ 1 ∧ byteAt b 0 ≠ 2 ∧ byteAt b 0 ≠ 3) ∨ b.length < 6 ∨ (b.length - 1) % 5 ≠ 0 ∨
      (∃ k, 5 * k + 5 < b.length ∧ 8 ≤ (byteAt b (5 * k + 5)).toNat)) : parseEdit b = none := by
  cases b with
  | nil => rfl
  | cons m rest =>
    rw [parseEdit_cons]
    have head : byteAt (m :: rest) 0 = m := rfl
    simp only [head, List.length_cons, Nat.add_sub_cancel] at h
    rcases h with ⟨h1, h2, h3⟩ | h | h | ⟨k, hk, h⟩
    · rw [parseMode, if_neg h1, if_neg h2, if_neg h3]
      rfl
    · have ragged : rest.length % 5 ≠ 0 ∨ rest = [] := by
        by_cases hr : rest = []
        · exact .inr hr
        · have := List.length_pos_iff.mpr hr
          exact .inl (by omega)
      rw [parseGroups_none ragged]
      cases parseMode m <;> rfl
    · rw [parseGroups_none (.inl h)]
      cases parseMode m <;> rfl
    · have spare : byteAt ((rest.drop (5 * k)).take 5) 4 = byteAt (m :: rest) (5 * k + 5) := by
        rw [byteAt_take (by decide)]
        simp [byteAt, List.getD_eq_getElem?_getD]
      have bad : parseEditSet ((rest.drop (5 * k)).take 5) = none := by
        rw [parseEditSet, spare, parseAttrs_none h]
        rfl
      rw [parseGroups_bad (by decide) parseEditSet (by omega) bad]
      cases parseMode m <;> rfl

/-! ## One set (R22, R23) -/

/-- The state that R23 gives a meter of an entry whose attributes become others; `passed` when its leg is PASSED. -/
def Entry.editedState (e : Entry) (now : Attrs) (passed : Prop) [Decidable passed] : EntryState :=
  if now.excluded ∧ ¬ e.attrs.excluded ∧ (e.st = .pending ∨ e.st = .missed) then .excluded
  else if ¬ now.excluded ∧ e.attrs.excluded ∧ e.st = .excluded then (if passed then .missed else .pending)
  else e.st

/-- The attributes of a meter are written, and it moves to a state when that is another one. -/
def State.edited (s : State) (n : Nat) (put : Attrs → Attrs) (e : Entry) (st : EntryState) : State :=
  let t := s.updEntry n fun x => { x with attrs := put x.attrs }
  if st = e.st then t else t.moveTo n st

/-- One set writes the attributes and moves the meter by R23, with the settled test when a PENDING one leaves. -/
theorem editOne_eq {s : State} {n : Nat} {e : Entry} (m : EditMode) (a : Attrs) (h : s.entry? n = some e) :
    let st := e.editedState (m.apply e.attrs a) ((s.leg e.loaded.leg).st = .passed)
    let u := s.edited n (fun x => m.apply x a) e st
    s.editOne m n a = if e.st = .pending ∧ st = .excluded then u.settleTest else u := by
  have serial := (entry?_mem h).2
  have leg (f : Entry → Entry) : (s.updEntry n f).leg e.loaded.leg = s.leg e.loaded.leg := rfl
  simp only [State.editOne, h, State.moveExcluded, Entry.editedState, State.edited, serial, leg]
  generalize m.apply e.attrs a = now
  obtain ⟨l, st, _, _, _, _, ⟨_, _, old⟩, _, _, _, _⟩ := e
  obtain ⟨_, _, new⟩ := now
  dsimp only
  cases old <;> cases new
  case false.true =>
    cases st <;> simp
  case true.false =>
    by_cases passed : (s.leg l.leg).st = .passed <;> cases st <;> simp [passed]
  case false.false => cases st <;> simp
  case true.true => cases st <;> simp

/-- The states that R23 moves between. -/
def EntryState.excludable (st : EntryState) : Prop := st = .pending ∨ st = .missed ∨ st = .excluded

theorem editedState_cases (e : Entry) (now : Attrs) (passed : Prop) [Decidable passed] :
    e.editedState now passed = e.st ∨ (e.st.excludable ∧ (e.editedState now passed).excludable) := by
  unfold Entry.editedState EntryState.excludable
  split
  · rename_i h
    exact .inr ⟨by tauto, by simp⟩
  · split
    · rename_i h
      refine .inr ⟨by tauto, ?_⟩
      split <;> simp
    · exact .inl rfl

/-- The leg counts over such a move, each count apart (R21). -/
theorem move_excludable (c : LegCounts) {old new : EntryState} (ho : old.excludable) (hn : new.excludable)
    (hd : new ≠ old) :
    c.move old.kind new.kind = { c with
      missed := c.missed - (if old = .missed then 1 else 0) + (if new = .missed then 1 else 0),
      excluded := c.excluded - (if old = .excluded then 1 else 0) + (if new = .excluded then 1 else 0),
      outstanding := c.outstanding - (if old = .pending then 1 else 0) + (if new = .pending then 1 else 0) } := by
  rcases ho with rfl | rfl | rfl <;> rcases hn with rfl | rfl | rfl
  case inl.inl | inr.inl.inr.inl | inr.inr.inr.inr => exact absurd rfl hd
  all_goals rfl

/-- A meter that joins the chain was not on it. -/
theorem chainMove_moves (n : Nat) {old new : EntryState} (chain : List Nat) (hd : new ≠ old) :
    chainMove n old new chain =
      if new = .missed then chain ++ [n] else if old = .missed then chain.erase n else chain := by
  rw [chainMove_eq]
  by_cases hn : new = .missed
  · have ho : ¬ old = .missed := fun ho => hd (hn.trans ho.symm)
    simp only [hn, ho, if_true, if_false]
  · simp only [hn, if_false, List.append_nil]

/-- Two updates of one entry, one after the other, are one. -/
theorem map_upd_upd (n : Nat) (f g : Entry → Entry) (hf : ∀ x, (f x).loaded = x.loaded) (es : List Entry) :
    (es.map fun x => if x.loaded.serial = n then f x else x).map (fun x => if x.loaded.serial = n then g x else x) =
      es.map fun x => if x.loaded.serial = n then g (f x) else x := by
  rw [List.map_map]
  refine List.map_congr_left fun x _ => ?_
  by_cases hx : x.loaded.serial = n <;> simp [hx, hf]

/-- What a set writes, spelled out: the entry, and when the meter moves the chain and its leg's counts. -/
theorem edited_eq {s : State} {n : Nat} {e : Entry} (put : Attrs → Attrs) {st : EntryState} (h : s.entry? n = some e)
    (hm : st = e.st ∨ (e.st.excludable ∧ st.excludable)) :
    let k := s.leg e.loaded.leg
    s.edited n put e st = { s with roster := { s.roster with
      entries := s.roster.entries.map fun x =>
        if x.loaded.serial = n then { x with attrs := put x.attrs, st := if st = e.st then x.st else st } else x,
      missed := if st = e.st then s.roster.missed
        else if st = .missed then s.roster.missed ++ [n]
        else if e.st = .missed then s.roster.missed.erase n else s.roster.missed,
      legs := if st = e.st then s.roster.legs else
        s.roster.legs.set e.loaded.leg.toNat { k with counts := { k.counts with
          missed := k.counts.missed - (if e.st = .missed then 1 else 0) + (if st = .missed then 1 else 0),
          excluded := k.counts.excluded - (if e.st = .excluded then 1 else 0) + (if st = .excluded then 1 else 0),
          outstanding :=
            k.counts.outstanding - (if e.st = .pending then 1 else 0) + (if st = .pending then 1 else 0) } } } } := by
  intro k
  unfold State.edited
  by_cases hd : st = e.st
  · simp only [hd, if_true]
    rfl
  · have written := entry?_updEntry_self (fun x => { x with attrs := put x.attrs }) (fun _ => rfl) h
    obtain ⟨ho, hn⟩ := hm.resolve_left hd
    have twice := map_upd_upd n (fun x => { x with attrs := put x.attrs }) (fun x => { x with st := st })
      (fun _ => rfl) s.roster.entries
    simp only [hd, if_false]
    rw [moveTo_eq st written, chainMove_moves n _ hd, move_excludable _ ho hn hd]
    simp only [State.updEntry]
    rw [twice]
    rfl

/-- The entry that was edited, and that no other is touched. -/
theorem edited_entry {s : State} {n : Nat} {e : Entry} (put : Attrs → Attrs) (st : EntryState)
    (h : s.entry? n = some e) :
    (s.edited n put e st).entry? n = some { e with attrs := put e.attrs, st := st } := by
  have written := entry?_updEntry_self (fun x => { x with attrs := put x.attrs }) (fun _ => rfl) h
  unfold State.edited
  dsimp only
  split
  · rename_i hd
    rw [hd]
    exact written
  · exact entry?_moveTo_self st written

theorem edited_other {s : State} {n k : Nat} {e : Entry} (put : Attrs → Attrs) (st : EntryState) (hk : k ≠ n) :
    (s.edited n put e st).entry? k = s.entry? k := by
  have written := entry?_updEntry_other (s := s) (fun x => { x with attrs := put x.attrs }) (fun _ => rfl) hk
  unfold State.edited
  dsimp only
  split
  · exact written
  · exact (entry?_moveTo_other st hk).trans written

/-- The settled test changes the open-leg record and the link at most. -/
theorem settleTest_openLeg (s : State) :
    ∃ (o : Option OpenLeg) (l : Link), s.settleTest = { s with sched.openLeg := o, link := l } := by
  obtain ⟨o, j, l, frame⟩ := settleTest_frame s
  have journal := settleTest_journal (s := s)
  rw [frame] at journal
  cases journal
  exact ⟨o, l, frame⟩

/-- Settles O29: the body's parse, and a set's equation with its frame. -/
theorem rosterEditApplies : Obligations.RosterEditApplies := by
  refine ⟨fun s m sets h hl hp hn hs => ?_, fun s m n a e he => ?_,
    fun s b h hl hp => ⟨⟨_, exec_row .rosterEdit b h⟩, fun hb => ?_⟩⟩
  · have phase : Cmd.rosterEdit.inPhase s.roster.phase = true := by rw [hp]; rfl
    have body : parseEdit (m.byte :: sets.flatMap fun w => toLE 4 w.1 ++ [w.2.byte]) = some (m, sets) :=
      parseEdit_bytes m hn hs
    refine ⟨fun all => ?_, fun ⟨w, hw, hnone⟩ => ?_⟩
    · refine exec_carried (c := .rosterEdit) h phase (.inl hl) (.inl (by decide)) ?_
      have every : sets.all (fun w => (s.received.entry? w.1).isSome) = true := List.all_eq_true.mpr all
      show s.received.doRosterEdit _ = _
      simp only [State.doRosterEdit, body, every, if_true]
    · refine exec_turnedAway (c := .rosterEdit) h phase (.inl hl) (by decide) ?_
      have some_off : sets.all (fun w => (s.received.entry? w.1).isSome) = false := by
        rw [List.all_eq_false]
        refine ⟨w, hw, ?_⟩
        rw [show s.received.entry? w.1 = none from hnone]
        decide
      show s.received.doRosterEdit _ = _
      simp only [State.doRosterEdit, body, some_off, Bool.false_eq_true, if_false]
  · intro b st t
    have applied (x : Attrs) : m.apply x a = (match m with
        | .write => a
        | .set => ⟨x.wake || a.wake, x.wakeAllowed || a.wakeAllowed, x.excluded || a.excluded⟩
        | .clear => ⟨x.wake && !a.wake, x.wakeAllowed && !a.wakeAllowed, x.excluded && !a.excluded⟩) := by
      cases m <;> rfl
    have state : e.editedState (m.apply e.attrs a) ((s.leg e.loaded.leg).st = .passed) = st := by
      rw [applied]
      rfl
    have run := editOne_eq m a he
    dsimp only at run
    rw [state] at run
    have moved : st = e.st ∨ (e.st.excludable ∧ st.excludable) := state ▸ editedState_cases _ _ _
    have spelled := edited_eq (fun x => m.apply x a) he moved
    have frame : ∃ (o : Option OpenLeg) (l : Link),
        t = { s.edited n (fun x => m.apply x a) e st with sched.openLeg := o, link := l } := by
      rw [show t = _ from run]
      split
      · exact settleTest_openLeg _
      · exact ⟨_, _, rfl⟩
    obtain ⟨o, l, frame⟩ := frame
    have roster : t.roster = (s.edited n (fun x => m.apply x a) e st).roster := by rw [frame]
    have entries (k : Nat) : t.entry? k = (s.edited n (fun x => m.apply x a) e st).entry? k :=
      entry?_of_entries k (congrArg Roster.entries roster)
    refine ⟨?entry, fun k hk => (entries k).trans (edited_other _ st hk), ?chain, ?_, ?_, ?_, ?_, ?_, ?_, ?_, ?_, ?_,
      (moves_editOne m n a s).replies, ?whole⟩
    case entry =>
      rw [entries, edited_entry _ st he]
      exact congrArg (fun x => some { e with attrs := x, st := st }) (applied e.attrs)
    case chain => rw [roster, spelled]
    case whole =>
      intro put k u
      have same : s.edited n put e st = u := edited_eq put he moved
      rw [show (fun x => m.apply x a) = put from funext applied, same] at run
      exact run
    all_goals rw [frame, spelled]
  · have phase : Cmd.rosterEdit.inPhase s.roster.phase = true := by rw [hp]; rfl
    refine exec_turnedAway (c := .rosterEdit) h phase (.inl hl) (by decide) ?_
    show s.received.doRosterEdit b = _
    simp only [State.doRosterEdit, parseEdit_none hb]

end Sys2Proof.Machine
end

section
/-!
PROOF. The retry of the wait order, one record at a time, and what each owner does with the answer (O53).
-/

namespace Sys2Proof.Machine

/-! ## The retry (R124) -/

theorem retry_empty {s : State} (h : s.journal.waits = []) : s.retry = s := by
  rw [State.retry, h]
  rfl

section
variable {s : State} {w : WaitEntry} {rest : List WaitEntry} {r : JournalRecord}

/-- The state with the front of its wait order taken off. -/
theorem popWait_eq (hw : s.journal.waits = w :: rest) : s.popWait = { s with journal.waits := rest } := by
  rw [State.popWait, hw]
  rfl

/-- After the front's report the fuel that is left is enough. -/
theorem retryWaits_report (hw : s.journal.waits = w :: rest) {t : State} (ht : t.journal.waits = rest) (a : Bool) :
    (t.report w a).retryWaits s.waitFuel = (t.report w a).retry := by
  have spent := waitFuel_report (s := t) w a
  have whole : s.waitFuel = w.fuel + t.waitFuel := by simp [State.waitFuel, hw, ht]
  exact retry_eq _ (by omega)

theorem retry_succ (s : State) : s.retry = s.retryWaits (s.waitFuel + 1) := (retry_eq _ (Nat.le_succ _)).symm

variable (hw : s.journal.waits = w :: rest) (hr : s.waitRecord w = some r)
include hw hr

theorem retry_refused (hs : s.journal.st ≠ .opened) :
    s.retry = State.retry (State.report w false (State.refuseByState { s with journal.waits := rest })) := by
  have waits : (State.refuseByState { s with journal.waits := rest }).journal.waits = rest := by
    rw [refuseByState_journal]
  rw [retry_succ, State.retryWaits, hw]
  simp only [hr]
  rw [if_pos hs, popWait_eq hw, retryWaits_report hw waits]

variable (ho : s.journal.st = .opened)
include ho

theorem retry_waits (hroom : s.journal.room r.bytes.length = .noBuffer) : s.retry = s := by
  rw [retry_succ, State.retryWaits, hw]
  simp only [hr, ho, hroom, ne_eq, not_true_eq_false, if_false]

theorem retry_appends (hroom : s.journal.room r.bytes.length = .fits) :
    s.retry = State.retry (State.report w true (State.append r.bytes { s with journal.waits := rest })) := by
  have waits : (State.append r.bytes { s with journal.waits := rest }).journal.waits = rest := append_waits _
  rw [retry_succ, State.retryWaits, hw]
  simp only [hr]
  rw [if_neg (not_not.mpr ho), hroom]
  simp only
  rw [popWait_eq hw, retryWaits_report hw waits]

theorem retry_noSpace (hroom : s.journal.room r.bytes.length = .noSpace) :
    s.retry = State.retry (State.report w false (State.refuseForSpace { s with journal.waits := rest })) := by
  have waits : (State.refuseForSpace { s with journal.waits := rest }).journal.waits = rest := rfl
  rw [retry_succ, State.retryWaits, hw]
  simp only [hr]
  rw [if_neg (not_not.mpr ho), hroom]
  simp only
  rw [popWait_eq hw, retryWaits_report hw waits]

end

/-- A refusal by the journal's state counts one, and sets JOURNAL_FULL in FULL (R123). -/
theorem refuseByState_eq (s : State) :
    let refused : State := { s with link.counters.refusal := min (s.link.counters.refusal + 1) 65535 }
    s.refuseByState = if s.journal.st = .full then refused.setFlag .journalFull else refused := by
  rfl

/-- Records of the scheduler that wait outside OPEN are refused and counted, one after the other. -/
theorem retry_held_refused (ws : List WaitEntry) {s : State} (hw : s.journal.waits = ws) (hs : s.journal.st ≠ .opened)
    (held : ∀ w ∈ ws, w.isHeld = true) (hc : s.link.counters.refusal ≤ 65535) :
    s.retry.roster = s.roster ∧
      s.retry.link.counters.refusal = min (s.link.counters.refusal + ws.length) 65535 := by
  induction ws generalizing s with
  | nil =>
    rw [retry_empty hw]
    exact ⟨rfl, (Nat.min_eq_left hc).symm⟩
  | cons w rest ih =>
    have front := held w (List.mem_cons_self ..)
    cases w with
    | held r =>
      have later := ih (s := State.refuseByState { s with journal.waits := rest }) (by rw [refuseByState_journal])
        (by rw [refuseByState_journal]; exact hs) (fun w h => held w (List.mem_cons_of_mem _ h))
      have told : (State.refuseByState { s with journal.waits := rest }).link.counters.refusal =
          min (s.link.counters.refusal + 1) 65535 := by
        rw [refuseByState_eq]
        dsimp only
        split <;> rfl
      have roster : (State.refuseByState { s with journal.waits := rest }).roster = s.roster := by
        obtain ⟨j, l, e⟩ := reports_refuseByState { s with journal.waits := rest }
        rw [e]
      rw [told, roster] at later
      obtain ⟨after, counted⟩ := later (Nat.min_le_right _ _)
      rw [retry_refused hw rfl hs]
      refine ⟨after, counted.trans ?_⟩
      rw [List.length_cons]
      omega
    | slot n => cases front
    | moved ev => cases front

/-! ## The owner's answer -/

theorem tamperNotice_flagged (n : Nat) (c : BitVec 8) (k : Nat) (s : State) :
    s.tamperNotice n .flagged c k = State.setFlag .tamper (s.requestNotice (.tamper n .flagged c k)) := by
  rw [State.tamperNotice]
  exact if_pos (.inl rfl)

section
variable {s : State} (a : Bool)

/-- A record of a route that is gone moves no entry (R72, R93). -/
theorem outcome_reading_orphan {r : ReadingRec} {d m : Nat} {fl : Bool} (h : s.entry? r.serial = none) :
    s.outcome (.reading r d fl m) a = s.orphanOutcome (.reading r d fl m) a := by
  simp only [State.outcome, h, Option.isNone_none, if_true]

theorem outcome_confirm_orphan {r : ConfirmRec} {k : Nat} (h : s.entry? r.serial = none) :
    s.outcome (.confirm r k) a = s.orphanOutcome (.confirm r k) a := by
  simp only [State.outcome, h, Option.isNone_none, if_true]

theorem outcome_reading {r : ReadingRec} {d m : Nat} {fl : Bool} {e : Entry} (h : s.entry? r.serial = some e) :
    s.outcome (.reading r d fl m) a = if a then s.readingAppended r d fl m else s.readingRefused r d := by
  simp only [State.outcome, h, Option.isNone_some, Bool.false_eq_true, if_false]

theorem outcome_confirm {r : ConfirmRec} {k : Nat} {e : Entry} (h : s.entry? r.serial = some e) :
    s.outcome (.confirm r k) a = s.confirmOutcome r a := by
  simp only [State.outcome, h, Option.isNone_some, Bool.false_eq_true, if_false]

end

/-- Settles O53: the front of the wait order by the journal's state and room, then the answer by its record. -/
theorem waitOrderRetriedAndReported : Obligations.WaitOrderRetriedAndReported := by
  refine ⟨fun s => ⟨retry_empty, fun w rest r hw hr => ⟨fun ho h => retry_waits hw hr ho h,
      fun ho h => retry_appends hw hr ho h, fun ho h => retry_noSpace hw hr ho h, fun hs => ?_⟩,
      fun r rest hw hn ho h => ?_, fun hs held hc => ?_⟩,
    fun s a => ⟨fun r => ⟨rfl, rfl⟩, fun ev => ⟨rfl, rfl⟩, fun n c ev hc he => ?_, fun r d fl m => ?_,
      fun r k => ?_⟩⟩
  · exact retry_refused hw hr hs
  · rw [retry_appends hw rfl ho h]
    subst hn
    exact retry_empty (append_waits _)
  · exact ⟨congrArg Journal.waits (retry_closed hs), retry_held_refused _ rfl hs held hc⟩
  · constructor
    · simp only [State.waitRecord, hc, Option.bind_some, he, Option.map_some]
    · simp only [State.report, hc, Option.bind_some, he]
      rfl
  · intro ev told flagged
    refine ⟨?_, outcome_reading_orphan a, fun e he => ⟨?_, ?_, ?_, ?_⟩⟩
    · cases a <;> cases fl
      case true.true => exact tamperNotice_flagged ..
      all_goals rfl
    · rintro rfl hr
      rw [outcome_reading true he, if_pos rfl, State.readingAppended, if_neg (by rw [hr]; decide)]
      simp only [tamperNotice_flagged]
      rfl
    · rintro rfl hr v
      rw [outcome_reading true he, if_pos rfl, State.readingAppended, if_pos hr]
      simp only [State.legIsOpen, beq_iff_eq]
      rfl
    · rintro rfl hp
      rw [outcome_reading false he, if_neg (by decide), State.readingRefused, if_neg hp]
    · rintro rfl hp
      rw [outcome_reading false he, if_neg (by decide), State.readingRefused, if_pos hp]
      rfl
  · intro ev tell
    refine ⟨rfl, outcome_confirm_orphan a, fun e he => ⟨fun h => ?_, ?_⟩⟩
    · rw [outcome_confirm a he, State.confirmOutcome, if_pos h, State.endConfirmation]
      simp only [he]
      rfl
    · rintro rfl hp
      rw [outcome_confirm false he, State.confirmOutcome, if_neg (by simp [hp])]

end Sys2Proof.Machine
end

section
/-!
PROOF. The commit rebuild scan's records and its ends (R11 to R15), for O57.
-/

namespace Sys2Proof.Machine

/-! ## An entry placed and a record applied -/

section
variable {s : State} {n : Nat} {e : Entry}

/-- A placing changes the entry and the chain, and nothing else (R19). -/
theorem placeEntry_eq (st : EntryState) (h : s.entry? n = some e) :
    s.placeEntry n st = { s with roster := { s.roster with
      entries := s.roster.entries.map fun x => if x.loaded.serial = n then { x with st := st } else x,
      missed := (if e.st = .missed then s.roster.missed.erase n else s.roster.missed) ++
        (if st = .missed then [n] else []) } } := by
  simp only [State.placeEntry, h, chainMove_eq]
  rfl

/-- What a READING record of this route restores in its entry (R12). -/
def Entry.reread (e : Entry) (bs : List Byte) : Entry :=
  { e with prevReg := field bs 13 4, refStatus := byteAt bs 34, totalScore := field bs 37 1,
           lastSeq := some (byteAt bs 42), readingMinute := some 0 }

theorem applyReading_eq (bs : List Byte) (h : s.entry? n = some e) :
    s.applyReading n bs = { s with roster := { s.roster with
      entries := s.roster.entries.map fun x =>
        if x.loaded.serial = n then { x.reread bs with st := .read } else x,
      missed := if e.st = .missed then s.roster.missed.erase n else s.roster.missed } } := by
  have written : (s.updEntry n fun x => x.reread bs).entry? n = some (e.reread bs) :=
    entry?_updEntry_self _ (fun _ => rfl) h
  have placed := placeEntry_eq .read written
  have twice := map_upd_upd n (fun x => x.reread bs) (fun x => { x with st := .read }) (fun _ => rfl) s.roster.entries
  simp only [State.updEntry, reduceCtorEq, if_false, List.append_nil, twice] at placed
  exact placed

/-- The entry that a READING record restores, and that no other is touched. -/
theorem applyReading_entry (bs : List Byte) (h : s.entry? n = some e) :
    (s.applyReading n bs).entry? n = some { e.reread bs with st := .read } ∧
      ∀ k, k ≠ n → (s.applyReading n bs).entry? k = s.entry? k := by
  have entries (k : Nat) : (s.applyReading n bs).entry? k =
      (s.updEntry n fun x => { x.reread bs with st := .read }).entry? k := by
    rw [applyReading_eq bs h]
    exact entry?_of_entries k rfl
  exact ⟨(entries n).trans (entry?_updEntry_self _ (fun _ => rfl) h),
    fun k hk => (entries k).trans (entry?_updEntry_other _ (fun _ => rfl) hk)⟩

theorem passesLeg_iff (x : Byte) : passesLeg x = true ↔ x = 1 ∨ x = 3 := by
  rw [passesLeg, Bool.or_eq_true, beq_iff_eq, beq_iff_eq]
  rfl

theorem applyMiss_eq (bs : List Byte) (h : s.entry? n = some e) :
    s.applyMiss n bs =
      let m : State :=
        if e.st = .pending ∨ e.st = .missed then
          { s with roster := { s.roster with
              entries := s.roster.entries.map fun x => if x.loaded.serial = n then { x with st := .missed } else x,
              missed := (if e.st = .missed then s.roster.missed.erase n else s.roster.missed) ++ [n] } }
        else s
      if byteAt bs 12 = 1 ∨ byteAt bs 12 = 3 then
        { m with roster.legs := s.roster.legs.set (byteAt bs 11).toNat { s.leg (byteAt bs 11) with st := .passed } }
      else m := by
  have placed := placeEntry_eq .missed h
  simp only [if_true] at placed
  simp only [State.applyMiss, h, passesLeg_iff, placed]
  split <;> split <;> rfl

end

/-! ## A record reached by the walk (R11) -/

section
variable {s : State} {bs : List Byte}

theorem offerRecord_bad (h : xorAll bs ≠ 0) : s.offerRecord bs = s.countBadRecord := by
  rw [State.offerRecord, if_pos h]

theorem offerRecord_otherRoute (h : xorAll bs = 0) (hr : s.roster.routeId ≠ some (field bs 3 4)) :
    s.offerRecord bs = s := by
  rw [State.offerRecord, if_neg (not_not.mpr h), if_pos (Ne.symm hr)]

theorem offerRecord_own (h : xorAll bs = 0) (hr : s.roster.routeId = some (field bs 3 4)) :
    s.offerRecord bs = s.applyRecord bs := by
  rw [State.offerRecord, if_neg (not_not.mpr h), if_neg (not_not.mpr hr.symm)]

theorem applyRecord_unknown (h : s.entry? (field bs 7 4) = none) : s.applyRecord bs = s.countUnknownSerial := by
  simp only [State.applyRecord, h, Option.isNone_none, if_true]

variable {e : Entry} (he : s.entry? (field bs 7 4) = some e)
include he

theorem applyRecord_reading (h : byteAt bs 0 = 0x52#8) : s.applyRecord bs = s.applyReading (field bs 7 4) bs := by
  simp only [State.applyRecord, he, Option.isNone_some, Bool.false_eq_true, if_false, h, if_true]

theorem applyRecord_miss (h : byteAt bs 0 = 0x4D#8) : s.applyRecord bs = s.applyMiss (field bs 7 4) bs := by
  simp [State.applyRecord, he, h]

theorem applyRecord_confirm (h : byteAt bs 0 = 0x43#8) : s.applyRecord bs = s := by
  simp [State.applyRecord, he, h]

end

/-- A record of the walk changes the roster and the link at most. -/
theorem offerRecord_frame (bs : List Byte) (s : State) :
    ∃ (r : Roster) (l : Link), s.offerRecord bs = { s with roster := r, link := l } := by
  by_cases hx : xorAll bs = 0
  · by_cases hr : s.roster.routeId = some (field bs 3 4)
    · rw [offerRecord_own hx hr]
      cases he : s.entry? (field bs 7 4) with
      | none => exact ⟨_, _, applyRecord_unknown he⟩
      | some e =>
        by_cases h52 : byteAt bs 0 = 0x52#8
        · exact ⟨_, _, (applyRecord_reading he h52).trans (applyReading_eq bs he)⟩
        · by_cases h4d : byteAt bs 0 = 0x4D#8
          · rw [applyRecord_miss he h4d, applyMiss_eq bs he]
            dsimp only
            split <;> split <;> exact ⟨_, _, rfl⟩
          · refine ⟨s.roster, s.link, ?_⟩
            simp only [State.applyRecord, he, Option.isNone_some, Bool.false_eq_true, if_false, h52, h4d]
    · exact ⟨_, _, offerRecord_otherRoute hx hr⟩
  · exact ⟨_, _, offerRecord_bad hx⟩

/-! ## The end of the scan (R14, R15) -/

/-- PENDING meters placed among the MISSED, one after the other: each at the back of the chain. -/
theorem placeMissed_eq (ns : List Nat) {s : State} (once : ns.Nodup)
    (pending : ∀ n ∈ ns, ∃ e, s.entry? n = some e ∧ e.st = .pending) :
    ns.foldl (fun t n => t.placeEntry n .missed) s = { s with roster := { s.roster with
      entries := s.roster.entries.map fun e => if e.loaded.serial ∈ ns then { e with st := .missed } else e,
      missed := s.roster.missed ++ ns } } := by
  induction ns generalizing s with
  | nil => simp
  | cons n ns ih =>
    obtain ⟨e, he, hst⟩ := pending n (List.mem_cons_self ..)
    obtain ⟨fresh, once⟩ := List.nodup_cons.mp once
    have placed := placeEntry_eq .missed he
    simp only [hst, reduceCtorEq, if_false, if_true] at placed
    have others (k : Nat) (hk : k ≠ n) : (s.placeEntry n .missed).entry? k = s.entry? k := by
      rw [placed]
      exact (entry?_of_entries (s := s.updEntry n fun x => { x with st := .missed }) k rfl).trans
        (entry?_updEntry_other _ (fun _ => rfl) hk)
    rw [List.foldl_cons, ih once fun k hk => by
      rw [others k fun same => fresh (same ▸ hk)]
      exact pending k (List.mem_cons_of_mem _ hk)]
    rw [placed]
    have entries : (s.roster.entries.map fun x => if x.loaded.serial = n then { x with st := .missed } else x).map
          (fun x => if x.loaded.serial ∈ ns then { x with st := .missed } else x) =
        s.roster.entries.map fun x => if x.loaded.serial ∈ n :: ns then { x with st := .missed } else x := by
      rw [List.map_map]
      refine List.map_congr_left fun x _ => ?_
      by_cases hx : x.loaded.serial = n <;> simp [hx, fresh]
    simp only [entries, List.append_assoc, List.singleton_append]

/-- The counts of a leg by the states of its entries (R21). -/
theorem countLeg_eq (es : List Entry) (l : Byte) :
    let of (p : EntryState → Bool) : Nat := es.countP fun e => e.loaded.leg == l && p e.st
    countLeg es l = ⟨of fun _ => true, of fun st => st == .read, of fun st => st == .missed,
      of fun st => st == .excluded, of fun st => st != .read && st != .missed && st != .excluded⟩ := by
  intro of
  have counted (k : CountKind) (p : EntryState → Bool) (hp : ∀ st : EntryState, (st.kind == k) = p st) :
      (es.filter fun e => e.loaded.leg == l).countP (fun e => e.st.kind == k) = of p := by
    rw [List.countP_filter]
    exact List.countP_congr fun e _ => by rw [hp, Bool.and_comm]
  have total : (es.filter fun e => e.loaded.leg == l).length = of fun _ => true := by
    rw [← List.countP_eq_length_filter]
    exact List.countP_congr fun e _ => by rw [Bool.and_true]
  simp only [countLeg, LegCounts.mk.injEq]
  refine ⟨total, counted .read (· == .read) ?_, counted .missed (· == .missed) ?_,
    counted .excluded (· == .excluded) ?_,
    counted .outstanding (fun st => st != .read && st != .missed && st != .excluded) ?_⟩
  all_goals exact fun st => by cases st <;> rfl

theorem st_recount (s : State) (l : Byte) : (s.recount.leg l).st = (s.leg l).st := by
  unfold State.recount State.leg
  dsimp only
  rw [Vector.getElem_ofFn]
  rfl

/-- The serials of the PENDING meters of PASSED legs, which the end of the scan makes MISSED (R14). -/
def State.lateSerials (s : State) : List Nat :=
  s.serialsWhere fun e => e.st == .pending && (s.leg e.loaded.leg).st == .passed

theorem RosterInv.mem_lateSerials {s : State} (h : RosterInv s) {e : Entry} (he : e ∈ s.roster.entries) :
    e.loaded.serial ∈ s.lateSerials ↔ e.st = .pending ∧ (s.leg e.loaded.leg).st = .passed := by
  refine mem_serialsWhere.trans ⟨fun ⟨x, hx, hp, same⟩ => ?_, fun hp => ⟨e, he, by simpa using hp, rfl⟩⟩
  have found := h.entry?_of_mem hx
  rw [same, h.entry?_of_mem he] at found
  cases found
  simpa using hp

/-- The late meters placed among the MISSED. -/
theorem RosterInv.placeLate_eq {s : State} (h : RosterInv s) :
    s.lateSerials.foldl (fun t n => t.placeEntry n .missed) s = { s with roster := { s.roster with
      entries := s.roster.entries.map fun e =>
        if e.st = .pending ∧ (s.leg e.loaded.leg).st = .passed then { e with st := .missed } else e,
      missed := s.roster.missed ++ s.lateSerials } } := by
  have pending : ∀ n ∈ s.lateSerials, ∃ e, s.entry? n = some e ∧ e.st = .pending := by
    intro n hn
    obtain ⟨e, he, _, rfl⟩ := mem_serialsWhere.mp hn
    exact ⟨e, h.entry?_of_mem he, ((h.mem_lateSerials he).mp hn).1⟩
  have entries : s.roster.entries.map (fun e =>
        if e.loaded.serial ∈ s.lateSerials then { e with st := .missed } else e) =
      s.roster.entries.map fun e =>
        if e.st = .pending ∧ (s.leg e.loaded.leg).st = .passed then { e with st := .missed } else e :=
    List.map_congr_left fun e he => by simp only [h.mem_lateSerials he]
  rw [placeMissed_eq s.lateSerials (h.serialsWhere_nodup _) pending, entries]

/-- The end of the scan spelled out, on a true roster. -/
theorem rebuildEnds_eq {s : State} (h : RosterInv s) :
    let late := s.roster.entries.filter fun e => e.st == .pending && (s.leg e.loaded.leg).st == .passed
    let t := s.rebuildEnds
    t.roster.phase = .active ∧ t.roster.rebuild = none ∧ t.roster.routeClock = 0 ∧ t.roster.routeMs = 0 ∧
    t.flag .commitDone = true ∧ t.journal = { s.journal with lastResult := .good } ∧
    t.roster.entries = s.roster.entries.map (fun e =>
      if e.st = .pending ∧ (s.leg e.loaded.leg).st = .passed then { e with st := .missed } else e) ∧
    t.roster.missed = s.roster.missed ++ late.map (fun e => e.loaded.serial) ∧
    (∀ l : Byte, (t.leg l).st = (s.leg l).st ∧ (t.leg l).counts = countLeg t.roster.entries l) := by
  intro late t
  have placed := h.placeLate_eq
  have ends : t = State.setFlag .commitDone
      { State.recount (s.lateSerials.foldl (fun t n => t.placeEntry n .missed) s) with
        roster.phase := .active, roster.routeClock := 0, roster.routeMs := 0, roster.rebuild := none,
        journal.lastResult := .good } := rfl
  generalize s.lateSerials.foldl (fun t n => t.placeEntry n .missed) s = u at placed ends
  have roster : t.roster = { u.recount.roster with
      phase := .active, routeClock := 0, routeMs := 0, rebuild := none } := by
    rw [ends, State.setFlag_roster]
  have legs (l : Byte) : t.leg l = u.recount.leg l := by simp only [State.leg, roster]
  have kept : t.roster.entries = u.roster.entries := by rw [roster, roster_recount]
  refine ⟨by rw [roster], by rw [roster], by rw [roster], by rw [roster], ?_, ?_, ?_, ?_, fun l => ⟨?_, ?_⟩⟩
  · rw [ends]
    exact flag_setFlag _ _
  · rw [ends, State.setFlag_journal]
    simp only [State.recount_journal, placed]
  · rw [kept, placed]
  · rw [roster, roster_recount, placed]
    rfl
  · rw [legs, st_recount, placed]
    rfl
  · rw [legs, leg_recount, kept]

/-- The failure of the scan spelled out: the loaded roster is staged again (R15). -/
theorem rebuildFails_eq (s : State) :
    let t := s.rebuildFails
    t.roster.phase = .loading ∧ t.roster.entries = [] ∧ t.roster.missed = [] ∧ t.roster.rebuild = none ∧
    t.roster.staging = s.roster.entries.map Entry.loaded ∧ t.flag .operationFailed = true ∧
    t.journal.lastResult = .readFailure ∧
    (∀ l : Byte, t.leg l = { s.leg l with st := .unvisited, counts := ⟨0, 0, 0, 0, 0⟩ }) := by
  refine ⟨rfl, rfl, rfl, rfl, rfl, flag_setFlag _ _, rfl, fun l => ?_⟩
  show (s.roster.legs.map fun k => { k with st := .unvisited, counts := .zero })[l.toNat] = _
  rw [Vector.getElem_map]
  rfl

end Sys2Proof.Machine
end

section
/-!
PROOF. The commit rebuild scan's walk over the slots and the batches (R11), and O57.
-/

namespace Sys2Proof.Machine

/-! ## The two rows -/

section
variable {s : State} {rb : Rebuild} {off len : Nat} (ha : s.asserted = false)
include ha

theorem exec_rebuildScanStart : exec .rebuildScanStart s = .next s.rebuildBegins.finish := by
  show event State.rebuildBegins s = _
  rw [event, if_neg (by rw [ha]; decide)]

/-- With the buffer and the seal list empty the scan begins on what the journal holds. -/
theorem exec_rebuildScanStart_begins (hrb : s.roster.rebuild = some rb) (hst : rb.stage = .waiting)
    (hb : s.journal.buffer = []) (hs : s.journal.seals = []) :
    exec .rebuildScanStart s = .next (State.finish (s.rebuildSlots
      { stage := .slots, batches := s.journal.total,
        openSpan := s.journal.openBatch.map fun b => (b.first, s.journal.recordEnd),
        slot := s.journal.size - 16, visited := 0, lastNumber := 0 })) := by
  rw [exec_rebuildScanStart ha]
  simp only [State.rebuildBegins, hrb]
  rw [if_pos ⟨hst, by rw [Journal.held, hb]; rfl, hs⟩]

/-- Nothing begins before then, nor without a scan that waits. -/
theorem exec_rebuildScanStart_waits
    (h : s.journal.held ≠ [] ∨ s.journal.seals ≠ [] ∨ s.roster.rebuild = none ∨
      ∃ rb, s.roster.rebuild = some rb ∧ rb.stage ≠ .waiting) :
    exec .rebuildScanStart s = .next s.finish := by
  rw [exec_rebuildScanStart ha, State.rebuildBegins]
  cases hrb : s.roster.rebuild with
  | none => rfl
  | some rb =>
    rw [hrb] at h
    have stays : ¬ (rb.stage = .waiting ∧ s.journal.held = [] ∧ s.journal.seals = []) := by
      rintro ⟨hst, hh, hs⟩
      rcases h with h | h | h | ⟨_, same, h⟩
      · exact h hh
      · exact h hs
      · cases h
      · cases same
        exact h hst
    simp only [if_neg stays]

variable (hrb : s.roster.rebuild = some rb) (hport : s.flash.port = some (.read .rebuild off len))
include hrb hport

theorem exec_rebuildReadEnd_failed : exec (.rebuildReadEnd false) s = .next s.freePort.rebuildFails.finish := by
  show (if !s.asserted && false && s.rebuildOutside then _ else event (State.rebuildReadEnded false) s) = _
  rw [if_neg (by simp), event, if_neg (by rw [ha]; decide)]
  simp only [State.rebuildReadEnded, hport, hrb]
  rfl

theorem exec_rebuildReadEnd_outside (h : s.journal.size ≤ off) :
    exec (.rebuildReadEnd true) s = .fault .storeRange := by
  have outside : s.rebuildOutside = true := by simp [State.rebuildOutside, hport, hrb, h]
  show (if !s.asserted && true && s.rebuildOutside then _ else event (State.rebuildReadEnded true) s) = _
  rw [if_pos (by rw [ha, outside]; rfl)]

theorem exec_rebuildReadEnd_good (h : off < s.journal.size) :
    exec (.rebuildReadEnd true) s =
      .next (s.freePort.rebuildReadGood rb (Memory.readN s.flash.store off len)).finish := by
  have inside : s.rebuildOutside = false := by simp [State.rebuildOutside, hport, hrb, h]
  show (if !s.asserted && true && s.rebuildOutside then _ else event (State.rebuildReadEnded true) s) = _
  rw [if_neg (by rw [inside]; simp), event, if_neg (by rw [ha]; decide)]
  simp only [State.rebuildReadEnded, hport, hrb, if_true]

end

/-! ## The walk -/

theorem length_readN (m : List Host.Cell) (a n : Nat) : (Memory.readN m a n).length = n := by simp [Memory.readN]

section
variable {s : State} {rb : Rebuild} {pos stop : Nat} {last : Bool} {bs : List Byte}

theorem rebuildSlots_reads (h : rb.visited < rb.batches ∧ s.journal.indexStart ≤ rb.slot) :
    s.rebuildSlots rb = s.rebuildRead { rb with stage := .slots } rb.slot 16 := if_pos h

theorem rebuildSlots_opens (h : ¬ (rb.visited < rb.batches ∧ s.journal.indexStart ≤ rb.slot)) :
    s.rebuildSlots rb = s.rebuildOpen rb := if_neg h

theorem rebuildAt_reads (h : pos < stop) :
    s.rebuildAt rb pos stop last =
      s.rebuildRead { rb with stage := .records pos stop last } pos (min 60 (s.journal.size - pos)) := if_pos h

theorem rebuildAt_done (h : stop ≤ pos) : s.rebuildAt rb pos stop last = s.rebuildBatchDone rb last :=
  if_neg (Nat.not_lt.mpr h)

theorem rebuildReadGood_slots (h : rb.stage = .slots) : s.rebuildReadGood rb bs = s.rebuildSlotRead rb bs := by
  rw [State.rebuildReadGood, h]

theorem rebuildReadGood_records (h : rb.stage = .records pos stop last) :
    s.rebuildReadGood rb bs = s.rebuildRecordRead rb pos stop last bs := by
  rw [State.rebuildReadGood, h]

theorem rebuildSlotRead_passed (h : ∀ b, parseIndex bs = some b → b.number ≤ rb.lastNumber) :
    s.rebuildSlotRead rb bs = s.rebuildSlots rb.below := by
  have dead : ((parseIndex bs).filter fun b => decide (rb.lastNumber < b.number)) = none := by
    cases hp : parseIndex bs with
    | none => rfl
    | some b => simp [Option.filter, h b hp]
  simp only [State.rebuildSlotRead, dead]

/-- A further good slot's records are walked unless it is VOID or empty. -/
theorem rebuildSlotRead_good {b : BatchInfo} (h : parseIndex bs = some b) (hb : rb.lastNumber < b.number) :
    let q := { rb with visited := rb.visited + 1, lastNumber := b.number }.below
    s.rebuildSlotRead rb bs =
      if b.void = true ∨ b.length = 0 then s.rebuildSlots q
      else s.rebuildRead { q with stage := .records b.first (b.first + b.length) false } b.first
        (min 60 (s.journal.size - b.first)) := by
  have alive : ((parseIndex bs).filter fun b => decide (rb.lastNumber < b.number)) = some b := by
    simp [h, Option.filter, hb]
  simp only [State.rebuildSlotRead, alive]
  by_cases hv : b.void = true
  · simp only [hv, true_or, if_true]
  · by_cases hl : b.length = 0
    · rw [if_neg hv, if_pos (.inr hl), rebuildAt_done (by simp [BatchInfo.stop, hl])]
      rfl
    · rw [if_neg hv, if_neg (by simp [hv, hl]), rebuildAt_reads (by simp only [BatchInfo.stop]; omega)]
      rfl

/-- What cannot be a record is counted and ends its batch's walk. -/
theorem rebuildRecordRead_bad (h : recordSize (byteAt bs 0) (byteAt bs 1) = false ∨ bs.length < (byteAt bs 1).toNat) :
    s.rebuildRecordRead rb pos stop last bs = s.countBadRecord.rebuildBatchDone rb last := by
  refine if_neg ?_
  rintro ⟨size, room⟩
  rcases h with h | h
  · rw [h] at size
    cases size
  · omega

theorem rebuildRecordRead_record (h : recordSize (byteAt bs 0) (byteAt bs 1) = true)
    (hn : (byteAt bs 1).toNat ≤ bs.length) :
    s.rebuildRecordRead rb pos stop last bs =
      (s.offerRecord (bs.take (byteAt bs 1).toNat)).rebuildAt rb (pos + (byteAt bs 1).toNat) stop last :=
  if_pos ⟨h, hn⟩

end

/-- Every record is 18 bytes or longer, a READING 48 or longer (the table of 7.3). -/
theorem recordSize_length {k n : Byte} (h : recordSize k n = true) :
    18 ≤ n.toNat ∧ (k = 0x52#8 → 48 ≤ n.toNat) := by
  simp only [recordSize, Bool.or_eq_true, Bool.and_eq_true, beq_iff_eq, decide_eq_true_eq] at h
  rcases h with (⟨_, ⟨low, _⟩, _⟩ | ⟨rfl, size⟩) | ⟨rfl, size⟩
  · omega
  · exact ⟨by omega, fun h => absurd h (by decide)⟩
  · exact ⟨by omega, fun h => absurd h (by decide)⟩

theorem leg_finish (s : State) (l : Byte) : s.finish.leg l = s.leg l := by simp only [State.leg, finish_roster]

theorem flag_finish (s : State) (f : Flag) : s.finish.flag f = s.flag f := by simp only [State.flag, finish_flags]

theorem entry?_finish (s : State) (n : Nat) : s.finish.entry? n = s.entry? n :=
  entry?_of_entries n (congrArg Roster.entries (finish_roster s))

theorem countLeg_total (es : List Entry) (l : Byte) : (countLeg es l).total = es.countP fun e => e.loaded.leg == l :=
  List.countP_eq_length_filter.symm

/-! ## O57, clause by clause -/

/-- A record's walk goes on with the next record of its batch. -/
theorem exec_rebuildReadEnd_next {s : State} {rb : Rebuild} {off len pos stop : Nat} {last : Bool}
    (ha : s.asserted = false) (hrb : s.roster.rebuild = some rb) (hport : s.flash.port = some (.read .rebuild off len))
    (hin : off < s.journal.size) (hst : rb.stage = .records pos stop last) :
    let bs := Memory.readN s.flash.store off len
    let n := (byteAt bs 1).toNat
    recordSize (byteAt bs 0) (byteAt bs 1) = true → n ≤ len → pos + n < stop →
      exec (.rebuildReadEnd true) s = .next (State.finish
        ((s.freePort.offerRecord (bs.take n)).rebuildRead { rb with stage := .records (pos + n) stop last } (pos + n)
          (min 60 (s.journal.size - (pos + n))))) := by
  intro bs n hsize hn hmore
  obtain ⟨r, l, frame⟩ := offerRecord_frame (bs.take n) s.freePort
  have size : (s.freePort.offerRecord (bs.take n)).journal.size = s.journal.size := by rw [frame]; rfl
  rw [exec_rebuildReadEnd_good ha hrb hport hin, rebuildReadGood_records hst,
    rebuildRecordRead_record hsize (by rw [length_readN]; exact hn), rebuildAt_reads hmore, size]

/-- A READING of this route makes its meter READ with what it restores, and no other meter is touched (R12). -/
theorem exec_rebuildReadEnd_reading {s : State} {rb : Rebuild} {off len pos stop : Nat} {last : Bool} {e : Entry}
    (ha : s.asserted = false) (hrb : s.roster.rebuild = some rb) (hport : s.flash.port = some (.read .rebuild off len))
    (hin : off < s.journal.size) (hst : rb.stage = .records pos stop last) :
    let bs := Memory.readN s.flash.store off len
    let n := (byteAt bs 1).toNat
    recordSize (byteAt bs 0) (byteAt bs 1) = true → n ≤ len → pos + n < stop → xorAll (bs.take n) = 0 →
      s.roster.routeId = some (field bs 3 4) → s.entry? (field bs 7 4) = some e → byteAt bs 0 = 0x52 →
      ∃ t, exec (.rebuildReadEnd true) s = .next t ∧
        t.entry? (field bs 7 4) = some { e with
          st := .read, prevReg := field bs 13 4, refStatus := byteAt bs 34, totalScore := field bs 37 1,
          lastSeq := some (byteAt bs 42), readingMinute := some 0 } ∧
        (∀ k, k ≠ field bs 7 4 → t.entry? k = s.entry? k) := by
  intro bs n hsize hn hmore hx hr he hk
  have next := exec_rebuildReadEnd_next ha hrb hport hin hst hsize hn hmore
  have long : 48 ≤ n := (recordSize_length hsize).2 hk
  have route : field (bs.take n) 3 4 = field bs 3 4 := field_take (by omega)
  have serial : field (bs.take n) 7 4 = field bs 7 4 := field_take (by omega)
  have kind : byteAt (bs.take n) 0 = 0x52#8 := (byteAt_take (by omega)).trans hk
  have found : s.freePort.entry? (field (bs.take n) 7 4) = some e := by rw [serial]; exact he
  obtain ⟨own, others⟩ := applyReading_entry (bs.take n) found
  rw [offerRecord_own hx (by rw [route]; exact hr), applyRecord_reading found kind] at next
  have entries (k : Nat) (v : State) (q : Rebuild) (o m : Nat) :
      (v.rebuildRead q o m).finish.entry? k = v.entry? k :=
    (entry?_finish _ k).trans (entry?_of_entries k rfl)
  refine ⟨_, next, ?_, fun k hk => ?_⟩
  · rw [entries, ← serial, own, Entry.reread, field_take (by omega), field_take (by omega), byteAt_take (by omega),
      byteAt_take (by omega)]
  · rw [entries, others k (by rw [serial]; exact hk)]
    rfl

/-- Settles O57: the scan's start, its reads and its records by their own lemmas. -/
theorem rebuildScanRuns : Obligations.RebuildScanRuns := by
  refine ⟨fun s rb ha hrb hst hb hs => ⟨fun ht hi => ?_, fun b ht ho => ⟨fun hm => ?_, fun hm => ?_⟩,
      fun hi ht ho => ?_⟩,
    fun s ha h => exec_rebuildScanStart_waits ha h, fun s rb off len ha hrb hport => ⟨?_, ?_, ?_⟩,
    fun s rb off len ha hrb hport hin => ?_, fun s bs => ?_, countLeg_eq, fun s h => rebuildEnds_eq h⟩
  · rw [exec_rebuildScanStart_begins ha hrb hst hb hs, rebuildSlots_reads ⟨ht, hi⟩]
    rfl
  · rw [exec_rebuildScanStart_begins ha hrb hst hb hs, rebuildSlots_opens (by simp [ht])]
    simp only [State.rebuildOpen, ho, Option.map_some, hm, if_true, ht]
    rfl
  · rw [exec_rebuildScanStart_begins ha hrb hst hb hs, rebuildSlots_opens (by simp [ht])]
    simp only [State.rebuildOpen, ho, Option.map_some, Nat.not_lt.mpr hm, if_false]
  · rw [exec_rebuildScanStart_begins ha hrb hst hb hs, rebuildSlots_opens (by simp [ht])]
    simp only [State.rebuildOpen, ho, Option.map_none]
    obtain ⟨phase, rebuild, clock, _, flag, journal, entries, _, legs⟩ := rebuildEnds_eq hi
    refine ⟨_, rfl, ?_, ?_, ?_, ?_, ?_, ?_, fun l => ?_⟩
    · rwa [finish_roster]
    · rwa [finish_roster]
    · rwa [finish_roster]
    · rwa [flag_finish]
    · rw [finish_journal_lastResult, journal]
    · rwa [finish_roster]
    · rw [leg_finish, finish_roster, (legs l).2, countLeg_total]
  · obtain ⟨phase, entries, missed, rebuild, staging, flag, result, legs⟩ := rebuildFails_eq s.freePort
    refine ⟨_, exec_rebuildReadEnd_failed ha hrb hport, ?_, ?_, ?_, ?_, ?_, ?_, ?_, fun l => ?_⟩
    · rwa [finish_roster]
    · rwa [finish_roster]
    · rwa [finish_roster]
    · rwa [finish_roster]
    · rw [finish_roster, staging]
      rfl
    · rwa [flag_finish]
    · rwa [finish_journal_lastResult]
    · rw [leg_finish, legs]
      rfl
  · exact exec_rebuildReadEnd_outside ha hrb hport
  · intro pos stop last hst hin bs n hsize hn hmore applied
    have next := exec_rebuildReadEnd_next ha hrb hport hin hst hsize hn hmore
    obtain ⟨short, _⟩ := recordSize_length hsize
    have route : field (bs.take n) 3 4 = field bs 3 4 := field_take (by omega)
    have serial : field (bs.take n) 7 4 = field bs 7 4 := field_take (by omega)
    refine ⟨fun hx => ?_, fun hx hr => ?_, fun hx hr he => ?_, fun e hx hr he hk => ?_⟩
    · rw [next, offerRecord_bad hx]
      rfl
    · rw [next, offerRecord_otherRoute hx (by rw [route]; exact hr)]
      rfl
    · rw [next, offerRecord_own hx (by rw [route]; exact hr), applyRecord_unknown (by rw [serial]; exact he)]
      rfl
    · exact exec_rebuildReadEnd_reading ha hrb hport hin hst hsize hn hmore hx hr he hk
  · intro bs n u ask records slots under goOn
    have slots_eq (v : State) (hv : v.journal = s.journal) (q : Rebuild) : v.rebuildSlots q = slots v q := by
      rcases hq : q.openSpan with _ | ⟨a, z⟩ <;>
        simp only [State.rebuildSlots, State.rebuildOpen, State.rebuildRead, State.requestFlash, hv, hq, slots, records,
          ask]
    have goOn_eq (v : State) (hv : v.journal = s.journal) (last : Bool) :
        v.rebuildBatchDone rb last = goOn v last := by
      cases last with
      | true => rfl
      | false => exact slots_eq v hv rb
    have good := exec_rebuildReadEnd_good ha hrb hport hin
    refine ⟨fun hst => ⟨fun hp => ?_, fun b hp hb => ?_⟩, fun pos stop last hst =>
      ⟨fun h => ?_, fun hsize hn hend => ?_, fun hsize hn hmore => ?next⟩⟩
    case next => exact exec_rebuildReadEnd_next ha hrb hport hin hst hsize hn hmore
    · rw [good, rebuildReadGood_slots hst, rebuildSlotRead_passed hp, slots_eq s.freePort rfl]
      rfl
    · rw [good, rebuildReadGood_slots hst, rebuildSlotRead_good hp hb, slots_eq s.freePort rfl]
      rfl
    · rw [good, rebuildReadGood_records hst, rebuildRecordRead_bad (by rw [length_readN]; exact h),
        goOn_eq s.freePort.countBadRecord rfl]
      rfl
    · obtain ⟨r, l, frame⟩ := offerRecord_frame (bs.take n) s.freePort
      rw [good, rebuildReadGood_records hst, rebuildRecordRead_record hsize (by rw [length_readN]; exact hn),
        rebuildAt_done hend, goOn_eq (s.freePort.offerRecord (bs.take n)) (by rw [frame]; rfl)]
      rfl
  · intro t
    refine ⟨offerRecord_bad, offerRecord_otherRoute, fun hx hr => ?_⟩
    have own : t = s.applyRecord bs := offerRecord_own hx hr
    refine ⟨fun he => own.trans (applyRecord_unknown he), fun e he =>
      ⟨fun h => own.trans (applyRecord_confirm he h), fun h => ?_, fun h => ?_⟩⟩
    · exact own.trans ((applyRecord_reading he h).trans (applyReading_eq bs he))
    · exact own.trans ((applyRecord_miss he h).trans (applyMiss_eq bs he))

end Sys2Proof.Machine
end

section
/-!
PROOF. The duty credit and the radio settings in range (O8): RADIO SET and the refill apart, no row raises the credit or
changes a radio setting (`Frugal`).
-/

namespace Sys2Proof.Machine

/-! ## The radio settings -/

/-- The settings that RADIO SET writes and that have a range (R29, R53, R106, R174). -/
def Settings.radio (v : Settings) : Nat × Nat × Nat × Nat × Nat × Vector Int 4 :=
  (v.capacity, v.refill, v.wakeDur, v.replyWin, v.holdTime, v.floors)

/-- Between two states the radio settings stay, and the duty credit does not rise. -/
structure Frugal (s t : State) : Prop where
  radio : t.settings.radio = s.settings.radio
  credit : t.sched.credit ≤ s.sched.credit

theorem Frugal.of_settings {s t : State} (h : t.settings = s.settings) (hc : t.sched.credit ≤ s.sched.credit) :
    Frugal s t := ⟨congrArg Settings.radio h, hc⟩

theorem Frugal.of_moves {s t : State} (h : Moves s t) : Frugal s t := .of_settings h.settings h.credit

/-- A run of small changes in the middle of an event raises no credit. -/
theorem Frugal.of_core {s t : State} (h : CoreMoves s t) (hs : t.settings = s.settings) : Frugal s t := by
  obtain ⟨a, b, _, _, first, run, _, _, last⟩ := h
  refine .of_settings hs ?_
  rw [last, ← first]
  exact run.credit

theorem Frugal.of_same {s t : State} (h : t.settings = s.settings) (hq : t.sched = s.sched) : Frugal s t :=
  .of_settings h (by rw [hq])

theorem Frugal.trans {s t u : State} (h : Frugal s t) (k : Frugal t u) : Frugal s u :=
  ⟨k.radio.trans h.radio, k.credit.trans h.credit⟩

/-- What keeps the radio settings and raises no credit keeps both in range. -/
theorem SettingsInRange.frugal {s t : State} (h : SettingsInRange s) (k : Frugal s t) : SettingsInRange t := by
  obtain ⟨radio, credit⟩ := k
  simp only [Settings.radio, Prod.mk.injEq] at radio
  obtain ⟨capacity, refill, wakeDur, replyWin, holdTime, floors⟩ := radio
  simp only [State.settings] at capacity refill wakeDur replyWin holdTime
  constructor
  · rw [capacity]; exact credit.trans h.credit
  · rw [capacity]; exact h.capacity
  · rw [refill]; exact h.refill
  · rw [wakeDur]; exact h.wakeDur
  · rw [replyWin]; exact h.replyWin
  · rw [holdTime]; exact h.holdTime
  · intro i
    rw [floor_of_settings floors i]
    exact h.floors i

/-! ## RADIO SET and the refill -/

/-- Every RSSI byte decodes to -140..-20 dBm (R26). -/
theorem rssiOf_range (b : Byte) : -140 ≤ rssiOf b ∧ rssiOf b ≤ -20 := by
  unfold rssiOf
  split <;> omega

/-- The values of a RADIO SET body that is taken (R53, R106, R174). -/
theorem parseRadio_range {b : List Byte} {r : RadioSettings} (h : parseRadio b = some r) :
    (1000 ≤ r.capacity ∧ r.capacity ≤ 60000) ∧ (1 ≤ r.refill ∧ r.refill ≤ 100) ∧
      (5 ≤ r.wakeDur ∧ r.wakeDur ≤ 250) ∧ (1 ≤ r.replyWin ∧ r.replyWin ≤ 50) ∧ (1 ≤ r.hold ∧ r.hold ≤ 255) := by
  unfold parseRadio at h
  split at h
  · cases h
  · rename_i inRange
    cases h
    simp only [not_or, not_not] at inRange
    obtain ⟨_, _, hold, wakeDur, replyWin, capacity, refill, _⟩ := inRange
    refine ⟨capacity, refill, wakeDur, replyWin, ?_⟩
    have nonzero : (byteAt b 1).toNat ≠ 0 := fun e => hold (BitVec.eq_of_toNat_eq e)
    have byte := (byteAt b 1).isLt
    simp only [field_one]
    omega

/-- RADIO SET's values are in range, and the credit is clamped to the new capacity. -/
theorem SettingsInRange.applyRadio {s : State} (h : SettingsInRange s) {b : List Byte} {r : RadioSettings}
    (hr : parseRadio b = some r) : SettingsInRange (s.applyRadio r) := by
  obtain ⟨capacity, refill, wakeDur, replyWin, hold⟩ := parseRadio_range hr
  refine ⟨Nat.min_le_right _ _, capacity, refill, wakeDur, replyWin, hold, fun i => ?_⟩
  have floors := h.floors i
  simp only [Fin.getElem_fin] at floors
  simp only [State.applyRadio, RadioSettings.lanes, Fin.getElem_fin, Vector.getElem_ofFn]
  split
  · exact rssiOf_range _
  · exact floors

theorem SettingsInRange.radioSet {s : State} (h : SettingsInRange s) (b : List Byte) :
    SettingsInRange (s.doRadioSet b).2.2 := by
  unfold State.doRadioSet
  split
  · exact h
  · rename_i hr
    exact (h.applyRadio hr).frugal (.of_moves (moves_offerLane _))

/-- The refill stops at the capacity (R105). -/
theorem SettingsInRange.refills {s : State} (h : SettingsInRange s) : SettingsInRange s.refills := by
  have filled : SettingsInRange { s with
      sched.credit := min (s.sched.credit + s.sched.refill) s.sched.capacity, sched.refillLeft := 1000 } :=
    ⟨Nat.min_le_right _ _, h.capacity, h.refill, h.wakeDur, h.replyWin, h.holdTime, h.floors⟩
  exact filled.frugal (.of_moves (moves_offerLane _))

theorem settingsInRange_resetEffect (s : State) : SettingsInRange s.resetEffect :=
  ⟨settingsInRange_reset.credit, settingsInRange_reset.capacity, settingsInRange_reset.refill,
    settingsInRange_reset.wakeDur, settingsInRange_reset.replyWin, settingsInRange_reset.holdTime,
    settingsInRange_reset.floors⟩

/-! ## The other commands -/

theorem credit_openedLeg (l : Byte) (s : State) : (s.openedLeg l).sched.credit ≤ s.sched.credit :=
  (moves_returnMissed l (s.openRecord l)).credit

theorem credit_legClosed (l : Byte) (f : Bool) (s : State) :
    ((s.closedLeg l f).afterClosing l).sched.credit ≤ s.sched.credit :=
  (moves_afterClosing l _).credit.trans (moves_closedLeg l f s).credit

theorem credit_closeOpenLeg (s : State) : s.closeOpenLeg.sched.credit ≤ s.sched.credit := by
  unfold State.closeOpenLeg
  split
  · exact le_rfl
  · exact credit_legClosed _ true s

theorem credit_passRoute (s : State) : s.passRoute.sched.credit ≤ s.sched.credit :=
  (moves_sealOpen { s with roster.legs := s.roster.legs.map fun k => { k with st := .passed } }).credit

theorem credit_routeClose (b : List Byte) (s : State) : (s.doRouteClose b).2.2.sched.credit ≤ s.sched.credit := by
  unfold State.doRouteClose
  split
  · exact le_rfl
  · exact calc
      _ ≤ _ := credit_passRoute _
      _ ≤ _ := (moves_endConfirmations _ _ _).credit
      _ ≤ _ := (moves_missRoute _).credit
      _ ≤ _ := credit_closeOpenLeg _
      _ ≤ s.sched.credit := (moves_forceCloseAll s).credit

theorem sched_chooseBatch (s : State) : s.chooseBatch.sched = s.sched := (chooseBatch_blocks s).2.2.1

theorem credit_startUpload (s : State) : s.startUpload.sched.credit ≤ s.sched.credit := by
  unfold State.startUpload
  rw [sched_chooseBatch]
  exact (moves_sealOpen s).credit

theorem credit_legWrite (b : List Byte) (s : State) : (s.doLegWrite b).2.2.sched.credit ≤ s.sched.credit := by
  unfold State.doLegWrite
  split
  · exact le_rfl
  · rw [foldl_updLeg]

theorem credit_legOpen (b : List Byte) (s : State) : (s.doLegOpen b).2.2.sched.credit ≤ s.sched.credit := by
  unfold State.doLegOpen
  split
  · exact le_rfl
  · split
    · exact le_rfl
    · exact (moves_afterOpening _).credit.trans (credit_openedLeg _ s)

theorem credit_legClose (b : List Byte) (s : State) : (s.doLegClose b).2.2.sched.credit ≤ s.sched.credit := by
  unfold State.doLegClose
  split
  · exact le_rfl
  · split
    · exact credit_legClosed _ false s
    · exact le_rfl

theorem credit_batchSeal (b : List Byte) (s : State) : (s.doBatchSeal b).2.2.sched.credit ≤ s.sched.credit := by
  unfold State.doBatchSeal
  split
  · exact le_rfl
  · exact (moves_sealOpen s).credit

theorem credit_uploadStart (b : List Byte) (s : State) : (s.doUploadStart b).2.2.sched.credit ≤ s.sched.credit := by
  unfold State.doUploadStart
  split
  · exact le_rfl
  · split
    · exact le_rfl
    · exact credit_startUpload s

/-- No command but RADIO SET changes the credit other than by a transmission that starts (R107): those that run
operations on meters, on legs or on the journal do so by small changes, and the rest leave the scheduler's credit. -/
theorem credit_carryOut {c : Cmd} (hc : c ≠ .radioSet) (b : List Byte) (s : State) :
    (s.carryOut c b).2.2.sched.credit ≤ s.sched.credit := by
  cases c <;> dsimp only [State.carryOut]
  case radioSet => exact absurd rfl hc
  case legWrite => exact credit_legWrite b s
  case rosterEdit => exact (moves_rosterEdit b s).credit
  case legOpen => exact credit_legOpen b s
  case legClose => exact credit_legClose b s
  case routeClose => exact credit_routeClose b s
  case batchSeal => exact credit_batchSeal b s
  case uploadStart => exact credit_uploadStart b s
  all_goals
    simp only [State.doIdentify, State.doRestart, State.doFlagsRead, State.doFlagsClear, State.doFlagsMask,
      State.doCountersRead, State.doClassWrite, State.doRosterBegin, State.doRosterLoad, State.doRosterCommit,
      State.doRosterQuery, State.doRosterDiscard, State.doMissedRead, State.doLegStatus, State.doJournalStatus,
      State.doJournalClear, State.startClear, State.nextErase, State.doBatchReceived, State.mismatched,
      State.doUploadStop]
    repeat' split
    all_goals exact le_rfl

/-- No command but RADIO SET writes a radio setting (R174). -/
theorem frugal_carryOut {c : Cmd} (hc : c ≠ .radioSet) (b : List Byte) (s : State) :
    Frugal s (s.carryOut c b).2.2 := by
  refine ⟨?_, credit_carryOut hc b s⟩
  have others := congrArg Settings.radio (others_carryOut c b s)
  cases c
  case radioSet => exact absurd rfl hc
  all_goals exact others

theorem SettingsInRange.frameArrives {s : State} (h : SettingsInRange s) (k : Byte) (b : List Byte) (g : Bool) :
    SettingsInRange (s.frameArrives k b g) := by
  have received : SettingsInRange s.received := h.frugal (.of_same rfl rfl)
  rcases frameArrives_cases k b g s with ⟨_, e⟩ | ⟨_, e⟩ | ⟨_, u, _, _, _, _, _, e, hu⟩
  · rw [e]; exact received
  · rw [e]; exact received.frugal (.of_same rfl rfl)
  · rw [e]
    suffices SettingsInRange u from this.frugal (.of_same rfl rfl)
    rcases hu with rfl | rfl | ⟨c, _, _, rfl⟩
    · exact received.frugal (.of_same rfl rfl)
    · exact received
    · rcases checkCommand_effect c b s.received with e | ⟨_, e⟩
      · rw [e]; exact received
      · rw [e]
        by_cases hc : c = .radioSet
        · subst hc; exact received.radioSet b
        · exact received.frugal (frugal_carryOut hc b _)

/-! ## The rebuild scan -/

theorem sched_offerRecord (bs : List Byte) (s : State) : (s.offerRecord bs).sched = s.sched := by
  obtain ⟨r, l, frame⟩ := offerRecord_frame bs s
  rw [frame]

theorem sched_placeEntries (ns : List Nat) (st : EntryState) (s : State) :
    (ns.foldl (fun t n => t.placeEntry n st) s).sched = s.sched := by
  induction ns generalizing s with
  | nil => rfl
  | cons n ns ih => exact (ih _).trans (placeEntry_sched n st s)

theorem sched_rebuildEnds (s : State) : s.rebuildEnds.sched = s.sched := by
  simp only [State.rebuildEnds, State.setFlag_sched, State.recount_sched, sched_placeEntries]

theorem sched_rebuildSlots (rb : Rebuild) (s : State) : (s.rebuildSlots rb).sched = s.sched := by
  unfold State.rebuildSlots
  split
  · rfl
  · unfold State.rebuildOpen
    split
    · split
      · rfl
      · exact sched_rebuildEnds s
    · exact sched_rebuildEnds s

theorem sched_rebuildBatchDone (rb : Rebuild) (last : Bool) (s : State) :
    (s.rebuildBatchDone rb last).sched = s.sched := by
  unfold State.rebuildBatchDone
  split
  · exact sched_rebuildEnds s
  · exact sched_rebuildSlots rb s

theorem sched_rebuildAt (rb : Rebuild) (a z : Nat) (last : Bool) (s : State) :
    (s.rebuildAt rb a z last).sched = s.sched := by
  unfold State.rebuildAt
  split
  · rfl
  · exact sched_rebuildBatchDone rb last s

theorem sched_rebuildReadGood (rb : Rebuild) (bs : List Byte) (s : State) :
    (s.rebuildReadGood rb bs).sched = s.sched := by
  unfold State.rebuildReadGood
  split
  · rfl
  · unfold State.rebuildSlotRead
    split
    · exact sched_rebuildSlots _ s
    · dsimp only
      split
      · exact sched_rebuildSlots _ s
      · exact sched_rebuildAt _ _ _ _ s
  · unfold State.rebuildRecordRead
    dsimp only
    split
    · rw [sched_rebuildAt, sched_offerRecord]
    · exact sched_rebuildBatchDone rb _ s.countBadRecord

theorem sched_rebuildBegins (s : State) : s.rebuildBegins.sched = s.sched := by
  unfold State.rebuildBegins
  split
  · split
    · exact sched_rebuildSlots _ s
    · rfl
  · rfl

theorem sched_rebuildReadEnded (g : Bool) (s : State) : (s.rebuildReadEnded g).sched = s.sched := by
  unfold State.rebuildReadEnded
  split
  · split
    · exact sched_rebuildReadGood _ _ s.freePort
    · rfl
  · rfl

theorem ScanGoesOn.radio {s t : State} (h : ScanGoesOn s t) : t.settings.radio = s.settings.radio := by
  rcases h with e | e <;> rw [e]
  rfl

theorem frugal_rebuildBegins (s : State) : Frugal s s.rebuildBegins := by
  refine ⟨?_, (sched_rebuildBegins s ▸ le_rfl)⟩
  rcases rebuildBegins_settings s with e | ⟨_, e⟩
  · rw [e]
  · exact e.radio

theorem frugal_rebuildReadEnded (g : Bool) (s : State) : Frugal s (s.rebuildReadEnded g) := by
  refine ⟨?_, (sched_rebuildReadEnded g s ▸ le_rfl)⟩
  cases g with
  | true =>
    rcases rebuildReadEnded_good_settings s with e | ⟨_, e⟩
    · rw [e]
    · exact e.radio
  | false =>
    rcases rebuildReadEnded_failed_settings s with e | ⟨_, e⟩
    · rw [e]
    · rw [e]; rfl

/-! ## Every row -/

theorem OpenMoves.credit {s t : State} (h : OpenMoves s t) : t.sched.credit ≤ s.sched.credit := by
  obtain h | ⟨u, k, before, _, _, after⟩ := h
  · exact h.credit
  · exact after.credit.trans before.credit

theorem frugal_laneEnds (i : Fin 4) (s : State) : Frugal s (s.laneEnds i) := by
  obtain ⟨k, hk⟩ := laneEnds_moves i s
  exact .of_settings (settings_laneEnds i s) hk.credit

theorem frugal_laneStarts (i : Fin 4) (s : State) : Frugal s (s.laneStarts i) := by
  obtain ⟨k, hk⟩ := laneStarts_intake i s
  exact .of_same (settings_laneStarts i s) (by rw [hk])

theorem frugal_laneByte (i : Fin 4) (b : Byte) (s : State) : Frugal s (s.laneByte i b) := by
  obtain ⟨k, hk⟩ := laneByte_intake i b s
  exact .of_same (settings_laneByte i b s) (by rw [hk])

theorem frugal_framingError (s : State) : Frugal s s.framingError := by
  refine .of_same (settings_framingError s) ?_
  unfold State.framingError
  split <;> rfl

theorem frugal_gapExpires (s : State) : Frugal s s.gapExpires := by
  refine .of_same (settings_gapExpires s) ?_
  unfold State.gapExpires
  split <;> rfl

theorem frugal_tailSent (s : State) : Frugal s s.tailSent := by
  refine .of_same (settings_tailSent s) ?_
  unfold State.tailSent
  split <;> rfl

theorem SettingsInRange.frameSent {s : State} (h : SettingsInRange s) (straps : BitVec 2) :
    SettingsInRange (s.frameSent straps) := by
  have freed : SettingsInRange { s with link.sending := none } := h.frugal (.of_same rfl rfl)
  unfold State.frameSent
  split
  · exact h
  · split
    · exact settingsInRange_resetEffect _
    · exact freed
  · exact freed.frugal (frugal_tailSent _)
  · exact freed
  · exact freed

theorem SettingsInRange.linkByte {s : State} (h : SettingsInRange s) (x : Byte) : SettingsInRange (s.linkByte x) := by
  rcases linkByte_cases x s with ⟨r, e⟩ | e | ⟨k, b, g, _, e⟩
  · rw [e]; exact h.frugal (.of_same rfl rfl)
  · rw [e]; exact h
  · rw [e]; exact h.frameArrives k b g

theorem SettingsInRange.act {s : State} (h : SettingsInRange s) (i : Instr) : SettingsInRange (s.act i) := by
  cases i
  case resetAssert => exact h
  case resetRelease => exact h
  case dutyRefill => exact h.refills
  case outboundFrameSent straps => exact h.frameSent straps
  case linkByteReceived x => exact h.linkByte x
  case linkFramingError => exact h.frugal (frugal_framingError s)
  case gapTimerExpiry => exact h.frugal (frugal_gapExpires s)
  case laneStart l => exact h.frugal (frugal_laneStarts l s)
  case laneByteReceived l b => exact h.frugal (frugal_laneByte l b s)
  case laneRecordTaken l => exact h.frugal (frugal_laneEnds l s)
  case rebuildScanStart => exact h.frugal (frugal_rebuildBegins s)
  case rebuildReadEnd g => exact h.frugal (frugal_rebuildReadEnded g s)
  case holdExpiry n => exact h.frugal (.of_moves (moves_closeCand n false s))
  case passTimerExpiry => exact h.frugal (.of_moves (moves_passExpires s))
  case transmitDone => exact h.frugal (.of_moves (moves_transmitDone s))
  case transmitTimeout => exact h.frugal (.of_moves (moves_transmitTimesOut s))
  case sweepWindowEnd n => exact h.frugal (.of_moves (moves_sweepWindowEnded n s))
  case confirmWindowEnd n => exact h.frugal (.of_moves (moves_confirmWindowEnded n s))
  case pageProgramEnd => exact h.frugal (.of_core (core_pageEnded s) (settings_pageEnded s))
  case indexProgramEnd => exact h.frugal (.of_core (core_indexEnded s) (settings_indexEnded s))
  case programFailure l => exact h.frugal (.of_core (core_anyProgramFailed l s) (settings_anyProgramFailed l s))
  case markProgramEnd e => exact h.frugal (.of_core (core_markEnded e s) (settings_markEnded e s))
  case sectorEraseEnd e => exact h.frugal (.of_core (core_eraseEnded e s) (settings_eraseEnded e s))
  case flashReady e => exact h.frugal (.of_core (sameCore_flashIsReady e s).core (settings_flashIsReady e s))
  case flashReadyTimeout => exact h.frugal (.of_core (sameCore_readyTimedOut s).core (settings_readyTimedOut s))
  case identificationResponse b0 b1 c =>
    exact h.frugal (.of_core (sameCore_identified c s).core (settings_identified c s))
  case identificationTimeout =>
    exact h.frugal (.of_core (sameCore_identTimedOut s).core (settings_identTimedOut s))
  case recoveryReadEnd g =>
    exact h.frugal (.of_core (sameCore_recoveryReadEnded g s).core (settings_recoveryReadEnded g s))
  case recoveryIndexProgramEnd e =>
    exact h.frugal (.of_core (sameCore_recoveryIndexEnded e s).core (settings_recoveryIndexEnded e s))
  case uploadSlotReadEnd => exact h.frugal (.of_core (core_uploadSlotEnded s) (settings_uploadSlotEnded s))
  case uploadDataReadEnd => exact h.frugal (.of_core (core_uploadDataEnded s) (settings_uploadDataEnded s))
  case uploadReadFailure => exact h.frugal (.of_core (core_uploadReadFailed s) (settings_uploadReadFailed s))
  case ackTimerExpiry => exact h.frugal (.of_core (core_ackExpired s) (settings_ackExpired s))
  all_goals exact h.frameArrives _ _ _

theorem SettingsInRange.exec {i : Instr} {s t : State} (h : SettingsInRange s) (hs : exec i s = .next t) :
    SettingsInRange t := by
  rcases exec_next hs with ⟨_, rfl⟩ | ⟨straps, _, rfl⟩ | ⟨_, rfl⟩ | ⟨_, rfl⟩
  · exact h.frugal ⟨rfl, le_rfl⟩
  · exact settingsInRange_resetEffect _
  · exact h
  · exact (h.act i).frugal (.of_same (settings_finish _) (finish_sched _))

theorem frugal_tick (s : State) : Frugal s s.tick := by
  unfold State.tick
  split <;> exact ⟨rfl, le_rfl⟩

/-- Settles O8: a millisecond keeps the ranges, and so does every row. -/
theorem settingsKept : Obligations.SettingsKept := by
  intro s t h hs
  unfold step at hs
  split at hs
  · cases hs
    exact h.frugal (frugal_tick s)
  · rename_i c rest _
    have popped : SettingsInRange { s with pending := rest } := h.frugal ⟨rfl, le_rfl⟩
    exact popped.exec hs

end Sys2Proof.Machine
end

section
/-!
PROOF. The flags and the counters (O20): the commands that clear, mask and report them.
-/

namespace Sys2Proof.Machine

/-- A set of flags reads back as it was sent (R176, R177). -/
theorem parseFlags_toLE {v : Nat} (h : v < 8192) : parseFlags (toLE 2 v) = some (BitVec.ofNat 13 v) := by
  have value : le (toLE 2 v) = v := le_toLE (by omega)
  unfold parseFlags
  rw [value, if_pos ⟨length_toLE 2 v, h⟩]

/-- The counters lane by lane and then the global ones, each spelled (R39, R180). -/
theorem counterValues_eq (s : State) :
    s.counterValues = ((List.finRange 4).flatMap fun i =>
      let c := s.intake.lanes[i].counters
      [c.taken, c.checkFail, c.belowFloor, c.foreign, c.repeated, c.stale, c.unsupported]) ++
      (let g := s.link.counters
       [g.outOfRange, g.forcedClose, g.refusal, g.noticeDropped, g.linkCheck, g.overrun, g.gapAbort,
        g.transmitTimeout, g.unknownSerial, g.badRecord]) := by
  have lanes : s.intake.lanes.toList = (List.finRange 4).map fun i => s.intake.lanes[i] := by
    refine List.ext_getElem (by simp) fun i _ _ => ?_
    simp
  simp only [State.counterValues, lanes, List.flatMap_map]
  rfl

/-- FLAGS CLEAR carries out what it names, when it names a flag (R131, R177). -/
theorem doFlagsClear_named {v : Nat} (h0 : 0 < v) (h : v < 8192) (s : State) :
    s.doFlagsClear (toLE 2 v) = (.done, [],
      { s with link.flags := s.link.flags &&& ~~~(BitVec.ofNat 13 v),
               journal.capture := if v.testBit 7 then none else s.journal.capture }) := by
  have names : BitVec.ofNat 13 v ≠ 0 := by
    intro e
    have := congrArg BitVec.toNat e
    rw [BitVec.toNat_ofNat, Nat.mod_eq_of_lt h] at this
    simp at this
    omega
  have fault : (BitVec.ofNat 13 v).getLsbD Flag.journalFault.number = v.testBit 7 := by
    rw [BitVec.getLsbD_ofNat]
    exact Bool.true_and _
  simp only [State.doFlagsClear, parseFlags_toLE h, if_neg names, fault]
  rfl

/-- FLAGS MASK sets the mask, and reports it (R176). -/
theorem doFlagsMask_mask {v : Nat} (h : v < 8192) (s : State) :
    s.doFlagsMask (toLE 2 v) = (.done, toLE 2 v, { s with link.mask := BitVec.ofNat 13 v }) := by
  have value : (BitVec.ofNat 13 v).toNat = v := by rw [BitVec.toNat_ofNat, Nat.mod_eq_of_lt h]
  simp only [State.doFlagsMask, parseFlags_toLE h, value]

/-- Settles O20: each command is carried out in every phase and during a long operation. -/
theorem flagsAndCounters : Obligations.FlagsAndCounters := by
  refine ⟨by decide, fun f s => ⟨rfl, ?_, counterValues_eq s⟩, fun s h =>
    ⟨fun v h0 hv => ?_, fun v hv => ?_, ?_, ?_⟩⟩
  · cases f <;> rfl
  · exact exec_carried (c := .flagsClear) h rfl (.inr rfl) (.inl (by decide)) (doFlagsClear_named h0 hv s.received)
  · exact exec_carried (c := .flagsMask) h rfl (.inr rfl) (.inl (by decide)) (doFlagsMask_mask hv s.received)
  · exact exec_carried (c := .countersRead) h rfl (.inr rfl) (.inl (by decide)) rfl
  · exact exec_carried (c := .countersRead) h rfl (.inr rfl) (.inl (by decide)) rfl

end Sys2Proof.Machine
end

section
/-!
PROOF. RADIO SET (O21): its body reads back as its settings, which are applied at once.
-/

namespace Sys2Proof.Machine

/-! ## The body (R174; layout 11.3) -/

/-- A RADIO SET body in range reads back as its settings (R28, R29, R53, R106, R174). -/
theorem parseRadio_bytes {m hold dw rw refill fwd : Byte} {cap : Nat} {floors : List Byte} (hm : m.toNat < 16)
    (hh : 1 ≤ hold.toNat) (hd : 5 ≤ dw.toNat ∧ dw.toNat ≤ 250) (hw : 1 ≤ rw.toNat ∧ rw.toNat ≤ 50)
    (hc : 1000 ≤ cap ∧ cap ≤ 60000) (hr : 1 ≤ refill.toNat ∧ refill.toNat ≤ 100) (hf : fwd.toNat < 2)
    (hn : floors.length = (List.range 4).countP fun i => m.getLsbD i)
    (hb : ∀ f ∈ floors, 0x74 ≤ f.toNat ∧ f.toNat ≤ 0xEC) :
    parseRadio ([m, hold, dw, rw] ++ toLE 2 cap ++ [refill, fwd] ++ floors) =
      some { mask := m.setWidth 4, hold := hold.toNat, wakeDur := dw.toNat, replyWin := rw.toNat, capacity := cap,
             refill := refill.toNat, forwarding := fwd == 1, floors := floors } := by
  have capacity : field ([m, hold, dw, rw] ++ toLE 2 cap ++ [refill, fwd] ++ floors) 4 2 = cap := by
    simp only [List.append_assoc]
    rw [field_append_right _ 2 (by simp), field_append_left _ (by simp)]
    exact field_toLE (by omega)
  have holds : hold ≠ 0 := by rintro rfl; simp at hh
  have inRange : (floors.all fun f => decide (0x74 ≤ f.toNat) && decide (f.toNat ≤ 0xEC)) = true := by
    simpa using hb
  unfold parseRadio
  rw [capacity]
  simp only [field_one]
  simp only [toLE, byteAt, List.cons_append, List.nil_append, List.getD_cons_zero, List.getD_cons_succ,
    List.drop_succ_cons, List.drop_zero, List.length_cons, inRange, lanesBelow_setWidth]
  rw [if_neg (by simp only [holds, hn, not_true_eq_false, false_or, or_false]; omega)]
  rfl

/-! ## The lanes (R28, R29) -/

/-- An enabled lane has its floor among those of the lanes enabled. -/
theorem countP_range_lt {p : Nat → Bool} {i n : Nat} (hi : i < n) (hp : p i = true) :
    (List.range i).countP p < (List.range n).countP p := by
  have upto : (List.range (i + 1)).countP p = (List.range i).countP p + 1 := by
    rw [List.range_succ, List.countP_append, List.countP_singleton, if_pos hp]
  have sub : (List.range (i + 1)).Sublist (List.range n) := List.range_sublist.mpr hi
  have := sub.countP_le (p := p)
  omega

theorem lanesBelow_setWidth_of_le (b : Byte) {n : Nat} (hn : n ≤ 4) :
    lanesBelow (b.setWidth 4) n = (List.range n).countP fun i => b.getLsbD i := by
  unfold lanesBelow
  refine List.countP_congr fun i hi => ?_
  have : i < 4 := (List.mem_range.mp hi).trans_le hn
  rw [BitVec.getLsbD_setWidth, decide_eq_true this, Bool.true_and]

theorem getLsbD_setWidth_four (b : Byte) (i : Fin 4) : (b.setWidth 4).getLsbD i.val = b.getLsbD i.val := by
  rw [BitVec.getLsbD_setWidth, decide_eq_true i.isLt, Bool.true_and]

/-- Each lane after RADIO SET (R28, R29). -/
theorem applyRadio_lane (r : RadioSettings) (s : State) (i : Fin 4) :
    (s.applyRadio r).intake.lanes[i] =
      { s.intake.lanes[i] with
        st := s.intake.lanes[i].st.masked (r.mask.getLsbD i.val),
        floor :=
          if r.mask.getLsbD i.val then rssiOf (byteAt r.floors (lanesBelow r.mask i.val))
          else s.intake.lanes[i].floor } :=
  Vector.getElem_ofFn i.isLt

theorem masked_true (st : LaneState) : st.masked true = if st = .disabled then .idle else st := by
  cases st <;> rfl

theorem masked_false (st : LaneState) : st.masked false = .disabled := rfl

/-- An RSSI byte in range is a two's complement number (R26). -/
theorem rssiOf_of_range {b : Byte} (h : 0x74 ≤ b.toNat ∧ b.toNat ≤ 0xEC) : rssiOf b = (b.toNat : Int) - 256 := if_pos h

/-- Settles O21: the body reads back, and the settings are applied lane by lane. -/
theorem radioSetApplies : Obligations.RadioSetApplies := by
  intro s m hold dw rw refill fwd cap floors h hl hm hh hd1 hd2 hw1 hw2 hc1 hc2 hr1 hr2 hf hn hb
  have body := parseRadio_bytes hm hh ⟨hd1, hd2⟩ ⟨hw1, hw2⟩ ⟨hc1, hc2⟩ ⟨hr1, hr2⟩ hf hn hb
  refine ⟨s.received.applyRadio
      ⟨m.setWidth 4, hold.toNat, dw.toNat, rw.toNat, cap, refill.toNat, fwd == 1, floors⟩,
    rfl, rfl, rfl, rfl, rfl, rfl, rfl, fun i => ?_, rfl,
    exec_carried (c := .radioSet) h rfl (.inl hl) (.inl (by decide))
      (by simp only [State.carryOut, State.doRadioSet, body])⟩
  simp only [applyRadio_lane, getLsbD_setWidth_four, lanesBelow_setWidth_of_le m i.isLt.le]
  refine ⟨rfl, fun on => ⟨?_, ?_⟩, fun off => ⟨?_, ?_⟩⟩
  · rw [on, masked_true]
    rfl
  · have place : (List.range i.val).countP (fun k => m.getLsbD k) < floors.length := by
      rw [hn]
      exact countP_range_lt i.isLt on
    have floor : byteAt floors ((List.range i.val).countP fun k => m.getLsbD k) ∈ floors := by
      rw [byteAt, List.getD_eq_getElem _ _ place]
      exact List.getElem_mem place
    rw [if_pos on, rssiOf_of_range (hb _ floor)]
  · rw [off, masked_false]
  · rw [if_neg (by simp [off])]
    rfl

end Sys2Proof.Machine
end

section
/-!
PROOF. A lane's record (O40): what a start, a byte and an end do in each lane state, and the intake tests in their order.
-/

namespace Sys2Proof.Machine

/-- An event that reaches the part while the reset input is not asserted (R141). -/
theorem event_awake {f : State → State} {s : State} (h : s.asserted = false) : event f s = .next (f s).finish := by
  rw [event, if_neg (by rw [h]; decide)]

/-! ## Starts and bytes (R25) -/

section
variable {s : State} {i : Fin 4}

theorem laneStarts_disabled (h : s.intake.lanes[i].st = .disabled) : s.laneStarts i = s := by
  rw [State.laneStarts, h]

theorem laneStarts_idle (h : s.intake.lanes[i].st = .idle) :
    s.laneStarts i = s.updLane i fun l => { l with st := .receiving .begun } := by
  rw [State.laneStarts, h]

theorem laneStarts_receiving {p : PartialRecord} (h : s.intake.lanes[i].st = .receiving p) :
    s.laneStarts i = s.updLane i fun l => { l with st := .receiving .begun, counters := l.counters.incCheck } := by
  rw [State.laneStarts, h]

theorem laneByte_receiving {p : PartialRecord} (b : Byte) (h : s.intake.lanes[i].st = .receiving p) :
    s.laneByte i b = s.updLane i fun l => { l with st := .receiving (p.push b) } := by
  rw [State.laneByte, h]

/-- A lane that is not RECEIVING takes no byte. -/
theorem laneByte_other (b : Byte) (h : ∀ p, s.intake.lanes[i].st ≠ .receiving p) : s.laneByte i b = s := by
  unfold State.laneByte
  split
  · exact absurd ‹_› (h _)
  · rfl

end

/-- The RSSI first, then the byte count, then the telegram, of which 27 bytes are kept (R25). -/
theorem push_eq (p : PartialRecord) (b : Byte) :
    p.push b =
      if p.rssi = none then { p with rssi := some b }
      else if p.count = none then { p with count := some b }
      else { p with bytes := if p.bytes.length < 27 then p.bytes ++ [b] else p.bytes,
                    delivered := min (p.delivered + 1) 255 } := by
  obtain ⟨rssi, count, bytes, n⟩ := p
  cases rssi <;> cases count <;> rfl

/-! ## The intake tests (R31 to R34) -/

/-- The length test spelled (R31). -/
theorem lengthTest_iff {p : PartialRecord} {r n : Byte} (hr : p.rssi = some r) (hn : p.count = some n) :
    lengthTest p = true ↔ p.delivered = n.toNat ∧ 15 ≤ n.toNat ∧ n.toNat ≤ 27 ∧ (byteAt p.bytes 0).toNat = n.toNat ∧
      (byteAt p.bytes 12).toNat ≤ 6 ∧ 15 + 2 * (byteAt p.bytes 12).toNat = n.toNat := by
  simp [lengthTest, hr, hn, and_assoc]

/-- A record that ended before its telegram began fails the length test. -/
theorem lengthTest_short {p : PartialRecord} (h : p.rssi = none ∨ p.count = none) : lengthTest p = false := by
  rcases h with h | h <;> simp [lengthTest, h]

theorem checkTest_iff (t : List Byte) :
    checkTest t = true ↔ (crc16 (t.take (t.length - 2))).toNat = le (t.drop (t.length - 2)) := beq_iff_eq

theorem typeTest_iff (t : List Byte) : typeTest t = true ↔ byteAt t 1 = 0x31 ∨ byteAt t 1 = 0x32 := by
  simp [typeTest]

section
variable {s : State} {i : Fin 4} {p : PartialRecord}

theorem intakeTests_check (h : ¬ (lengthTest p = true ∧ checkTest p.bytes = true)) :
    s.intakeTests i p = s.countLane i LaneCounters.incCheck := by
  unfold State.intakeTests
  cases hl : lengthTest p with
  | false => rfl
  | true =>
    have bad : checkTest p.bytes = false := by simpa [hl] using h
    rw [bad]
    rfl

theorem intakeTests_type (hl : lengthTest p = true) (hc : checkTest p.bytes = true) (ht : typeTest p.bytes = false) :
    s.intakeTests i p = s.countLane i LaneCounters.incType := by
  rw [State.intakeTests, hl, hc, ht]
  rfl

theorem intakeTests_floor (hl : lengthTest p = true) (hc : checkTest p.bytes = true) (ht : typeTest p.bytes = true)
    (hf : p.dbm < s.intake.lanes[i].floor) : s.intakeTests i p = s.countLane i LaneCounters.incFloor := by
  rw [State.intakeTests, hl, hc, ht]
  exact if_pos hf

theorem intakeTests_passed (hl : lengthTest p = true) (hc : checkTest p.bytes = true) (ht : typeTest p.bytes = true)
    (hf : s.intake.lanes[i].floor ≤ p.dbm) :
    s.intakeTests i p = s.lookupRecord (copyOf p.bytes p.dbm i s.runClock) := by
  rw [State.intakeTests, hl, hc, ht]
  exact if_neg (not_lt.mpr hf)

/-! ## The end of a record (R25, R27) -/

/-- The record of a lane is taken: the lane is IDLE again and has counted it. -/
def State.recordTaken (i : Fin 4) (s : State) : State :=
  s.updLane i fun l => { l with st := .idle, counters := l.counters.incTaken }

theorem laneEnds_receiving (h : s.intake.lanes[i].st = .receiving p) :
    s.laneEnds i = (s.recordTaken i).intakeTests i p := by
  rw [State.laneEnds, h]
  rfl

theorem laneEnds_other (h : ∀ p, s.intake.lanes[i].st ≠ .receiving p) : s.laneEnds i = s := by
  unfold State.laneEnds
  split
  · exact absurd ‹_› (h _)
  · rfl

theorem lane_updLane (f : Lane → Lane) : (s.updLane i f).intake.lanes[i] = f s.intake.lanes[i] :=
  Vector.getElem_set_self i.isLt

theorem updLane_updLane (f g : Lane → Lane) : (s.updLane i f).updLane i g = s.updLane i fun l => g (f l) := by
  have again := lane_updLane (s := s) (i := i) f
  simp only [State.updLane] at again ⊢
  rw [again, Vector.set_set]

/-- A taken record that a test drops has risen one counter more (R39). -/
theorem recordTaken_countLane (f : LaneCounters → LaneCounters) :
    (s.recordTaken i).countLane i f =
      s.updLane i fun l => { l with st := .idle, counters := f l.counters.incTaken } := updLane_updLane _ _

theorem recordTaken_floor : (s.recordTaken i).intake.lanes[i].floor = s.intake.lanes[i].floor := by
  rw [State.recordTaken, lane_updLane]

end

/-- Settles O40: a start and a byte by the lane's state, an end by the intake tests. -/
theorem laneRecordDelivered : Obligations.LaneRecordDelivered := by
  refine ⟨fun s i b ha => ?_, fun s i ha => ?_⟩
  · have start : exec (.laneStart i) s = .next (s.laneStarts i).finish := event_awake ha
    have byte : exec (.laneByteReceived i b) s = .next (s.laneByte i b).finish := event_awake ha
    dsimp only
    rw [start, byte]
    refine ⟨fun h => ?_, fun h => ?_, fun p h => ?_⟩
    · rw [laneStarts_disabled h, laneByte_other b (by rw [h]; exact nofun)]
      exact ⟨rfl, rfl⟩
    · rw [laneStarts_idle h, laneByte_other b (by rw [h]; exact nofun)]
      exact ⟨rfl, rfl⟩
    · rw [laneStarts_receiving h, laneByte_receiving b h, push_eq]
      exact ⟨rfl, rfl⟩
  · have ends : exec (.laneRecordTaken i) s = .next (s.laneEnds i).finish := event_awake ha
    dsimp only
    rw [ends]
    refine ⟨fun h => ?_, fun p h short => ?_, fun p r n t h hr hn ht => ?_⟩
    · rw [laneEnds_other h]
    · rw [laneEnds_receiving h, intakeTests_check (by simp [lengthTest_short short]), recordTaken_countLane]
      rfl
    · subst ht
      have dbm : p.dbm = if 0x74 ≤ r.toNat ∧ r.toNat ≤ 0xEC then (r.toNat : Int) - 256 else -20 := by
        rw [PartialRecord.dbm, hr]
        rfl
      rw [laneEnds_receiving h, ← lengthTest_iff hr hn, ← checkTest_iff, ← typeTest_iff, ← dbm]
      refine ⟨fun bad => ?_, fun hl hc hty => ?_, fun hl hc hty hf => ?_, fun hl hc hty hf => ?_⟩
      · rw [intakeTests_check bad, recordTaken_countLane]
        rfl
      · rw [intakeTests_type hl hc (by simpa using hty), recordTaken_countLane]
        rfl
      · rw [intakeTests_floor hl hc hty (by rwa [recordTaken_floor]), recordTaken_countLane]
        rfl
      · rw [intakeTests_passed hl hc hty (by rwa [recordTaken_floor])]
        rfl

end Sys2Proof.Machine
end

section
/-!
PROOF. The roster lookup (O42): what becomes of a record whose intake tests have passed, case by case.
-/

namespace Sys2Proof.Machine

section
variable {s : State} {c : Copy} {e : Entry} {k : Candidate}

/-! ## The lookup (R35, R36) -/

theorem lookupRecord_foreign (h : s.roster.phase ≠ .active ∨ s.entry? c.serial = none) :
    s.lookupRecord c = s.foreignRecord c := by
  unfold State.lookupRecord
  split
  · rfl
  · rename_i hp
    rw [h.resolve_left hp]

theorem lookupRecord_excluded (hp : s.roster.phase = .active) (he : s.entry? c.serial = some e)
    (hst : e.st = .excluded) : s.lookupRecord c = s.countLane c.lane LaneCounters.incForeign := by
  simp only [State.lookupRecord, hp, he, hst, ne_eq, not_true_eq_false, if_false]

theorem lookupRecord_read (hp : s.roster.phase = .active) (he : s.entry? c.serial = some e) (hst : e.st = .read) :
    s.lookupRecord c = s.countLane c.lane LaneCounters.incRepeat := by
  simp only [State.lookupRecord, hp, he, hst, ne_eq, not_true_eq_false, if_false]

/-- The record of a meter that is neither EXCLUDED nor READ reaches the pool (R45). -/
theorem lookupRecord_pool (hp : s.roster.phase = .active) (he : s.entry? c.serial = some e) (hx : e.st ≠ .excluded)
    (hr : e.st ≠ .read) : s.lookupRecord c = s.takeCopy e c := by
  rw [State.lookupRecord, if_neg (not_not.mpr hp), he]
  dsimp only
  split
  · exact absurd ‹_› hx
  · exact absurd ‹_› hr
  · rfl

/-! ## A meter with a candidate (R46, R50) -/

/-- A copy of a CLOSED candidate is dropped (R45). -/
theorem takeCopy_closed (hk : s.candOf? c.serial = some k) (h : k.evaluated.isSome = true) : s.takeCopy e c = s := by
  simp only [State.takeCopy, hk, h, if_true]

/-- A register out of range is counted, with a HOLDING candidate or with none (R46). -/
theorem takeCopy_outOfRange (hk : ∀ k, s.candOf? c.serial = some k → k.evaluated = none)
    (h : (s.classOf e).modulus ≤ c.register) : s.takeCopy e c = s.countOutOfRange := by
  unfold State.takeCopy
  split
  · exact if_pos h
  · rename_i k hc
    rw [hk k hc, if_pos h]
    rfl

theorem isStale_iff : k.isStale c = true ↔ 128 ≤ (c.seq - k.best.seq).toNat := decide_eq_true_iff

/-- A copy with its register in range in a HOLDING candidate is stale or joins it (R50). -/
theorem takeCopy_holding (hk : s.candOf? c.serial = some k) (hn : k.evaluated = none)
    (h : c.register < (s.classOf e).modulus) :
    s.takeCopy e c = if k.isStale c then s.countLane c.lane LaneCounters.incStale
      else s.updCand c.serial fun k => k.join c := by
  simp only [State.takeCopy, hk, hn, if_neg (Nat.not_le.mpr h)]
  rfl

/-! ## A meter without a candidate (R47 to R49) -/

/-- A late copy of the first reading is a repeat; any other opens a candidate (R47, R48). -/
theorem takeCopy_fresh (hk : s.candOf? c.serial = none) (h : c.register < (s.classOf e).modulus) :
    s.takeCopy e c = if e.isLateCopy c then s.countLane c.lane LaneCounters.incRepeat else s.admitCopy c := by
  simp only [State.takeCopy, hk, if_neg (Nat.not_le.mpr h)]

theorem isLateCopy_iff : e.isLateCopy c = true ↔ e.st = .verify ∧ e.lastSeq = some c.seq := by
  simp [Entry.isLateCopy]

theorem admitCopy_free (h : s.pool.cands.length < 64) : s.admitCopy c = s.openCand c := if_pos h

theorem admitCopy_forced {old : Candidate} (h : 64 ≤ s.pool.cands.length)
    (ho : s.pool.cands.find? (fun k => k.evaluated.isNone) = some old) :
    s.admitCopy c =
      if (s.countForcedClose.closeCand old.serial false).pool.cands.length < 64
      then (s.countForcedClose.closeCand old.serial false).openCand c
      else s.countForcedClose.closeCand old.serial false := by
  have oldest : s.pool.oldestHolding = some old := ho
  simp only [State.admitCopy, if_neg (Nat.not_lt.mpr h), oldest]

/-- With no slot FREE and no candidate HOLDING the copy is dropped. -/
theorem admitCopy_full (h : 64 ≤ s.pool.cands.length) (hall : ∀ k ∈ s.pool.cands, k.evaluated.isSome = true) :
    s.admitCopy c = s := by
  have oldest : s.pool.oldestHolding = none := by
    rw [Pool.oldestHolding, List.find?_eq_none]
    intro k hk
    rw [← Option.not_isSome, hall k hk]
    decide
  simp only [State.admitCopy, if_neg (Nat.not_lt.mpr h), oldest]

/-! ## The candidate that opens (R48, R112) -/

/-- A meter is heard: its transmission is marked, its window stops, and its wake request leaves the queue. -/
theorem heard_eq (n : Nat) {s u : State} (hq : u.sched = s.sched) :
    ((u.markHeard n).stopWindow n).dropRequest n =
      let w : State := { u.updEntry n (fun k => { k with window := none }) with
        sched.tx := s.sched.tx.map fun x =>
          if x.serial = n ∧ x.discarded = false then { x with heard := true } else x }
      if n ∈ s.sched.confirms ∨ n ∈ s.sched.sweeps then
        State.offerLane (State.scan { w with
          sched.confirms := s.sched.confirms.erase n, sched.sweeps := s.sched.sweeps.erase n })
      else w := by
  rw [← hq]
  rfl

/-- The candidate opens; its meter but one in VERIFY becomes HEARD, its window stops, its transmission is marked heard
and its request leaves the queue. -/
theorem openCand_eq (he : s.entry? c.serial = some e) :
    s.openCand c =
      let opened := openedCandidate c (e.st == .missed || (s.leg e.loaded.leg).st == .passed) s.pool.holdTime
      let u : State := { s with pool.cands := s.pool.cands ++ [opened] }
      let v := (if e.st = .verify then u else u.moveTo c.serial .heard).updEntry c.serial
        fun k => { k with window := none }
      let w : State := { v with
        sched.tx := s.sched.tx.map fun x =>
          if x.serial = c.serial ∧ x.discarded = false then { x with heard := true } else x }
      if c.serial ∈ s.sched.confirms ∨ c.serial ∈ s.sched.sweeps then
        State.offerLane (State.scan { w with
          sched.confirms := s.sched.confirms.erase c.serial, sched.sweeps := s.sched.sweeps.erase c.serial })
      else w := by
  simp only [State.openCand, he]
  refine heard_eq c.serial ?_
  split
  · rfl
  · exact moveTo_sched ..

end

/-- Settles O42: the lookup, then the pool by the meter's candidate and the slots. -/
theorem recordLookup : Obligations.RecordLookup := by
  intro s c
  dsimp only
  refine ⟨fun h => lookupRecord_foreign h, fun e hp he =>
    ⟨lookupRecord_excluded hp he, lookupRecord_read hp he, fun hx hr => ?_⟩⟩
  rw [lookupRecord_pool hp he hx hr]
  refine ⟨fun k hk => ⟨takeCopy_closed hk, fun hn hreg => ?_, fun hn hreg hseq => ?_, fun hn hreg hseq => ?_⟩,
    fun hk => ⟨fun hreg => ?_, fun hreg hv hseq => ?_, fun hreg hlate => ⟨fun hroom => ?_, fun hfull old ho => ?_,
      fun hfull hall => ?_⟩⟩⟩
  · exact takeCopy_outOfRange (fun x hx => by rwa [Option.some.inj (hx.symm.trans hk)]) hreg
  · rw [takeCopy_holding hk hn hreg, if_pos (isStale_iff.mpr hseq)]
    rfl
  · rw [takeCopy_holding hk hn hreg, if_neg (mt isStale_iff.mp (Nat.not_le.mpr hseq))]
  · exact takeCopy_outOfRange (fun x hx => by rw [hk] at hx; cases hx) hreg
  · rw [takeCopy_fresh hk hreg, if_pos (isLateCopy_iff.mpr ⟨hv, hseq⟩)]
    rfl
  all_goals
    have admitted : s.takeCopy e c = s.admitCopy c := by
      rw [takeCopy_fresh hk hreg, if_neg]
      exact fun late => hlate (isLateCopy_iff.mp late).1 (isLateCopy_iff.mp late).2
    rw [admitted]
  · rw [admitCopy_free hroom]
    exact openCand_eq he
  · exact admitCopy_forced hfull ho
  · exact admitCopy_full hfull hall

end Sys2Proof.Machine
end

section
/-!
PROOF. Reading the layouts of chapter 11 back: bytes and fields past other fields, bits put side by side, and the
well-formed record.
-/

namespace Sys2Proof.Machine

/-! ## Bytes and fields past others -/

@[simp] theorem byteAt_zero (b : Byte) (bs : List Byte) : byteAt (b :: bs) 0 = b := rfl

@[simp] theorem byteAt_succ (b : Byte) (bs : List Byte) (i : Nat) : byteAt (b :: bs) (i + 1) = byteAt bs i := rfl

@[simp] theorem field_succ (b : Byte) (bs : List Byte) (off n : Nat) :
    field (b :: bs) (off + 1) n = field bs off n := rfl

@[simp] theorem byteAt_past (n v : Nat) {i : Nat} (rest : List Byte) (h : n ≤ i) :
    byteAt (toLE n v ++ rest) i = byteAt rest (i - n) := by
  rw [byteAt_append_right _ (by simpa using h), length_toLE]

@[simp] theorem field_past (n v : Nat) {off m : Nat} (rest : List Byte) (h : n ≤ off) :
    field (toLE n v ++ rest) off m = field rest (off - n) m := by
  rw [field_append_right _ _ (by simpa using h), length_toLE]

@[simp] theorem field_toLE_append {n v : Nat} (h : v < 256 ^ n) (rest : List Byte) :
    field (toLE n v ++ rest) 0 n = v := by
  rw [field_append_left _ (by simp), field_toLE h]

@[simp] theorem field_toLE_self {n v : Nat} (h : v < 256 ^ n) : field (toLE n v) 0 n = v := field_toLE h

@[simp] theorem field_word (c : Word16) (rest : List Byte) : field (toLE 2 c.toNat ++ rest) 0 2 = c.toNat :=
  field_toLE_append c.isLt rest

@[simp] theorem field_word_self (c : Word16) : field (toLE 2 c.toNat) 0 2 = c.toNat := field_toLE c.isLt

@[simp] theorem length_flatMap_toLE (xs : List Nat) : (xs.flatMap (toLE 2)).length = 2 * xs.length := by
  simp [List.length_flatMap, Nat.mul_comm]

/-- Values of two bytes each stand at every second byte. -/
theorem field_flatMap_toLE {xs : List Nat} {i x : Nat} (rest : List Byte) (hi : xs[i]? = some x) (hx : x < 65536) :
    field (xs.flatMap (toLE 2) ++ rest) (2 * i) 2 = x := by
  induction xs generalizing i with
  | nil => cases hi
  | cons y ys ih =>
    rw [List.flatMap_cons, List.append_assoc]
    cases i with
    | zero =>
      cases hi
      exact field_toLE_append hx _
    | succ i =>
      rw [field_past 2 y _ (by omega), show 2 * (i + 1) - 2 = 2 * i by omega]
      exact ih hi

/-! ## Bits side by side -/

/-- The one bit of a byte that a Boolean decides. -/
@[simp] theorem getLsbD_bitAt {n : Nat} (hn : n < 8) (b : Bool) (i : Nat) :
    (bitAt n b).getLsbD i = (i == n && b) := by
  cases b with
  | false => simp [bitAt]
  | true =>
    rw [bitAt, if_pos rfl, BitVec.getLsbD_twoPow, decide_eq_true hn, Bool.true_and, Bool.and_true]
    exact decide_eq_decide.mpr eq_comm

@[simp] theorem getElem_bitAt {n : Nat} (hn : n < 8) (b : Bool) {i : Nat} (hi : i < 8) :
    (bitAt n b)[i] = (i == n && b) := by
  rw [← BitVec.getLsbD_eq_getElem hi, getLsbD_bitAt hn]

/-- The case and the attempts share a byte (R70). -/
theorem toNat_caseAttempts (k : MoveCase) {n : Nat} (hn : n < 8) :
    (k.code ||| BitVec.ofNat 8 (4 * n)).toNat = k.code.toNat + 4 * n := by
  cases k <;> interval_cases n <;> rfl

/-- An RSSI in range survives its byte (R26). -/
theorem rssiOf_rssiByte {r : Int} (h1 : -140 ≤ r) (h2 : r ≤ -20) : rssiOf (rssiByte r) = r := by
  have value : (rssiByte r).toNat = (r + 256).toNat := by
    rw [rssiByte, BitVec.toNat_ofInt]
    omega
  rw [rssiOf, value, if_pos (by omega)]
  omega

theorem toNat_ofNat_byte {n : Nat} (h : n < 256) : (BitVec.ofNat 8 n).toNat = n := by
  rw [BitVec.toNat_ofNat, Nat.mod_eq_of_lt h]

/-! ## The check byte and the CRC (R183, R184) -/

/-- The check byte of a record makes the XOR of the whole 0. -/
theorem xorAll_checked (a b : Byte) (rest : List Byte) : xorAll (a :: b :: xorAll (a :: b :: rest) :: rest) = 0 := by
  simp only [xorAll]
  rw [BitVec.xor_comm (a ^^^ (b ^^^ xorAll rest)) (xorAll rest), ← BitVec.xor_assoc b (xorAll rest),
    ← BitVec.xor_assoc a (b ^^^ xorAll rest), BitVec.xor_self]
  rfl

theorem xorAll_eq_foldl (bs : List Byte) : xorAll bs = bs.foldl (· ^^^ ·) 0 := by
  have start (x : Byte) : bs.foldl (· ^^^ ·) x = x ^^^ xorAll bs := by
    induction bs generalizing x with
    | nil => exact (BitVec.xor_zero).symm
    | cons b bs ih => rw [List.foldl_cons, ih, xorAll, BitVec.xor_assoc]
  exact ((start 0).trans BitVec.zero_xor).symm

@[simp] theorem length_sealRecord (kind : Byte) (rest : List Byte) :
    (sealRecord kind rest).length = rest.length + 3 := rfl

/-- A record sealed with a length that its kind may have is well formed (R121, R184). -/
theorem wellFormedRecord_sealRecord {kind : Byte} {rest : List Byte} (hn : rest.length + 3 < 256)
    (h : recordSize kind (BitVec.ofNat 8 (rest.length + 3)) = true) : wellFormedRecord (sealRecord kind rest) = true := by
  have len : (byteAt (sealRecord kind rest) 1).toNat = (sealRecord kind rest).length := toNat_ofNat_byte hn
  have check : xorAll (sealRecord kind rest) = 0 := xorAll_checked kind _ rest
  have size : recordSize (byteAt (sealRecord kind rest) 0) (byteAt (sealRecord kind rest) 1) = true := h
  rw [wellFormedRecord, len, List.take_length, check, size]
  simp

/-- The check value that R183 gives: the CRC-16 over "123456789". -/
theorem crc16_checkValue : crc16 [0x31, 0x32, 0x33, 0x34, 0x35, 0x36, 0x37, 0x38, 0x39] = 0x29B1 := by
  decide +kernel

theorem crcShift_eq (c : Word16) : crcShift c = if c.getLsbD 15 then (c <<< 1) ^^^ 0x1021#16 else c <<< 1 := by
  rw [crcShift, BitVec.msb_eq_getLsbD_last]

/-- A byte goes into the CRC register with eight shifts (R183). -/
theorem crcMore_cons (c : Word16) (b : Byte) (bs : List Byte) :
    crcMore c (b :: bs) = crcMore ((List.range 8).foldl
      (fun r _ => if r.getLsbD 15 then (r <<< 1) ^^^ 0x1021#16 else r <<< 1) (c ^^^ (b.setWidth 16 <<< 8))) bs := by
  simp only [← crcShift_eq]
  rfl

end Sys2Proof.Machine
end

section
/-!
PROOF. The layouts read back (O41), part by part: telegrams, journal and index records, and the part's own frames.
-/

namespace Sys2Proof.Machine

/-! ## Telegrams (R30, R37) -/

/-- The bytes of a telegram before its check. -/
def telegramBody (answer : Bool) (serial register : Nat) (status seq : Byte) (intervals : List Nat) : List Byte :=
  [BitVec.ofNat 8 (15 + 2 * intervals.length), if answer then 0x32 else 0x31] ++ toLE 4 serial ++ toLE 4 register
    ++ [status, seq, BitVec.ofNat 8 intervals.length] ++ intervals.flatMap (toLE 2)

theorem telegram_eq (answer : Bool) (serial register : Nat) (status seq : Byte) (intervals : List Nat) :
    telegram answer serial register status seq intervals =
      telegramBody answer serial register status seq intervals
        ++ toLE 2 (crc16 (telegramBody answer serial register status seq intervals)).toNat := rfl

theorem length_telegramBody (answer : Bool) (serial register : Nat) (status seq : Byte) (intervals : List Nat) :
    (telegramBody answer serial register status seq intervals).length = 13 + 2 * intervals.length := by
  simp [telegramBody]
  omega

theorem length_telegram (answer : Bool) (serial register : Nat) (status seq : Byte) (intervals : List Nat) :
    (telegram answer serial register status seq intervals).length = 15 + 2 * intervals.length := by
  rw [telegram_eq, List.length_append, length_telegramBody, length_toLE]
  omega

/-- The last two bytes of a telegram are the CRC-16 of the rest (R32). -/
theorem telegram_checked (answer : Bool) (serial register : Nat) (status seq : Byte) (intervals : List Nat) :
    let t := telegram answer serial register status seq intervals
    (crc16 (t.take (t.length - 2))).toNat = le (t.drop (t.length - 2)) := by
  dsimp only
  rw [telegram_eq, List.length_append, length_toLE, Nat.add_sub_cancel, List.take_left, List.drop_left]
  exact (le_toLE (crc16 _).isLt).symm

/-- The intervals of a telegram are those sent. -/
theorem telegram_intervals (answer : Bool) (serial register : Nat) (status seq : Byte) {intervals : List Nat}
    (hx : ∀ x ∈ intervals, x < 65536) :
    ((List.range intervals.length).map fun i =>
      field (telegram answer serial register status seq intervals) (13 + 2 * i) 2) = intervals := by
  refine List.ext_getElem (by simp) fun i _ hi => ?_
  obtain ⟨front, split, len⟩ : ∃ front : List Byte,
      telegramBody answer serial register status seq intervals = front ++ intervals.flatMap (toLE 2) ∧
        front.length = 13 := ⟨_, rfl, by simp⟩
  rw [List.getElem_map, List.getElem_range, telegram_eq, split, List.append_assoc,
    field_append_right _ 2 (by omega), show 13 + 2 * i - front.length = 2 * i by omega]
  exact field_flatMap_toLE _ (List.getElem?_eq_getElem hi) (hx _ (List.getElem_mem hi))

theorem telegram_reads (answer : Bool) {serial register : Nat} (status seq : Byte) {intervals : List Nat} (dbm : Int)
    (i : Fin 4) (stamp : BitVec 32) (hs : serial < 4294967296) (hr : register < 4294967296)
    (hn : intervals.length ≤ 6) (hx : ∀ x ∈ intervals, x < 65536) :
    copyOf (telegram answer serial register status seq intervals) dbm i stamp =
      ⟨serial, register, status, seq, answer, intervals, dbm, i, stamp⟩ := by
  have count : (byteAt (telegram answer serial register status seq intervals) 12).toNat = intervals.length := by
    simp [telegram]
    omega
  rw [copyOf, count, telegram_intervals answer serial register status seq hx]
  simp [telegram, hs, hr]
  cases answer <;> rfl

/-! ## Journal records (R70, R96, R113) -/

theorem length_readingBytes (r : ReadingRec) : r.bytes.length = 48 + 2 * r.intervals.length := by
  simp [ReadingRec.bytes]
  omega

theorem wellFormed_reading {r : ReadingRec} (h : r.intervals.length ≤ 6) : wellFormedRecord r.bytes = true := by
  have len := length_readingBytes r
  unfold ReadingRec.bytes at len ⊢
  rw [length_sealRecord] at len
  refine wellFormedRecord_sealRecord (by omega) ?_
  rw [len]
  simp [recordSize]
  omega

theorem reading_intervals (r : ReadingRec) (i x : Nat) (hi : r.intervals[i]? = some x) (hx : x < 65536) :
    field r.bytes (48 + 2 * i) 2 = x := by
  obtain ⟨front, split, len⟩ : ∃ front : List Byte,
      r.bytes = front ++ r.intervals.flatMap (toLE 2) ∧ front.length = 48 := ⟨_ :: _ :: _ :: _, rfl, by simp⟩
  rw [split, field_append_right _ 2 (by omega), show 48 + 2 * i - front.length = 2 * i by omega,
    ← List.append_nil (r.intervals.flatMap (toLE 2))]
  exact field_flatMap_toLE [] hi hx

/-- The places of the fields of a READING record before its status, and of its route time (R70). -/
theorem reading_fields (r : ReadingRec) :
    (r.routeId < 4294967296 → field r.bytes 3 4 = r.routeId) ∧ (r.serial < 4294967296 → field r.bytes 7 4 = r.serial) ∧
    byteAt r.bytes 11 = r.leg ∧ byteAt r.bytes 12 = r.cls.setWidth 8 ∧
    (r.register < 4294967296 → field r.bytes 13 4 = r.register) ∧
    (r.amount < 4294967296 → field r.bytes 17 4 = r.amount) ∧
    (r.consumption < 281474976710656 → field r.bytes 21 6 = r.consumption) ∧
    (r.rate < 4294967296 → field r.bytes 27 4 = r.rate) ∧ (r.elapsed < 16777216 → field r.bytes 31 3 = r.elapsed) ∧
    (r.routeTime < 4294967296 → field r.bytes 43 4 = r.routeTime) := by
  simp +contextual [ReadingRec.bytes, sealRecord]

/-- The single bytes of a READING record from its status on (R70). -/
theorem reading_bytes (r : ReadingRec) :
    byteAt r.bytes 34 = r.status ∧ byteAt r.bytes 35 = r.conds ∧ byteAt r.bytes 36 = BitVec.ofNat 8 r.visit ∧
    byteAt r.bytes 37 = BitVec.ofNat 8 r.total ∧ byteAt r.bytes 38 = BitVec.ofNat 8 r.copies ∧
    byteAt r.bytes 39 = (r.lanes.setWidth 8 ||| bitAt 4 r.late ||| bitAt 5 r.woken ||| bitAt 6 r.suspect) ∧
    byteAt r.bytes 40 = (r.case.code ||| BitVec.ofNat 8 (4 * r.attempts)) ∧ byteAt r.bytes 41 = rssiByte r.rssi ∧
    byteAt r.bytes 42 = r.seq ∧ byteAt r.bytes 47 = BitVec.ofNat 8 r.intervals.length := by
  simp [ReadingRec.bytes, sealRecord]

theorem wellFormed_miss (r : MissRec) : wellFormedRecord r.bytes = true :=
  wellFormedRecord_sealRecord (by simp) (by simp [recordSize])

theorem wellFormed_confirm (r : ConfirmRec) : wellFormedRecord r.bytes = true :=
  wellFormedRecord_sealRecord (by simp) (by simp [recordSize])

/-! ## Index records (R122) -/

theorem parseIndex_indexBytes {number first length count : Nat} (leg attrs : Byte) (crc : Word16)
    (hn : number < 65536) (hf : first < 4294967296) (hl : length < 65536) (hc : count < 256) :
    parseIndex (indexBytes number first length count leg attrs crc) =
      some ⟨number, first, length, count, leg, attrs.getLsbD 0, attrs.getLsbD 1, crc, 0xFF⟩ := by
  have stored : crc.toNat < 65536 := crc.isLt
  obtain ⟨front, split, len⟩ : ∃ front : List Byte,
      indexBytes number first length count leg attrs crc = front ++ [xorAll front, 0xFF#8] ∧ front.length = 14 :=
    ⟨_, rfl, by simp⟩
  have check : xorAll ((indexBytes number first length count leg attrs crc).take 14) =
      byteAt (indexBytes number first length count leg attrs crc) 14 := by
    rw [split, List.take_left' len, byteAt_append_right _ (by omega), len]
    rfl
  have signature : byteAt (indexBytes number first length count leg attrs crc) 0 = 0xB7#8 := rfl
  rw [parseIndex, if_pos ⟨signature, check⟩]
  simp [indexBytes, hn, hf, hl, stored, field_one]
  omega

/-! ## Frames on the wire (10.1) -/

theorem wireBytes_eq (kind : Byte) (b : List Byte) :
    wireBytes kind b = [0xA5#8, BitVec.ofNat 8 (b.length + 1), kind] ++ b
      ++ toLE 2 (crc16 (BitVec.ofNat 8 (b.length + 1) :: kind :: b)).toNat := rfl

theorem wireBytes_crc (kind : Byte) (b : List Byte) :
    le ((wireBytes kind b).drop (b.length + 3)) = (crc16 (((wireBytes kind b).drop 1).take (b.length + 2))).toNat := by
  have covered : ((wireBytes kind b).drop 1).take (b.length + 2) = BitVec.ofNat 8 (b.length + 1) :: kind :: b :=
    List.take_left' rfl
  rw [covered, wireBytes_eq, List.drop_left' (by simp)]
  exact le_toLE (crc16 _).isLt

/-- Settles O41: the codes and checks, then each layout by its own lemmas. -/
theorem layoutsReadBack : Obligations.LayoutsReadBack := by
  refine ⟨⟨rfl, rfl, rfl, rfl, rfl, rfl, rfl, rfl, rfl, rfl, rfl, rfl, rfl, fun a i => ?attrs, fun _ => rfl⟩,
    ⟨crc16_checkValue, fun _ => rfl, fun _ => rfl, crcMore_cons, fun _ _ => rfl⟩,
    ⟨fun kind len => ?size, fun bs => ?wellFormed, xorAll_eq_foldl, fun _ => rfl⟩,
    fun answer serial register status seq intervals dbm i stamp hs hr hn hx => ?telegram,
    ⟨fun r hn => ?reading, fun r => ?miss, fun r => ?confirm,
      fun number first length count leg attrs crc hn hf hl hc => ?index⟩,
    fun kind b hb => ?wire, fun r => ?reply,
    ⟨fun r d journalled => ?readingNotice, fun n l c total i dbm o why hn => ?otherNotices, fun _ _ _ _ => rfl⟩,
    fun k n off bs crc damaged hn ho => ?upload⟩
  case attrs => simp [Attrs.byte]
  case size => simp [recordSize, and_assoc, or_assoc]
  case wellFormed => simp [wellFormedRecord, and_assoc]
  case telegram =>
    have len := length_telegram answer serial register status seq intervals
    have count : (byteAt (telegram answer serial register status seq intervals) 0).toNat =
        15 + 2 * intervals.length := toNat_ofNat_byte (by omega)
    exact ⟨telegram_reads answer status seq dbm i stamp hs hr hn hx, len, count.trans len.symm,
      telegram_checked answer serial register status seq intervals⟩
  case reading =>
    obtain ⟨routeId, serial, leg, cls, register, amount, consumption, rate, elapsed, routeTime⟩ := reading_fields r
    obtain ⟨status, conds, visit, total, copies, lanes, attempts, rssi, seq, count⟩ := reading_bytes r
    refine ⟨wellFormed_reading hn, length_readingBytes r, rfl, routeId, serial, leg, cls, register, amount, consumption,
      rate, elapsed, status, conds, fun h => ?_, fun h => ?_, fun h => ?_, fun i hi => ?_, fun h => ?_, ?_, seq,
      routeTime, ?_, reading_intervals r⟩
    · rw [visit, toNat_ofNat_byte h]
    · rw [total, toNat_ofNat_byte h]
    · rw [copies, toNat_ofNat_byte h]
    · rw [lanes]
      simp [hi]
    · rw [attempts, toNat_caseAttempts r.case h]
    · rw [rssi]
      exact rssiOf_rssiByte
    · rw [count, toNat_ofNat_byte (by omega)]
  case miss =>
    refine ⟨wellFormed_miss r, rfl, rfl, ?_, ?_, rfl, rfl, fun h => toNat_ofNat_byte h, ?_⟩
    all_goals simp +contextual [MissRec.bytes, sealRecord]
  case confirm =>
    refine ⟨wellFormed_confirm r, rfl, rfl, ?_, ?_, ?_, rfl, rfl, rfl, ?_, rssiOf_rssiByte⟩
    all_goals simp +contextual [ConfirmRec.bytes, sealRecord]
  case index => exact ⟨rfl, parseIndex_indexBytes leg attrs crc hn hf hl hc⟩
  case wire =>
    have len : (wireBytes kind b).length = b.length + 5 := by simp [wireBytes_eq]
    exact ⟨len, rfl, toNat_ofNat_byte (by omega), rfl, List.take_left' rfl, wireBytes_crc kind b⟩
  case reply => exact ⟨rfl, rfl, field_toLE_append (n := 2) (by omega) r.data, rfl, rfl⟩
  case readingNotice =>
    refine ⟨rfl, rfl, ?_, ?_, rfl, ?_, ?_, rfl, fun h => toNat_ofNat_byte h, fun h => toNat_ofNat_byte h,
      fun h => toNat_ofNat_byte h, rfl, rssiOf_rssiByte, fun h => toNat_ofNat_byte h, fun i hi => ?_⟩
    all_goals simp +contextual [OutFrame.frame, Notice.frame]
  case otherNotices =>
    exact ⟨⟨_, rfl, rfl, field_toLE_append hn _, rfl, rfl, fun h => toNat_ofNat_byte h⟩,
      ⟨_, rfl, rfl, field_toLE_append hn _, rfl, rfl⟩,
      ⟨_, rfl, rfl, field_toLE_append hn _, toNat_ofNat_byte (by omega), rssiOf_rssiByte⟩⟩
  case upload =>
    refine ⟨⟨_, rfl, rfl, ?head⟩, ⟨_, rfl, ?number, ?offset, rfl⟩, ⟨_, rfl, rfl, ?batch, ?crc, rfl⟩⟩
    case head => simp +contextual [BatchInfo.attrByte]
    case number => simp [hn]
    case offset => simp [ho]
    case batch => simp [hn]
    case crc => simp

end Sys2Proof.Machine
end

section
/-!
PROOF. The part's queues, lists and buffers within their room (O7): what each holds is one view, `State.load`; a run of
small changes keeps the room, and around such runs an event or a command adds to no load.
-/

namespace Sys2Proof.Machine

/-! ## The loads -/

/-- What the part's queues, lists and buffers hold. -/
structure Load where
  replies : List Reply
  notices : List Notice
  confirms : List Nat
  sweeps : List Nat
  serials : List Nat
  buffer : List (List Byte)
  waits : List WaitEntry

/-- The loads of a state. -/
def State.load (s : State) : Load :=
  { replies := s.link.replies, notices := s.link.notices, confirms := s.sched.confirms, sweeps := s.sched.sweeps,
    serials := s.pool.cands.map Candidate.serial, buffer := s.journal.buffer, waits := s.journal.waits }

/-- Between two states no queue, list or buffer gets fuller. -/
structure NoFuller (s t : State) : Prop where
  replies : t.link.replies.length ≤ s.link.replies.length
  notices : t.link.notices.length ≤ s.link.notices.length
  wake : t.sched.queued ≤ s.sched.queued
  serials : (t.pool.cands.map Candidate.serial).Sublist (s.pool.cands.map Candidate.serial)
  buffer : t.journal.held.length ≤ s.journal.held.length
  held : t.journal.heldRecords ≤ s.journal.heldRecords

theorem NoFuller.of_load {s t : State} (h : t.load = s.load) : NoFuller s t := by
  simp only [State.load, Load.mk.injEq] at h
  obtain ⟨replies, notices, confirms, sweeps, serials, buffer, waits⟩ := h
  constructor
  · rw [replies]
  · rw [notices]
  · rw [Sched.queued, Sched.queued, confirms, sweeps]
  · rw [serials]
  · rw [Journal.held, Journal.held, buffer]
  · rw [Journal.heldRecords, Journal.heldRecords, waits]

theorem WithinRoom.noFuller {s t : State} (h : WithinRoom s) (k : NoFuller s t) : WithinRoom t where
  replies := k.replies.trans h.replies
  notices := k.notices.trans h.notices
  wake := k.wake.trans h.wake
  slots := by
    have shorter := k.serials.length_le
    rw [List.length_map, List.length_map] at shorter
    exact shorter.trans h.slots
  oneEach := h.oneEach.sublist k.serials
  buffer := k.buffer.trans h.buffer
  held := k.held.trans h.held

theorem WithinRoom.of_load {s t : State} (h : WithinRoom s) (e : t.load = s.load) : WithinRoom t :=
  h.noFuller (.of_load e)

/-! ## Small changes -/

theorem load_moveTo (n : Nat) (st : EntryState) (s : State) : (s.moveTo n st).load = s.load := by
  simp only [State.load, moveTo_link, moveTo_sched, moveTo_pool, moveTo_journal]

/-- Every small change keeps the room. -/
theorem Micro.withinRoom {s t : State} (h : Micro s t) (hs : WithinRoom s) : WithinRoom t := by
  cases h with
  | link l bare notices _ =>
    have sameReplies := congrArg Link.replies bare
    have replies : l.replies = s.link.replies := sameReplies
    exact { hs with replies := replies ▸ hs.replies, notices := notices hs.notices }
  | entry => exact hs.of_load rfl
  | move n st => exact hs.of_load (load_moveTo n st s)
  | sched q _ _ wake => exact { hs with wake := wake hs.wake }
  | journal j _ buffer held => exact { hs with buffer := buffer hs.buffer, held := held hs.held }
  | pool p sub => exact hs.noFuller ⟨le_rfl, le_rfl, le_rfl, sub, le_rfl, le_rfl⟩
  | intake => exact hs.of_load rfl

theorem Moves.withinRoom {s t : State} (h : Moves s t) (hs : WithinRoom s) : WithinRoom t :=
  Moves.keeps (fun _ _ h hs => h.withinRoom hs) h hs

/-- A candidate opens only where a slot is FREE, for a meter that has none (R42, R48). -/
theorem WithinRoom.openSlot {s : State} (h : WithinRoom s) {k : Candidate} (room : s.pool.cands.length < 64)
    (fresh : k.serial ∉ s.pool.cands.map Candidate.serial) :
    WithinRoom { s with pool.cands := s.pool.cands ++ [k] } where
  replies := h.replies
  notices := h.notices
  wake := h.wake
  slots := by rw [List.length_append, List.length_singleton]; omega
  oneEach := by
    rw [List.map_append, List.map_singleton]
    rw [← List.concat_eq_append]
    exact h.oneEach.concat fresh
  buffer := h.buffer
  held := h.held

theorem OpenMoves.withinRoom {s t : State} (h : OpenMoves s t) (hs : WithinRoom s) : WithinRoom t := by
  obtain h | ⟨u, k, before, room, fresh, after⟩ := h
  · exact h.withinRoom hs
  · exact after.withinRoom ((before.withinRoom hs).openSlot room fresh)

/-! ## The end of a step, a millisecond and a reset -/

theorem load_requestPage (s : State) : s.requestPage.load = s.load := by
  unfold State.requestPage
  split <;> rfl

theorem load_requestIndex (s : State) : s.requestIndex.load = s.load := by
  unfold State.requestIndex
  split
  · rfl
  · split <;> rfl

theorem load_issue (s : State) : s.issue.load = s.load := by
  unfold State.issue
  split
  · rfl
  · split <;> rfl

theorem load_afterUploadTaken (f : UploadFrame) (s : State) : (s.afterUploadTaken f).load = s.load := by
  unfold State.afterUploadTaken State.buildTail State.requestData
  split
  · rfl
  · split
    · rfl
    · split
      · split <;> rfl
      · split <;> rfl

/-- The arbiter takes a frame out of one queue at most (R179). -/
theorem noFuller_arbitrate (s : State) : NoFuller s s.arbitrate := by
  unfold State.arbitrate
  split
  · exact .of_load rfl
  · split
    · rename_i r rs replies
      exact ⟨by simp [replies], le_rfl, le_rfl, .refl _, le_rfl, le_rfl⟩
    · split
      · exact .of_load (load_afterUploadTaken _ _)
      · split
        · rename_i n ns notices
          exact ⟨le_rfl, by simp [notices], le_rfl, .refl _, le_rfl, le_rfl⟩
        · exact .of_load rfl

theorem WithinRoom.finish {s : State} (h : WithinRoom s) : WithinRoom s.finish := by
  have rest : s.finish.load = s.arbitrate.load :=
    (load_issue _).trans ((load_requestIndex _).trans (load_requestPage _))
  exact (h.noFuller (noFuller_arbitrate s)).of_load rest

theorem load_tick (s : State) : s.tick.load = s.load := by
  unfold State.tick
  split
  · rfl
  · simp only [State.load, List.map_map]
    rfl

theorem withinRoom_resetEffect (s : State) : WithinRoom s.resetEffect := withinRoom_reset.of_load rfl

/-! ## The upload engine -/

theorem load_chooseBatch (s : State) : s.chooseBatch.load = s.load := by
  unfold State.chooseBatch
  split
  · rfl
  · split
    · rfl
    · split <;> rfl

theorem load_sealsChanged (s : State) : s.sealsChanged.load = s.load := by
  unfold State.sealsChanged
  split
  · exact load_chooseBatch s
  · rfl

theorem load_uploadSlotEnded (s : State) : s.uploadSlotEnded.load = s.load := by
  unfold State.uploadSlotEnded
  split
  · split
    · unfold State.slotRead
      split <;> rfl
    · rfl
  · rfl

theorem load_uploadDataEnded (s : State) : s.uploadDataEnded.load = s.load := by
  unfold State.uploadDataEnded
  split
  · split
    · unfold State.dataRead
      split <;> rfl
    · rfl
  · rfl

theorem load_uploadReadFailed (s : State) : s.uploadReadFailed.load = s.load := by
  unfold State.uploadReadFailed
  split
  · split <;> rfl
  · split <;> rfl
  · rfl

theorem load_ackExpired (s : State) : s.ackExpired.load = s.load := by
  unfold State.ackExpired
  split <;> rfl

theorem load_tailSent (s : State) : s.tailSent.load = s.load := by
  unfold State.tailSent
  split <;> rfl

/-! ## The flash port -/

/-- Programmed bytes leave the buffer (R126). -/
theorem length_dropHeld (n : Nat) (b : List (List Byte)) : (dropHeld n b).flatten.length ≤ b.flatten.length := by
  induction b generalizing n with
  | nil => exact le_rfl
  | cons r rs ih =>
    unfold dropHeld
    split
    · exact le_rfl
    · split
      · have shorter := ih (n - r.length)
        simp only [List.flatten_cons, List.length_append]
        omega
      · simp only [List.flatten_cons, List.length_append, List.length_drop]
        omega

theorem WithinRoom.pageEnded {s : State} (h : WithinRoom s) : WithinRoom s.pageEnded := by
  unfold State.pageEnded
  split
  · refine (moves_retry _).withinRoom (h.noFuller ?_)
    exact ⟨le_rfl, le_rfl, le_rfl, .refl _, length_dropHeld _ _, le_rfl⟩
  · exact h

theorem load_indexEnded (s : State) : s.indexEnded.load = s.load := by
  unfold State.indexEnded
  split
  · unfold State.batchJoins
    split
    · rfl
    · exact (load_sealsChanged _).trans rfl
  · rfl

/-- A fault empties the buffer and reports what waits (R130). -/
theorem WithinRoom.journalFault {s : State} (h : WithinRoom s) (off : Nat) (b : Bool) :
    WithinRoom (s.journalFault off b) := by
  unfold State.journalFault
  dsimp only
  split
  · refine WithinRoom.of_load ((moves_retry _).withinRoom (h.noFuller ?_)) (load_sealsChanged _)
    exact ⟨le_rfl, le_rfl, le_rfl, .refl _, Nat.zero_le _, le_rfl⟩
  · exact h.of_load rfl

theorem WithinRoom.markFailed {s : State} (h : WithinRoom s) (n : Nat) : WithinRoom (s.markFailed n) := by
  unfold State.markFailed
  dsimp only
  split
  · exact (h.journalFault _ _).of_load rfl
  · exact h.journalFault _ _

theorem load_markGood (n : Nat) (s : State) : (s.markGood n).load = s.load := by
  unfold State.markGood
  dsimp only
  split
  · exact (load_chooseBatch _).trans rfl
  · rfl

theorem WithinRoom.endOp {s : State} (h : WithinRoom s) (r : FlashReq) (e : FlashEnd) : WithinRoom (s.endOp r e) :=
  h.of_load rfl

theorem WithinRoom.markEnded {s : State} (h : WithinRoom s) (e : FlashEnd) : WithinRoom (s.markEnded e) := by
  unfold State.markEnded
  split
  · split
    · exact (h.endOp _ _).of_load (load_markGood _ _)
    · exact (h.endOp _ _).markFailed _
  · exact h

theorem WithinRoom.programFailed {s : State} (h : WithinRoom s) (l : List Byte) : WithinRoom (s.programFailed l) := by
  unfold State.programFailed
  split
  · exact (h.endOp _ _).journalFault _ _
  · exact (h.endOp _ _).journalFault _ _
  · exact (h.endOp _ _).markFailed _
  · exact h

theorem load_nextErase (s : State) : s.nextErase.load = s.load := by
  unfold State.nextErase
  split <;> rfl

theorem load_eraseEnded (e : FlashEnd) (s : State) : (s.eraseEnded e).load = s.load := by
  unfold State.eraseEnded
  split
  · split
    · exact (load_nextErase _).trans rfl
    · rfl
  · rfl

/-! ## Start-up and recovery -/

theorem load_testLow (s : State) : s.testLow.load = s.load := by
  unfold State.testLow
  split <;> rfl

theorem load_recoveryEnds (r : Recovery) (st : JournalState) (o : OpResult) (s : State) :
    (s.recoveryEnds r st o).load = s.load := by
  unfold State.recoveryEnds
  refine (load_testLow _).trans ?_
  dsimp only
  split <;> rfl

theorem load_nextSeal (r : Recovery) (sp : List Span) (f : Bool) (s : State) : (s.nextSeal r sp f).load = s.load := by
  unfold State.nextSeal
  split
  · exact load_recoveryEnds ..
  · split
    · exact load_recoveryEnds ..
    · rfl

theorem load_searchPage (r : Recovery) (torn page : Nat) (recs : List (Nat × Nat)) (s : State) :
    (s.searchPage r torn page recs).load = s.load := by
  unfold State.searchPage
  split
  · rfl
  · exact load_nextSeal ..

theorem load_walkTo (r : Recovery) (p : Nat) (recs : List (Nat × Nat)) (s : State) :
    (s.walkTo r p recs).load = s.load := by
  unfold State.walkTo
  split
  · exact load_nextSeal ..
  · split
    · exact load_searchPage ..
    · rfl

theorem load_walkRead (r : Recovery) (p : Nat) (recs : List (Nat × Nat)) (b : List Byte) (s : State) :
    (s.walkRead r p recs b).load = s.load := by
  unfold State.walkRead
  split
  · split
    · exact load_nextSeal ..
    · exact load_searchPage ..
  · split
    · exact load_walkTo ..
    · exact load_searchPage ..

theorem load_nextSlot (r : Recovery) (s : State) : (s.nextSlot r).load = s.load := by
  unfold State.nextSlot
  split
  · exact load_walkTo ..
  · rfl

theorem load_slotWalked (r : Recovery) (b : List Byte) (s : State) : (s.slotWalked r b).load = s.load := by
  unfold State.slotWalked
  split
  · exact load_walkTo ..
  · split <;> exact load_nextSlot ..

theorem load_scanReadGood (r : Recovery) (b : List Byte) (s : State) : (s.scanReadGood r b).load = s.load := by
  unfold State.scanReadGood
  split
  · exact load_slotWalked ..
  · exact load_walkRead ..
  · split
    · exact load_nextSeal ..
    · exact load_searchPage ..
  · rfl

theorem load_recoveryReadEnded (g : Bool) (s : State) : (s.recoveryReadEnded g).load = s.load := by
  unfold State.recoveryReadEnded
  split
  · split
    · exact (load_scanReadGood ..).trans rfl
    · exact (load_recoveryEnds _ _ _ s.freePort).trans rfl
  · rfl

theorem load_recoveryIndexEnded (e : FlashEnd) (s : State) : (s.recoveryIndexEnded e).load = s.load := by
  unfold State.recoveryIndexEnded
  split
  · split
    · unfold State.sealProgrammed
      split
      · exact (load_nextSeal ..).trans rfl
      · rfl
    · exact (load_recoveryEnds _ _ _ (s.endOp _ _)).trans rfl
  · rfl

theorem WithinRoom.anyProgramFailed {s : State} (h : WithinRoom s) (l : List Byte) :
    WithinRoom (s.anyProgramFailed l) := by
  unfold State.anyProgramFailed
  split
  · exact h.of_load (load_recoveryIndexEnded _ s)
  · exact h.programFailed l

theorem load_flashIsReady (e : FlashEnd) (s : State) : (s.flashIsReady e).load = s.load := by
  unfold State.flashIsReady
  split <;> rfl

theorem load_readyTimedOut (s : State) : s.readyTimedOut.load = s.load := by
  unfold State.readyTimedOut
  split <;> rfl

theorem load_identified (c : Byte) (s : State) : (s.identified c).load = s.load := by
  unfold State.identified
  split
  · split <;> rfl
  · rfl

theorem load_identTimedOut (s : State) : s.identTimedOut.load = s.load := by
  unfold State.identTimedOut
  split <;> rfl

/-! ## The rebuild scan -/

theorem load_placeEntry (n : Nat) (st : EntryState) (s : State) : (s.placeEntry n st).load = s.load := by
  unfold State.placeEntry
  split <;> rfl

theorem load_applyRecord (bs : List Byte) (s : State) : (s.applyRecord bs).load = s.load := by
  cases he : s.entry? (field bs 7 4) with
  | none => rw [applyRecord_unknown he]; rfl
  | some e =>
    by_cases h52 : byteAt bs 0 = 0x52#8
    · rw [applyRecord_reading he h52, applyReading_eq bs he]; rfl
    · by_cases h4d : byteAt bs 0 = 0x4D#8
      · rw [applyRecord_miss he h4d, applyMiss_eq bs he]
        dsimp only
        split <;> split <;> rfl
      · simp only [State.applyRecord, he, Option.isNone_some, Bool.false_eq_true, if_false, h52, h4d]

theorem load_offerRecord (bs : List Byte) (s : State) : (s.offerRecord bs).load = s.load := by
  unfold State.offerRecord
  split
  · rfl
  · split
    · rfl
    · exact load_applyRecord bs s

theorem load_foldl {α : Type} (f : State → α → State) (hf : ∀ t a, (f t a).load = t.load) (as : List α) (s : State) :
    (as.foldl f s).load = s.load := by
  induction as generalizing s with
  | nil => rfl
  | cons a as ih => exact (ih _).trans (hf s a)

theorem load_recount (s : State) : s.recount.load = s.load := by
  simp only [State.load, State.recount_link, State.recount_sched, State.recount_pool, State.recount_journal]

theorem load_rebuildEnds (s : State) : s.rebuildEnds.load = s.load := by
  have opened (t : State) : (({ t with
      roster.phase := .active, roster.routeClock := 0, roster.routeMs := 0, roster.rebuild := none,
      journal.lastResult := .good } : State).setFlag .commitDone).load = t.load := rfl
  unfold State.rebuildEnds
  refine (opened _).trans ?_
  rw [load_recount, load_foldl _ fun t n => load_placeEntry n .missed t]

theorem load_rebuildSlots (rb : Rebuild) (s : State) : (s.rebuildSlots rb).load = s.load := by
  unfold State.rebuildSlots
  split
  · rfl
  · unfold State.rebuildOpen
    split
    · split
      · rfl
      · exact load_rebuildEnds s
    · exact load_rebuildEnds s

theorem load_rebuildBatchDone (rb : Rebuild) (last : Bool) (s : State) :
    (s.rebuildBatchDone rb last).load = s.load := by
  unfold State.rebuildBatchDone
  split
  · exact load_rebuildEnds s
  · exact load_rebuildSlots rb s

theorem load_rebuildAt (rb : Rebuild) (pos stop : Nat) (last : Bool) (s : State) :
    (s.rebuildAt rb pos stop last).load = s.load := by
  unfold State.rebuildAt
  split
  · rfl
  · exact load_rebuildBatchDone rb last s

theorem load_rebuildReadGood (rb : Rebuild) (bs : List Byte) (s : State) :
    (s.rebuildReadGood rb bs).load = s.load := by
  unfold State.rebuildReadGood
  split
  · rfl
  · unfold State.rebuildSlotRead
    split
    · exact load_rebuildSlots _ s
    · dsimp only
      split
      · exact load_rebuildSlots _ s
      · exact load_rebuildAt _ _ _ _ s
  · unfold State.rebuildRecordRead
    dsimp only
    split
    · exact (load_rebuildAt ..).trans (load_offerRecord _ s)
    · exact (load_rebuildBatchDone rb _ s.countBadRecord).trans rfl

theorem load_rebuildBegins (s : State) : s.rebuildBegins.load = s.load := by
  unfold State.rebuildBegins
  split
  · split
    · exact load_rebuildSlots _ s
    · rfl
  · rfl

theorem load_rebuildReadEnded (g : Bool) (s : State) : (s.rebuildReadEnded g).load = s.load := by
  unfold State.rebuildReadEnded
  split
  · split
    · exact (load_rebuildReadGood _ _ s.freePort).trans rfl
    · rfl
  · rfl

end Sys2Proof.Machine
end

section
/-!
PROOF. The commands and every row within the part's room (O7).
-/

namespace Sys2Proof.Machine

/-! ## The commands -/

/-- A record keeps its kind of owner when its CLOSED slot is given up (R57). -/
theorem isHeld_moveWait (s : State) (w : WaitEntry) : (s.moveWait w).isHeld = w.isHeld := by
  unfold State.moveWait
  split
  · split <;> rfl
  · rfl

/-- ROSTER DISCARD frees every slot and keeps the wait order's length (R57). -/
theorem noFuller_discardRoute (s : State) : NoFuller s s.discardRoute := by
  refine ⟨le_rfl, le_rfl, le_rfl, List.nil_sublist _, le_rfl, ?_⟩
  have kinds : WaitEntry.isHeld ∘ s.moveWait = WaitEntry.isHeld := funext (isHeld_moveWait s)
  have waits : s.discardRoute.journal.waits = s.journal.waits.map s.moveWait := rfl
  rw [Journal.heldRecords, Journal.heldRecords, waits, List.countP_map, kinds]

theorem WithinRoom.rosterDiscard {s : State} (h : WithinRoom s) (b : List Byte) :
    WithinRoom (s.doRosterDiscard b).2.2 := by
  unfold State.doRosterDiscard
  split
  · exact h
  · exact h.noFuller (noFuller_discardRoute s)

theorem WithinRoom.radioSet {s : State} (h : WithinRoom s) (b : List Byte) : WithinRoom (s.doRadioSet b).2.2 := by
  unfold State.doRadioSet
  split
  · exact h
  · exact (moves_offerLane _).withinRoom (h.of_load rfl)

theorem WithinRoom.legOpen {s : State} (h : WithinRoom s) (b : List Byte) : WithinRoom (s.doLegOpen b).2.2 := by
  unfold State.doLegOpen
  split
  · exact h
  · rename_i l _
    split
    · exact h
    · have opened : WithinRoom ((s.openRecord l).returnMissed l) := (moves_returnMissed l _).withinRoom (h.of_load rfl)
      exact (moves_afterOpening _).withinRoom (opened.of_load rfl)

theorem WithinRoom.legClosed {s : State} (h : WithinRoom s) (l : Byte) (forced : Bool) :
    WithinRoom ((s.closedLeg l forced).afterClosing l) :=
  (moves_afterClosing l _).withinRoom ((moves_closedLeg l forced s).withinRoom (h.of_load rfl))

theorem WithinRoom.legClose {s : State} (h : WithinRoom s) (b : List Byte) : WithinRoom (s.doLegClose b).2.2 := by
  unfold State.doLegClose
  split
  · exact h
  · split
    · exact h.legClosed _ _
    · exact h

theorem WithinRoom.closeOpenLeg {s : State} (h : WithinRoom s) : WithinRoom s.closeOpenLeg := by
  unfold State.closeOpenLeg
  split
  · exact h
  · exact h.legClosed _ _

theorem WithinRoom.passRoute {s : State} (h : WithinRoom s) : WithinRoom s.passRoute := by
  have passed : WithinRoom { s with roster.legs := s.roster.legs.map fun k => { k with st := .passed } } :=
    h.of_load rfl
  exact ((moves_sealOpen _).withinRoom passed).of_load rfl

theorem WithinRoom.routeClose {s : State} (h : WithinRoom s) (b : List Byte) : WithinRoom (s.doRouteClose b).2.2 := by
  unfold State.doRouteClose
  split
  · exact h
  · have closed := ((moves_forceCloseAll s).withinRoom h).closeOpenLeg
    exact ((moves_endConfirmations _ _ _).withinRoom ((moves_missRoute _).withinRoom closed)).passRoute

theorem WithinRoom.batchSeal {s : State} (h : WithinRoom s) (b : List Byte) : WithinRoom (s.doBatchSeal b).2.2 := by
  unfold State.doBatchSeal
  split
  · exact h
  · exact (moves_sealOpen s).withinRoom h

theorem WithinRoom.uploadStart {s : State} (h : WithinRoom s) (b : List Byte) :
    WithinRoom (s.doUploadStart b).2.2 := by
  unfold State.doUploadStart
  split
  · exact h
  · split
    · exact h
    · exact ((moves_sealOpen s).withinRoom h).of_load ((load_chooseBatch _).trans rfl)

theorem load_legWrite (b : List Byte) (s : State) : (s.doLegWrite b).2.2.load = s.load := by
  unfold State.doLegWrite
  split
  · rfl
  · rw [foldl_updLeg]; rfl

/-- Every command keeps the room: those that run operations on meters, on legs or on the journal do so by small changes,
and the rest fill no queue, list or buffer. -/
theorem WithinRoom.carryOut {s : State} (h : WithinRoom s) (c : Cmd) (b : List Byte) :
    WithinRoom (s.carryOut c b).2.2 := by
  cases c <;> dsimp only [State.carryOut]
  case radioSet => exact h.radioSet b
  case legWrite => exact h.of_load (load_legWrite b s)
  case rosterEdit => exact (moves_rosterEdit b s).withinRoom h
  case rosterDiscard => exact h.rosterDiscard b
  case legOpen => exact h.legOpen b
  case legClose => exact h.legClose b
  case routeClose => exact h.routeClose b
  case batchSeal => exact h.batchSeal b
  case uploadStart => exact h.uploadStart b
  all_goals
    refine h.of_load ?_
    simp only [State.doIdentify, State.doRestart, State.doFlagsRead, State.doFlagsClear, State.doFlagsMask,
      State.doCountersRead, State.doClassWrite, State.doRosterBegin, State.doRosterLoad, State.doRosterCommit,
      State.doRosterQuery, State.doMissedRead, State.doLegStatus, State.doJournalStatus, State.doJournalClear,
      State.startClear, State.nextErase, State.doBatchReceived, State.mismatched, State.doUploadStop]
    repeat' split
    all_goals rfl

/-! ## The link -/

/-- A reply joins a queue of fewer than 2 (R168). -/
theorem WithinRoom.pushReply {s : State} (h : WithinRoom s) (room : s.link.replies.length < 2) (k e : Byte)
    (o : ReplyCode) (d : List Byte) (r : Bool) : WithinRoom (s.pushReply k e o d r) :=
  { h with replies := by simp only [State.pushReply, List.length_append, List.length_singleton]; omega }

theorem WithinRoom.frameArrives {s : State} (h : WithinRoom s) (k : Byte) (b : List Byte) (g : Bool) :
    WithinRoom (s.frameArrives k b g) := by
  have received : WithinRoom s.received := h.of_load rfl
  rcases frameArrives_cases k b g s with ⟨_, e⟩ | ⟨_, e⟩ | ⟨room, u, _, _, _, _, _, e, hu⟩
  · rw [e]; exact received
  · rw [e]; exact received.of_load rfl
  · rw [e]
    rcases hu with rfl | rfl | ⟨c, _, _, rfl⟩
    · have counted : WithinRoom s.received.countLinkCheck := received.of_load rfl
      exact counted.pushReply room ..
    · exact received.pushReply room ..
    · refine WithinRoom.pushReply ?_ ((checkCommand_replies c b s.received).symm ▸ room) ..
      rcases checkCommand_effect c b s.received with e | ⟨_, e⟩
      · rw [e]; exact received
      · rw [e]; exact received.carryOut c b

theorem WithinRoom.linkByte {s : State} (h : WithinRoom s) (x : Byte) : WithinRoom (s.linkByte x) := by
  rcases linkByte_cases x s with ⟨r, e⟩ | e | ⟨k, b, g, _, e⟩
  · rw [e]; exact h.of_load rfl
  · rw [e]; exact h
  · rw [e]; exact h.frameArrives k b g

theorem WithinRoom.frameSent {s : State} (h : WithinRoom s) (straps : BitVec 2) : WithinRoom (s.frameSent straps) := by
  have freed : WithinRoom { s with link.sending := none } := h.of_load rfl
  unfold State.frameSent
  split
  · exact h
  · split
    · exact withinRoom_resetEffect _
    · exact freed
  · exact freed.of_load (load_tailSent _)
  · exact freed
  · exact freed

theorem load_framingError (s : State) : s.framingError.load = s.load := by
  unfold State.framingError
  split <;> rfl

theorem load_gapExpires (s : State) : s.gapExpires.load = s.load := by
  unfold State.gapExpires
  split <;> rfl

/-! ## The lanes and the scheduler -/

theorem WithinRoom.laneStarts {s : State} (h : WithinRoom s) (i : Fin 4) : WithinRoom (s.laneStarts i) := by
  obtain ⟨k, hk⟩ := laneStarts_intake i s
  rw [hk]
  exact h.of_load rfl

theorem WithinRoom.laneByte {s : State} (h : WithinRoom s) (i : Fin 4) (b : Byte) : WithinRoom (s.laneByte i b) := by
  obtain ⟨k, hk⟩ := laneByte_intake i b s
  rw [hk]
  exact h.of_load rfl

theorem WithinRoom.laneEnds {s : State} (h : WithinRoom s) (i : Fin 4) : WithinRoom (s.laneEnds i) := by
  obtain ⟨k, hk⟩ := laneEnds_moves i s
  exact hk.withinRoom (h.of_load rfl)

theorem WithinRoom.refills {s : State} (h : WithinRoom s) : WithinRoom s.refills :=
  (moves_offerLane _).withinRoom (h.of_load rfl)

/-! ## Every row -/

theorem WithinRoom.act {s : State} (h : WithinRoom s) (i : Instr) : WithinRoom (s.act i) := by
  cases i
  case resetAssert => exact h
  case resetRelease => exact h
  case outboundFrameSent straps => exact h.frameSent straps
  case linkByteReceived x => exact h.linkByte x
  case linkFramingError => exact h.of_load (load_framingError s)
  case gapTimerExpiry => exact h.of_load (load_gapExpires s)
  case laneStart l => exact h.laneStarts l
  case laneByteReceived l b => exact h.laneByte l b
  case laneRecordTaken l => exact h.laneEnds l
  case holdExpiry n => exact (moves_closeCand n false s).withinRoom h
  case passTimerExpiry => exact (moves_passExpires s).withinRoom h
  case dutyRefill => exact h.refills
  case transmitDone => exact (moves_transmitDone s).withinRoom h
  case transmitTimeout => exact (moves_transmitTimesOut s).withinRoom h
  case sweepWindowEnd n => exact (moves_sweepWindowEnded n s).withinRoom h
  case confirmWindowEnd n => exact (moves_confirmWindowEnded n s).withinRoom h
  case pageProgramEnd => exact h.pageEnded
  case indexProgramEnd => exact h.of_load (load_indexEnded s)
  case programFailure l => exact h.anyProgramFailed l
  case markProgramEnd e => exact h.markEnded e
  case sectorEraseEnd e => exact h.of_load (load_eraseEnded e s)
  case rebuildScanStart => exact h.of_load (load_rebuildBegins s)
  case rebuildReadEnd g => exact h.of_load (load_rebuildReadEnded g s)
  case flashReady e => exact h.of_load (load_flashIsReady e s)
  case flashReadyTimeout => exact h.of_load (load_readyTimedOut s)
  case identificationResponse b0 b1 c => exact h.of_load (load_identified c s)
  case identificationTimeout => exact h.of_load (load_identTimedOut s)
  case recoveryReadEnd g => exact h.of_load (load_recoveryReadEnded g s)
  case recoveryIndexProgramEnd e => exact h.of_load (load_recoveryIndexEnded e s)
  case uploadSlotReadEnd => exact h.of_load (load_uploadSlotEnded s)
  case uploadDataReadEnd => exact h.of_load (load_uploadDataEnded s)
  case uploadReadFailure => exact h.of_load (load_uploadReadFailed s)
  case ackTimerExpiry => exact h.of_load (load_ackExpired s)
  all_goals exact h.frameArrives _ _ _

theorem WithinRoom.exec {i : Instr} {s t : State} (h : WithinRoom s) (hs : exec i s = .next t) : WithinRoom t := by
  rcases exec_next hs with ⟨_, rfl⟩ | ⟨straps, _, rfl⟩ | ⟨_, rfl⟩ | ⟨_, rfl⟩
  · exact h.of_load rfl
  · exact withinRoom_resetEffect _
  · exact h
  · exact (h.act i).finish

/-- Settles O7: a millisecond fills nothing, and every row keeps the room. -/
theorem roomKept : Obligations.RoomKept := by
  intro s t h hs
  unfold step at hs
  split at hs
  · cases hs
    exact h.of_load (load_tick s)
  · rename_i c rest _
    have popped : WithinRoom { s with pending := rest } := h.of_load rfl
    exact popped.exec hs

end Sys2Proof.Machine
end

section
/-!
PROOF. A further copy in a HOLDING candidate (O43): what `Candidate.join` makes of a copy of the same transmission and
of a later one.
-/

namespace Sys2Proof.Machine

/-- A lane's set holds that lane and no other. -/
theorem getLsbD_laneBit (l : Fin 4) (n : Nat) : (laneBit l).getLsbD n = (l.val == n) := by
  have inRange : decide (l.val < 4) = true := decide_eq_true l.isLt
  rw [laneBit, BitVec.getLsbD_twoPow, inRange, Bool.true_and]
  exact Bool.decide_congr Iff.rfl

/-- Of the same transmission the best copy changes only for a higher RSSI (R51). -/
theorem join_best_same {k : Candidate} {c : Copy} (same : c.seq = k.best.seq) :
    (k.join c).best = if k.best.rssi < c.rssi then c else k.best := by
  by_cases higher : k.best.rssi < c.rssi <;> simp [Candidate.join, same, higher]

/-- A copy of the same transmission with another register is a disagreement, counted up to 255 (R52). -/
theorem join_disagreements_same {k : Candidate} {c : Copy} (same : c.seq = k.best.seq) :
    (k.join c).disagreements =
      if c.register = k.best.register then k.disagreements else min (k.disagreements + 1) 255 := by
  by_cases agrees : c.register = k.best.register <;> simp [Candidate.join, same, agrees]

/-- A copy of a later transmission becomes the best copy (R50). -/
theorem join_best_later {k : Candidate} {c : Copy} (later : c.seq ≠ k.best.seq) : (k.join c).best = c := by
  simp [Candidate.join, later]

theorem join_disagreements_later {k : Candidate} {c : Copy} (later : c.seq ≠ k.best.seq) :
    (k.join c).disagreements = k.disagreements := by
  simp [Candidate.join, later]

theorem join_disagreements_le {k : Candidate} (c : Copy) (h : k.disagreements ≤ 255) :
    (k.join c).disagreements ≤ 255 := by
  simp only [Candidate.join]
  split
  · exact Nat.min_le_right ..
  · exact h

theorem join_lanes (k : Candidate) (c : Copy) (n : Nat) :
    (k.join c).lanes.getLsbD n = (k.lanes.getLsbD n || (c.lane.val == n)) := by
  rw [Candidate.join, BitVec.getLsbD_or, getLsbD_laneBit]

/-- Settles O43: by whether the copy is of the best copy's transmission. -/
theorem copyJoins : Obligations.CopyJoins := by
  intro k c _ atMost
  refine ⟨fun same => ?same, fun later => ⟨join_best_later later, join_disagreements_later later⟩, rfl,
    Nat.min_le_right .., join_disagreements_le c atMost, join_lanes k c, rfl, rfl, rfl, rfl, rfl, rfl⟩
  have best := join_best_same same
  refine ⟨best, ?_, ?_, join_disagreements_same same⟩
  · rw [best]; split <;> omega
  · rw [best]; split <;> omega

end Sys2Proof.Machine
end

section
/-!
PROOF. The slots and the lanes beside the meters: what moves meters, offers requests and reports outcomes leaves the
candidate pool and the intake alone.
-/

namespace Sys2Proof.Machine

/-- The candidate pool and the intake of a state. -/
def State.slots (s : State) : Pool × Intake := (s.pool, s.intake)

theorem Reports.slots {s t : State} (h : Reports s t) : t.slots = s.slots := by
  obtain ⟨_, _, rfl⟩ := h
  rfl

section
variable (s : State) (n : Nat)

theorem slots_requestNotice (x : Notice) : (s.requestNotice x).slots = s.slots := (reports_requestNotice x s).slots

theorem slots_settleTest : s.settleTest.slots = s.slots := by
  obtain ⟨_, _, _, e⟩ := settleTest_frame s
  rw [e]
  rfl

theorem slots_moveTo (st : EntryState) : (s.moveTo n st).slots = s.slots := by
  cases h : s.entry? n with
  | none => rw [moveTo_unknown st h]
  | some e => rw [moveTo_eq st h]; rfl

/-! ## The wake queue -/

theorem slots_joinSweep : (s.joinSweep n).slots = s.slots := slots_moveTo _ n .queued

theorem slots_foldl {α : Type} (f : State → α → State) (hf : ∀ t a, (f t a).slots = t.slots) (as : List α) (s : State) :
    (as.foldl f s).slots = s.slots := by
  induction as generalizing s with
  | nil => rfl
  | cons a as ih => exact (ih _).trans (hf s a)

theorem slots_scan : s.scan.slots = s.slots := slots_foldl _ (fun t n => slots_joinSweep t n) _ s

theorem slots_startTransmission (p : Purpose) : (s.startTransmission n p).slots = s.slots := by
  cases p with
  | sweep => exact slots_moveTo _ n .sending
  | confirm => rfl

theorem slots_offerLane : s.offerLane.slots = s.slots := by
  unfold State.offerLane
  split
  · rfl
  · split
    · exact (slots_scan _).trans (slots_startTransmission s _ _)
    · rfl

theorem slots_offerConfirm : (s.offerConfirm n).slots = s.slots := by
  unfold State.offerConfirm
  split
  · exact slots_offerLane _
  · split
    · rfl
    · exact (slots_offerLane _).trans (slots_moveTo _ _ _)

/-! ## Misses and confirmations -/

theorem slots_missMeter (r : MissReason) : (s.missMeter n r).slots = s.slots := by
  cases h : s.entry? n with
  | none => simp only [State.missMeter, h]
  | some e =>
    rw [missMeter_eq r h]
    exact (slots_settleTest _).trans ((reports_missTold s n e r).slots.trans (slots_moveTo s n _))

theorem slots_tamperNotice (o : TamperOutcome) (c : BitVec 8) (k : Nat) :
    (s.tamperNotice n o c k).slots = s.slots := by
  unfold State.tamperNotice
  dsimp only
  split
  · exact slots_requestNotice s _
  · exact slots_requestNotice s _

theorem slots_endConfirmation (o : TamperOutcome) (c : BitVec 8) (ref : Byte) :
    (s.endConfirmation n o c ref).slots = s.slots := by
  unfold State.endConfirmation
  split
  · rfl
  · exact (slots_settleTest _).trans ((slots_tamperNotice _ n o c _).trans (slots_moveTo _ n _))

theorem slots_endUnanswered (forced : Bool) : (s.endUnanswered n forced).slots = s.slots := by
  unfold State.endUnanswered
  split
  · rfl
  · rename_i e _
    split
    · dsimp only
      have offered := (reports_offer (.confirm (s.unansweredRecord e)) (.held (.confirm (s.unansweredRecord e)))
        (State.markHeard n (State.stopWindow n { s with sched.confirms := s.sched.confirms.erase n }))).slots
      unfold State.offerHeld
      split
      · rename_i t answer
        have kept : t.slots = s.slots := by rw [answer] at offered; exact offered
        split
        · exact (slots_endConfirmation t n _ _ _).trans kept
        · exact kept
      · rename_i t _ answer
        rw [answer] at offered
        exact (slots_endConfirmation t n _ _ _).trans offered
    · rfl

/-! ## Outcomes -/

theorem slots_enterVerify (r : ReadingRec) (d m : Nat) : (s.enterVerify n r d m).slots = s.slots :=
  (slots_requestNotice _ _).trans ((slots_requestNotice _ _).trans (slots_moveTo _ n _))

theorem slots_readingAppended (r : ReadingRec) (d : Nat) (fl : Bool) (m : Nat) :
    (s.readingAppended r d fl m).slots = s.slots := by
  unfold State.readingAppended
  dsimp only
  split
  · have entered := slots_enterVerify s r.serial r d m
    split
    · exact (slots_endUnanswered _ _ _).trans entered
    · split
      · exact (slots_offerConfirm _ _).trans entered
      · exact (slots_endUnanswered _ _ _).trans entered
  · refine (slots_settleTest _).trans ?_
    have told (t : State) : ((t.moveTo r.serial .read).requestNotice (.reading r d true)).slots = t.slots :=
      (slots_requestNotice _ _).trans (slots_moveTo _ _ _)
    split
    · exact (slots_tamperNotice _ _ _ _ _).trans (told _)
    · exact told _

theorem slots_readingRefused (r : ReadingRec) (d : Nat) : (s.readingRefused r d).slots = s.slots := by
  unfold State.readingRefused
  split
  · exact (slots_missMeter _ _ _).trans (slots_requestNotice s _)
  · exact (slots_requestNotice _ _).trans (slots_moveTo s _ _)

theorem slots_orphanOutcome (ev : Evaluated) (a : Bool) : (s.orphanOutcome ev a).slots = s.slots := by
  cases ev with
  | reading r d fl m =>
    rw [State.orphanOutcome]
    split
    · exact (slots_tamperNotice _ _ _ _ _).trans (slots_requestNotice s _)
    · exact slots_requestNotice s _
  | confirm r k => exact slots_tamperNotice s _ _ _ _

theorem slots_outcome (ev : Evaluated) (a : Bool) : (s.outcome ev a).slots = s.slots := by
  cases ev with
  | reading r d fl m =>
    rw [State.outcome]
    split
    · exact slots_orphanOutcome s _ a
    · split
      · exact slots_readingAppended s r d fl m
      · exact slots_readingRefused s r d
  | confirm r k =>
    rw [State.outcome]
    split
    · exact slots_orphanOutcome s _ a
    · rw [State.confirmOutcome]
      split
      · exact slots_endConfirmation s _ _ _ _
      · rfl

theorem pool_outcome (ev : Evaluated) (a : Bool) : (s.outcome ev a).pool = s.pool :=
  congrArg Prod.fst (slots_outcome s ev a)

theorem intake_outcome (ev : Evaluated) (a : Bool) : (s.outcome ev a).intake = s.intake :=
  congrArg Prod.snd (slots_outcome s ev a)

end

end Sys2Proof.Machine
end

section
/-!
PROOF. The close of a candidate by its hold timer (O44): the journal's answers, what each makes of the meter, and a
suspect reading's way into VERIFY and onto the wake queue.
-/

namespace Sys2Proof.Machine

/-! ## The journal's answers -/

section
variable {s : State} {r : JournalRecord} {w : WaitEntry}

/-- Behind other records, or with no room in the buffer, a candidate's record waits (R123, R124). -/
theorem offer_waits (hw : w.isHeld = false) (ho : s.journal.st = .opened)
    (busy : s.journal.waits ≠ [] ∨ s.journal.room r.bytes.length = .noBuffer) :
    s.offer r w = (.waiting, { s with journal.waits := s.journal.waits ++ [w] }) := by
  have joined : s.joinWait w = (.waiting, { s with journal.waits := s.journal.waits ++ [w] }) := by
    rw [State.joinWait, if_neg (by rw [hw]; simp)]
  rw [State.offer, if_neg (not_not.mpr ho)]
  split
  · exact joined
  · rename_i empty
    rw [busy.resolve_left empty]
    exact joined

/-- A FULL journal, and one without space, refuse a record alike: both end FULL with JOURNAL_FULL set (R123, R133). -/
theorem offer_full (h : s.journal.st = .full ∨
    s.journal.st = .opened ∧ s.journal.waits = [] ∧ s.journal.room r.bytes.length = .noSpace) :
    s.offer r w = (.refused, s.refuseForSpace) := by
  rcases h with full | ⟨ho, hw, hr⟩
  · have same : { s.journal with st := .full } = s.journal := by rw [← full]
    have refused : s.refuseForSpace = s.refuseByState := by
      rw [State.refuseByState, if_pos full]
      exact congrArg (fun j : Journal => ({ s.countRefusals 1 with journal := j } : State).setFlag .journalFull) same
    rw [State.offer, if_pos (by rw [full]; decide), refused]
  · rw [State.offer, if_neg (not_not.mpr ho), if_neg (not_not.mpr hw), hr]

theorem append_recordEnd (bs : List Byte) (s : State) :
    (s.append bs).journal.recordEnd = s.journal.recordEnd + bs.length := by
  unfold State.append State.sealFull State.sealOpen State.testLow State.joinBuffer State.setFlag
  simp only
  repeat' split
  all_goals rfl

end

/-! ## The close -/

section
variable {s : State} {n : Nat} {c : Candidate} {e : Entry} {rc : Bool}

theorem closeCand_idle (h : s.candOf? n = none ∨ ∃ c, s.candOf? n = some c ∧ c.evaluated.isSome) :
    s.closeCand n rc = s := by
  rcases h with none | ⟨c, hc, done⟩
  · simp only [State.closeCand, none]
  · unfold State.closeCand
    rw [hc]
    cases s.entry? n with
    | none => rfl
    | some e => exact if_pos done

theorem closeCand_waits (hc : s.candOf? n = some c) (hn : c.evaluated = none) (he : s.entry? n = some e) {t : State}
    (offered : s.offer (s.evaluate e c rc).record (.slot n) = (.waiting, t)) :
    s.closeCand n rc = t.updCand n fun k => { k with evaluated := some (s.evaluate e c rc), holdLeft := 0 } := by
  have holding : ¬ c.evaluated.isSome = true := by rw [hn]; decide
  simp only [State.closeCand, hc, he, if_neg holding, offered]

theorem closeCand_answered (hc : s.candOf? n = some c) (hn : c.evaluated = none) (he : s.entry? n = some e)
    {a : OfferOutcome} {t : State} (offered : s.offer (s.evaluate e c rc).record (.slot n) = (a, t))
    (answered : a ≠ .waiting) :
    s.closeCand n rc = (t.freeSlot n).outcome (s.evaluate e c rc) (a == .appended) := by
  have holding : ¬ c.evaluated.isSome = true := by rw [hn]; decide
  simp only [State.closeCand, hc, he, if_neg holding, offered]
  cases a with
  | appended => rfl
  | refused => rfl
  | waiting => exact absurd rfl answered

end

/-! ## The record of the close -/

section
variable {s t : State}

theorem Moves.leg_st (h : Moves s t) (l : Byte) : (t.leg l).st = (s.leg l).st := by
  have plain := congrArg (fun v : Vector Leg 256 => v[l.toNat].st) h.legs
  simp only [Vector.getElem_map] at plain
  exact plain

theorem Moves.legIsOpen (h : Moves s t) (l : Byte) : t.legIsOpen l = s.legIsOpen l := by
  rw [State.legIsOpen, State.legIsOpen, h.leg_st l]

/-- An unread meter's close makes a READING record of that meter, suspect only while its leg is open (R59, R84). -/
theorem evaluate_reading {e : Entry} (c : Candidate) (rc : Bool) (h : e.st ≠ .verify) :
    ∃ r d fl m, s.evaluate e c rc = .reading r d fl m ∧ r.serial = e.loaded.serial ∧ r.leg = e.loaded.leg ∧
      (r.suspect = true → s.legIsOpen r.leg = true) := by
  refine ⟨_, _, _, _, if_neg h, rfl, rfl, fun suspect => ?_⟩
  simp only [State.confirmApplies, Bool.and_eq_true] at suspect
  exact suspect.2.1.2

/-- A VERIFY meter's close makes a CONFIRM record of that meter with the best copy's status (R59, R92). -/
theorem evaluate_confirm {e : Entry} (c : Candidate) (rc : Bool) (h : e.st = .verify) :
    ∃ r k, s.evaluate e c rc = .confirm r k ∧ r.serial = e.loaded.serial ∧ r.status = c.best.status :=
  ⟨_, _, if_pos h, rfl, rfl⟩

end

/-! ## A reading that is appended -/

section
variable {s : State}

theorem reports_tamperNotice (n : Nat) (o : TamperOutcome) (c : BitVec 8) (k : Nat) (s : State) :
    Reports s (s.tamperNotice n o c k) := by
  unfold State.tamperNotice
  dsimp only
  split
  · exact (reports_requestNotice _ s).trans (.of rfl)
  · exact reports_requestNotice _ s

/-- The entry after a reading that is not suspect was appended, its state apart (R73). -/
def Entry.read (e : Entry) (r : ReadingRec) (minute : Nat) : Entry :=
  { e.takeReading r minute with refStatus := r.status }

/-- A meter that is not suspect becomes READ; beside it the open-leg record, the journal and the link may differ
(R73, R86). -/
theorem readingAppended_plain {r : ReadingRec} (d : Nat) (fl : Bool) (m : Nat) (plain : r.suspect = false) :
    ∃ (o : Option OpenLeg) (j : Journal) (l : Link), s.readingAppended r d fl m =
      { (s.updEntry r.serial fun e => e.read r m).moveTo r.serial .read with
        sched.openLeg := o, journal := j, link := l } := by
  rw [State.readingAppended, if_neg (by rw [plain]; decide)]
  change ∃ o j l, (if fl then
      (((s.updEntry r.serial fun e => e.read r m).moveTo r.serial .read).requestNotice (.reading r d true)).tamperNotice
        r.serial .flagged r.conds r.total
      else ((s.updEntry r.serial fun e => e.read r m).moveTo r.serial .read).requestNotice
        (.reading r d true)).settleTest = _
  generalize (s.updEntry r.serial fun e => e.read r m).moveTo r.serial .read = u
  have told : Reports u (if fl then (u.requestNotice (.reading r d true)).tamperNotice r.serial .flagged r.conds r.total
      else u.requestNotice (.reading r d true)) := by
    split
    · exact (reports_requestNotice _ u).trans (reports_tamperNotice _ _ _ _ _)
    · exact reports_requestNotice _ u
  obtain ⟨_, _, told⟩ := told
  rw [told]
  exact settleTest_frame _

theorem readingAppended_plain_journal {r : ReadingRec} (d : Nat) (fl : Bool) (m : Nat) (plain : r.suspect = false) :
    (s.readingAppended r d fl m).journal = s.journal := by
  rw [State.readingAppended, if_neg (by rw [plain]; decide), settleTest_journal]
  split
  · rw [tamperNotice_journal, requestNotice_journal, moveTo_journal]; rfl
  · rw [requestNotice_journal, moveTo_journal]; rfl

/-- On an open leg of an ACTIVE route a suspect reading's meter enters VERIFY and is offered to the wake queue (R87). -/
theorem readingAppended_suspect {r : ReadingRec} (d : Nat) (fl : Bool) (m : Nat) (suspect : r.suspect = true)
    (active : s.roster.phase = .active) (opened : s.legIsOpen r.leg = true) :
    s.readingAppended r d fl m = (s.enterVerify r.serial r d m).offerConfirm r.serial := by
  rw [State.readingAppended, if_pos suspect, if_neg (by rw [active]; decide), if_pos opened]

theorem enterVerify_journal (n : Nat) (r : ReadingRec) (d m : Nat) : (s.enterVerify n r d m).journal = s.journal := by
  rw [State.enterVerify, requestNotice_journal, requestNotice_journal, moveTo_journal]
  rfl

/-! ## A suspect reading's way onto the wake queue -/

/-- Every entry of a serial is in VERIFY. -/
def State.allVerify (s : State) (n : Nat) : Prop := ∀ x ∈ s.roster.entries, x.loaded.serial = n → x.st = .verify

theorem State.allVerify.updEntry {n : Nat} (h : s.allVerify n) (k : Nat) (f : Entry → Entry)
    (hf : ∀ x, (f x).loaded = x.loaded ∧ (f x).st = x.st) : (s.updEntry k f).allVerify n := by
  intro y hy hs
  obtain ⟨x, hx, rfl⟩ := List.mem_map.mp hy
  by_cases hk : x.loaded.serial = k
  · rw [if_pos hk] at hs ⊢
    rw [(hf x).2]
    exact h x hx ((hf x).1 ▸ hs)
  · rw [if_neg hk] at hs ⊢
    exact h x hx hs

theorem State.allVerify.moveTo_other {n k : Nat} (h : s.allVerify n) (hk : k ≠ n) (st : EntryState) :
    (s.moveTo k st).allVerify n := by
  cases he : s.entry? k with
  | none => rwa [moveTo_unknown st he]
  | some e =>
    rw [moveTo_eq st he]
    intro y hy hs
    obtain ⟨x, hx, rfl⟩ := List.mem_map.mp hy
    by_cases moved : x.loaded.serial = k
    · rw [if_pos moved] at hs
      exact absurd (moved.symm.trans hs) hk
    · rw [if_neg moved] at hs ⊢
      exact h x hx hs

theorem allVerify_moveTo_self {n : Nat} (s : State) : (s.moveTo n .verify).allVerify n := by
  cases he : s.entry? n with
  | none =>
    rw [moveTo_unknown _ he]
    intro x hx hs
    exact absurd (List.find?_eq_none.mp he x hx) (by simp [hs])
  | some e =>
    rw [moveTo_eq _ he]
    intro y hy hs
    obtain ⟨x, hx, rfl⟩ := List.mem_map.mp hy
    by_cases moved : x.loaded.serial = n
    · rw [if_pos moved]
    · rw [if_neg moved] at hs
      exact absurd hs moved

/-- An admission scan takes PENDING meters only (R102), so no entry of a meter in VERIFY. -/
theorem scan_entry {n : Nat} (h : s.allVerify n) : s.scan.entry? n = s.entry? n := by
  have kept (ns : List Nat) (t : State) (hn : n ∉ ns) :
      (ns.foldl (fun t k => t.joinSweep k) t).entry? n = t.entry? n := by
    induction ns generalizing t with
    | nil => rfl
    | cons k ns ih =>
      rw [List.mem_cons, not_or] at hn
      exact (ih _ hn.2).trans (entry?_moveTo_other (s := { t with sched.sweeps := t.sched.sweeps ++ [k] }) .queued hn.1)
  refine kept s.scanPick s fun picked => ?_
  unfold State.scanPick at picked
  split at picked
  · cases picked
  · rename_i o _
    obtain ⟨x, hx, eligible, hs⟩ := mem_serialsWhere.mp (List.mem_of_mem_take picked)
    simp [State.eligible, h x hx hs] at eligible

/-- With a confirm request at the head the lane's start leaves an entry in VERIFY but for its attempts (R101, R107). -/
theorem offerLane_entry {n : Nat} {x : Entry} (h : s.entry? n = some x) (all : s.allVerify n)
    (confirms : s.sched.confirms ≠ []) : ∃ a, s.offerLane.entry? n = some { x with attempts := a } := by
  obtain ⟨c, rest, hc⟩ := List.exists_cons_of_ne_nil confirms
  have head : s.sched.head = some (c, .confirm) := by rw [Sched.head, hc]
  unfold State.offerLane
  rw [head]
  dsimp only
  split
  · have scanned := scan_entry (s := s.startTransmission c .confirm)
      (all.updEntry c (fun e => { e with attempts := e.attempts + 1 }) fun _ => ⟨rfl, rfl⟩)
    rw [scanned]
    by_cases hn : n = c
    · subst hn
      exact ⟨x.attempts + 1, entry?_updEntry_self (fun e => { e with attempts := e.attempts + 1 }) (fun _ => rfl) h⟩
    · refine ⟨x.attempts, Eq.trans ?_ h⟩
      exact entry?_updEntry_other (fun e => { e with attempts := e.attempts + 1 }) (fun _ => rfl) hn
  · exact ⟨x.attempts, h⟩

/-- A confirm request offered for a meter that waits for no sweep leaves its entry but for its attempts (R103). -/
theorem offerConfirm_entry {n : Nat} {x : Entry} (h : s.entry? n = some x) (all : s.allVerify n)
    (noSweep : n ∉ s.sched.sweeps) : ∃ a, (s.offerConfirm n).entry? n = some { x with attempts := a } := by
  unfold State.offerConfirm
  split
  · exact offerLane_entry (s := { s with sched.confirms := s.sched.confirms ++ [n] }) h all (by simp)
  · split
    · exact ⟨x.attempts, h⟩
    · rename_i evicted last
      have other : n ≠ evicted := fun same => noSweep (same ▸ List.mem_of_getLast? last)
      refine offerLane_entry ((entry?_moveTo_other .pending other).trans h) ?_ ?_
      · exact State.allVerify.moveTo_other (s := { s with
          sched.sweeps := s.sched.sweeps.dropLast, sched.confirms := s.sched.confirms ++ [n] }) all other.symm .pending
      · rw [moveTo_sched]; simp

/-- The entry after a suspect reading was appended, its state apart (R87). -/
def Entry.suspected (e : Entry) (r : ReadingRec) (minute : Nat) : Entry :=
  { e.takeReading r minute with attempts := 0, confirm := some ⟨r.conds &&& recheckable, r.status⟩ }

theorem reports_enterVerify (n : Nat) (r : ReadingRec) (d m : Nat) (s : State) :
    Reports ((s.updEntry n fun e => e.suspected r m).moveTo n .verify) (s.enterVerify n r d m) :=
  (reports_requestNotice _ _).trans (reports_requestNotice _ _)

/-- The suspect reading's meter as it stands after its close: in VERIFY, its attempts aside (steps 1 to 5 of R87). -/
theorem verify_entry {n : Nat} {e : Entry} (r : ReadingRec) (d m : Nat) (h : s.entry? n = some e)
    (noSweep : n ∉ s.sched.sweeps) : ∃ a, ((s.enterVerify n r d m).offerConfirm n).entry? n =
      some { e.suspected r m with attempts := a, st := .verify } := by
  obtain ⟨j, l, entered⟩ := reports_enterVerify n r d m s
  have written := entry?_updEntry_self (fun e => e.suspected r m) (fun _ => rfl) h
  have moved : (s.enterVerify n r d m).entry? n = some { e.suspected r m with st := .verify } := by
    rw [entered]; exact entry?_moveTo_self .verify written
  have all : (s.enterVerify n r d m).allVerify n := by
    rw [entered]; exact allVerify_moveTo_self (s.updEntry n fun e => e.suspected r m)
  have sweeps : (s.enterVerify n r d m).sched = s.sched := by
    rw [entered]; exact moveTo_sched n .verify _
  exact offerConfirm_entry moved all (by rw [sweeps]; exact noSweep)

end

end Sys2Proof.Machine
end

section
/-!
PROOF. The clauses of the hold timer's expiry (O44), from the journal's answer and the record's outcome.
-/

namespace Sys2Proof.Machine

section
variable {s : State} {n : Nat} {e : Entry} {c : Candidate}

theorem exec_holdExpiry (n : Nat) (awake : s.asserted = false) :
    exec (.holdExpiry n) s = .next (s.closeCand n false).finish := event_awake awake

theorem requestNotice_refusal (x : Notice) (s : State) :
    (s.requestNotice x).link.counters.refusal = s.link.counters.refusal := by
  unfold State.requestNotice
  split <;> rfl

theorem candOf_of_filtered {t : State} (h : t.pool.cands = s.pool.cands.filter fun k => k.serial != n) :
    t.candOf? n = none := by
  rw [candOf_none, h]
  simp

/-! ## A refused reading -/

/-- A refused reading's meter of a leg that has not passed is PENDING again, and the refusal's own marks stay (R74). -/
theorem readingRefused_returns {u : State} {r : ReadingRec} (d : Nat) (h : u.entry? r.serial = some e)
    (unpassed : (u.leg r.leg).st ≠ .passed) :
    (u.readingRefused r d).entry? r.serial = some { e with st := .pending } ∧
      (u.readingRefused r d).journal = u.journal ∧
      (u.readingRefused r d).link.counters.refusal = u.link.counters.refusal := by
  rw [State.readingRefused, if_neg unpassed]
  refine ⟨?_, ?_, ?_⟩
  · refine (entry?_of_entries _ (congrArg Roster.entries (requestNotice_blocks _).1)).trans ?_
    exact entry?_moveTo_self .pending h
  · rw [requestNotice_journal, moveTo_journal]
  · rw [requestNotice_refusal, moveTo_link]

theorem closeCand_refused (hc : s.candOf? n = some c) (hn : c.evaluated = none) (he : s.entry? n = some e)
    (full : s.journal.st = .full ∨ s.journal.st = .opened ∧ s.journal.waits = [] ∧
      s.journal.room (s.evaluate e c false).record.bytes.length = .noSpace)
    (heard : e.st = .heard) (unpassed : (s.leg e.loaded.leg).st ≠ .passed) :
    let t := s.closeCand n false
    t.journal.st = .full ∧ t.entry? n = some { e with st := .pending } ∧ t.candOf? n = none ∧
      t.flag .journalFull = true ∧ t.journal.buffer = s.journal.buffer ∧
      t.link.counters.refusal = min (s.link.counters.refusal + 1) 65535 := by
  obtain ⟨r, d, fl, m, ev, serial, leg, _⟩ := evaluate_reading (s := s) c false (e := e) (by rw [heard]; decide)
  have own : r.serial = n := serial.trans (entry?_mem he).2
  subst own
  have closed := closeCand_answered hc hn he (offer_full full) (by decide)
  have known : (s.refuseForSpace.freeSlot r.serial).entry? r.serial = some e := he
  rw [ev, outcome_reading (OfferOutcome.refused == .appended) known, if_neg (by decide)] at closed
  obtain ⟨entry, journal, refusal⟩ := readingRefused_returns (u := s.refuseForSpace.freeSlot r.serial) d known
    (by rw [leg]; exact unpassed)
  have slots := slots_readingRefused (s.refuseForSpace.freeSlot r.serial) r d
  have marked : (s.refuseForSpace.freeSlot r.serial).flag .journalFull = true := flag_setFlag _ _
  intro t
  rw [← closed] at entry journal refusal slots
  refine ⟨by rw [journal]; rfl, entry, candOf_of_filtered (congrArg (fun p => p.1.cands) slots), ?_,
    by rw [journal]; rfl, refusal⟩
  rw [show t = _ from closed]
  exact (moves_readingRefused r d _).flag marked

/-! ## An appended record -/

/-- The state in which the outcome of an appended record takes effect: the record in the journal, the slot FREE. -/
def State.taken (s : State) (n : Nat) (bs : List Byte) : State := (s.append bs).freeSlot n

theorem entry?_taken (s : State) (n k : Nat) (bs : List Byte) : (s.taken n bs).entry? k = s.entry? k :=
  entry?_of_entries k (congrArg Roster.entries (append_blocks bs).1)

theorem sched_taken (s : State) (n : Nat) (bs : List Byte) : (s.taken n bs).sched = s.sched := by
  obtain ⟨_, _, e⟩ := reports_append bs s
  rw [State.taken, State.freeSlot_sched, e]

theorem slots_taken (s : State) (n : Nat) (bs : List Byte) :
    (s.taken n bs).slots = ({ s.pool with cands := s.pool.cands.filter fun k => k.serial != n }, s.intake) := by
  have appended := (reports_append bs s).slots
  simp only [State.slots, Prod.mk.injEq] at appended
  rw [← appended.1, ← appended.2]
  rfl

theorem roster_taken (s : State) (n : Nat) (bs : List Byte) : (s.taken n bs).roster = s.roster := (append_blocks bs).1

theorem closeCand_appended (hc : s.candOf? n = some c) (hn : c.evaluated = none) (he : s.entry? n = some e)
    (ho : s.journal.st = .opened) (hw : s.journal.waits = [])
    (fits : s.journal.room (s.evaluate e c false).record.bytes.length = .fits) :
    s.closeCand n false = (s.taken n (s.evaluate e c false).record.bytes).outcome (s.evaluate e c false) true :=
  closeCand_answered hc hn he (offer_appends _ ho hw fits) (by decide)

/-- An appended record's outcome adds nothing to the journal: no reading is suspect but on an open leg (R84, R87). -/
theorem outcome_appended_journal {u : State} (active : u.roster.phase = .active) {ev : Evaluated}
    (opened : ∀ r d fl m, ev = .reading r d fl m → r.suspect = true → u.legIsOpen r.leg = true) :
    (u.outcome ev true).journal = u.journal := by
  cases ev with
  | confirm r k =>
    rw [State.outcome]
    split
    · exact orphanOutcome_journal _ _
    · exact confirmOutcome_journal _ _
  | reading r d fl m =>
    rw [State.outcome]
    split
    · exact orphanOutcome_journal _ _
    · rw [if_pos rfl]
      cases suspect : r.suspect with
      | false => exact readingAppended_plain_journal d fl m suspect
      | true =>
        rw [readingAppended_suspect d fl m suspect active (opened r d fl m rfl suspect), offerConfirm_journal,
          enterVerify_journal]

theorem evaluate_reads {r : ReadingRec} {d m : Nat} {fl : Bool} (ev : s.evaluate e c false = .reading r d fl m) :
    r.serial = e.loaded.serial ∧ (r.suspect = true → s.legIsOpen r.leg = true) := by
  by_cases hv : e.st = .verify
  · obtain ⟨_, _, confirms, _⟩ := evaluate_confirm (s := s) c false hv
    rw [confirms] at ev
    cases ev
  · obtain ⟨_, _, _, _, reads, serial, _, opened⟩ := evaluate_reading (s := s) c false hv
    rw [reads] at ev
    cases ev
    exact ⟨serial, opened⟩

theorem legIsOpen_taken (s : State) (n : Nat) (bs : List Byte) (l : Byte) :
    (s.taken n bs).legIsOpen l = s.legIsOpen l := by
  rw [State.legIsOpen, State.legIsOpen, State.leg, State.leg, roster_taken]

/-- What the close of a candidate whose record is appended leaves of the pool, the journal, the lanes and the flash. -/
theorem closeCand_appended_frame (hc : s.candOf? n = some c) (hn : c.evaluated = none) (he : s.entry? n = some e)
    (active : s.roster.phase = .active) (ho : s.journal.st = .opened) (hw : s.journal.waits = [])
    (fits : s.journal.room (s.evaluate e c false).record.bytes.length = .fits) :
    let t := s.closeCand n false
    let bytes := (s.evaluate e c false).record.bytes
    t.pool.cands = s.pool.cands.filter (fun k => k.serial != n) ∧ t.journal.buffer = s.journal.buffer ++ [bytes] ∧
      t.journal.recordEnd = s.journal.recordEnd + bytes.length ∧ t.intake = s.intake ∧
      t.flash.store = s.flash.store := by
  intro t bytes
  have closed : t = (s.taken n bytes).outcome (s.evaluate e c false) true := closeCand_appended hc hn he ho hw fits
  have journal : t.journal = (s.append bytes).journal := by
    rw [closed]
    refine outcome_appended_journal (by rw [roster_taken]; exact active) fun r d fl m reads suspect => ?_
    exact (legIsOpen_taken s n bytes r.leg).trans ((evaluate_reads reads).2 suspect)
  have slots : t.slots = _ := closed ▸ (slots_outcome _ _ _).trans (slots_taken s n bytes)
  refine ⟨congrArg (fun p => p.1.cands) slots, ?_, ?_, congrArg Prod.snd slots, ?_⟩
  · rw [journal, append_buffer]
  · rw [journal, append_recordEnd]
  · rw [(moves_closeCand n false s).flash]

section
variable (u : State) {r : ReadingRec} (d : Nat) (fl : Bool) (m : Nat) (h : u.entry? r.serial = some e)
include h

/-- The meter of a reading that is not suspect, the other meters and the scheduler beside the open leg (R73, R86). -/
theorem outcome_plain (plain : r.suspect = false) :
    let t := u.outcome (.reading r d fl m) true
    t.entry? r.serial = some { e with
      st := .read, prevReg := r.register, readingMinute := some m, totalScore := r.total, lastSeq := some r.seq,
      refStatus := r.status } ∧
    (∀ k, k ≠ r.serial → t.entry? k = u.entry? k) ∧ t.sched.confirms = u.sched.confirms ∧
    t.sched.sweeps = u.sched.sweeps ∧ t.sched.tx = u.sched.tx ∧ t.sched.credit = u.sched.credit := by
  intro t
  obtain ⟨o, j, l, appended⟩ := readingAppended_plain (s := u) d fl m plain
  have ended : t = _ := (outcome_reading true h).trans ((if_pos rfl).trans appended)
  have sched := moveTo_sched r.serial .read (u.updEntry r.serial fun e => e.read r m)
  have written := entry?_updEntry_self (fun e => e.read r m) (fun _ => rfl) h
  rw [ended]
  dsimp only
  rw [sched]
  refine ⟨entry?_moveTo_self .read written, fun k hk => ?_, rfl, rfl, rfl, rfl⟩
  exact (entry?_moveTo_other .read hk).trans (entry?_updEntry_other (fun e => e.read r m) (fun _ => rfl) hk)

/-- The meter of a suspect reading of an open leg (R87). -/
theorem outcome_suspect (suspect : r.suspect = true) (active : u.roster.phase = .active)
    (opened : u.legIsOpen r.leg = true) (noSweep : r.serial ∉ u.sched.sweeps) :
    ∃ x, (u.outcome (.reading r d fl m) true).entry? r.serial = some x ∧ x.loaded = e.loaded ∧ x.st = .verify ∧
      x.confirm = some ⟨r.conds &&& 0x0B#8, r.status⟩ ∧ x.refStatus = e.refStatus ∧ x.prevReg = r.register ∧
      x.totalScore = r.total := by
  obtain ⟨a, entry⟩ := verify_entry r d m h noSweep
  rw [outcome_reading true h, if_pos rfl, readingAppended_suspect d fl m suspect active opened]
  exact ⟨_, entry, rfl, rfl, rfl, rfl, rfl, rfl⟩

end

/-- The meter of a confirmation's record, and the other meters (R93). -/
theorem outcome_confirmed (u : State) {r : ConfirmRec} (k : Nat) (h : u.entry? r.serial = some e) :
    let t := u.outcome (.confirm r k) true
    t.entry? r.serial = some { e with st := .read, refStatus := r.status, confirm := none, window := none } ∧
      (∀ k, k ≠ r.serial → t.entry? k = u.entry? k) := by
  intro t
  have ended : t = u.endConfirmation r.serial r.outcome r.conds r.status :=
    (outcome_confirm true h).trans (if_pos (.inl rfl))
  obtain ⟨_, others, own⟩ := endConfirmation_entries r.outcome r.conds r.status h
  rw [ended]
  exact ⟨own, others⟩

end

/-- Settles O44: the clauses by the journal's answer to the record of the close. -/
theorem holdExpiryCloses : Obligations.HoldExpiryCloses := by
  intro s n awake
  rw [exec_holdExpiry n awake]
  refine ⟨fun idle => by rw [closeCand_idle idle], fun c e hc hn he => ?_⟩
  intro ev bytes
  have own : e.loaded.serial = n := (entry?_mem he).2
  refine ⟨fun ho busy => ?_, fun full heard unpassed => ?_, fun active ho hw fits => ?_, fun a t offered answered => ?_⟩
  · rw [closeCand_waits hc hn he (offer_waits rfl ho busy)]
    rfl
  · have closed := closeCand_refused hc hn he full heard unpassed
    refine ⟨_, rfl, ?_⟩
    simp only [finish_journal_st, entry?_finish, flag_finish, finish_journal_buffer, finish_counters, State.candOf?,
      finish_pool]
    exact closed
  · have closed : s.closeCand n false = (s.taken n bytes).outcome ev true := closeCand_appended hc hn he ho hw fits
    have known : (s.taken n bytes).entry? n = some e := (entry?_taken s n n bytes).trans he
    have phase : (s.taken n bytes).roster.phase = .active := by rw [roster_taken]; exact active
    obtain ⟨pool, buffer, recordEnd, intake, store⟩ := closeCand_appended_frame hc hn he active ho hw fits
    refine ⟨_, rfl, candOf_of_filtered ((congrArg Pool.cands (finish_pool _)).trans pool),
      (congrArg Pool.cands (finish_pool _)).trans pool, (finish_journal_buffer _).trans buffer,
      (finish_journal_recordEnd _).trans recordEnd, (finish_intake _).trans intake, (finish_store _).trans store,
      fun r d fl m reads heard => ⟨fun plain => ?_, fun suspect noSweep => ?_⟩, fun verify => ?_⟩
    · obtain ⟨serial, _⟩ := evaluate_reads reads
      rw [← serial.trans own] at known closed ⊢
      obtain ⟨meter, others, confirms, sweeps, tx, credit⟩ := outcome_plain (s.taken r.serial bytes) d fl m known plain
      rw [← reads, ← closed] at meter others confirms sweeps tx credit
      simp only [entry?_finish, finish_sched]
      rw [sched_taken] at confirms sweeps tx credit
      exact ⟨meter, fun k hk => (others k hk).trans (entry?_taken s r.serial k bytes), confirms, sweeps, tx, credit⟩
    · obtain ⟨serial, opened⟩ := evaluate_reads reads
      rw [← serial.trans own] at known closed phase noSweep ⊢
      have meter := outcome_suspect (s.taken r.serial bytes) d fl m known suspect phase
        ((legIsOpen_taken _ _ _ r.leg).trans (opened suspect)) (by rw [sched_taken]; exact noSweep)
      rw [← reads, ← closed] at meter
      rw [entry?_finish]
      exact meter
    · obtain ⟨r, k, confirms, serial, status⟩ := evaluate_confirm (s := s) c false verify
      rw [← serial.trans own] at known closed ⊢
      obtain ⟨meter, others⟩ := outcome_confirmed (s.taken r.serial bytes) k known
      rw [← confirms, ← closed, status] at meter
      rw [← confirms, ← closed] at others
      simp only [entry?_finish]
      exact ⟨meter, fun k hk => (others k hk).trans (entry?_taken s r.serial k bytes)⟩
  · rw [closeCand_answered hc hn he offered answered]
    rfl

end Sys2Proof.Machine
end

section
/-!
PROOF. What the steps of ROUTE CLOSE leave (O35): no open leg, no PENDING or QUEUED meter, no meter in VERIFY but with
its candidate, and no HOLDING candidate of a live meter.
-/

namespace Sys2Proof.Machine

/-- Steps 1 to 4 of R116. -/
def State.routeEnded (s : State) : State :=
  ((s.forceCloseAll.closeOpenLeg).missRoute).endConfirmations (fun _ => true) true

section
variable {s t : State}

/-! ## What the steps keep -/

/-- The flash, the upload, the replies and the loaded parts of the entries. -/
def State.aside (s : State) : Flash × Upload × List Reply × List Loaded :=
  (s.flash, s.upload, s.link.replies, s.roster.entries.map Entry.loaded)

theorem Moves.aside (h : Moves s t) : t.aside = s.aside := by
  rw [State.aside, State.aside, h.flash, h.upload, h.replies, h.loaded]

theorem aside_closeOpenLeg (s : State) : s.closeOpenLeg.aside = s.aside := by
  unfold State.closeOpenLeg
  split
  · rfl
  · exact (moves_afterClosing _ _).aside.trans ((moves_closedLeg _ _ s).aside.trans rfl)

theorem aside_routeEnded (s : State) : s.routeEnded.aside = s.aside :=
  (moves_endConfirmations _ _ _).aside.trans ((moves_missRoute _).aside.trans
    ((aside_closeOpenLeg _).trans (moves_forceCloseAll s).aside))

theorem aside_passRoute (s : State) : s.passRoute.aside = s.aside :=
  (moves_sealOpen { s with roster.legs := s.roster.legs.map fun k => { k with st := .passed } }).aside

theorem RosterInv.forceCloseAll (h : RosterInv s) : RosterInv s.forceCloseAll := (moves_forceCloseAll s).rosterInv h

theorem RosterInv.missRoute (h : RosterInv s) : RosterInv s.missRoute := (moves_missRoute s).rosterInv h

theorem slots_endConfirmations (p : Entry → Bool) (forced : Bool) (s : State) :
    (s.endConfirmations p forced).slots = s.slots :=
  slots_foldl _ (fun t n => slots_endUnanswered t n forced) _ s

theorem slots_missWaiting (n : Nat) (r : MissReason) (s : State) : (s.missWaiting n r).slots = s.slots :=
  slots_missMeter { s with sched.sweeps := s.sched.sweeps.erase n } n r

theorem slots_missRoute (s : State) : s.missRoute.slots = s.slots :=
  slots_foldl _ (fun t n => slots_missWaiting n .routeClosed t) _ s

theorem slots_closeOpenLeg (s : State) : s.closeOpenLeg.slots = s.slots := by
  unfold State.closeOpenLeg
  split
  · rfl
  · rename_i o _
    have missed : ((s.passOpenLeg o.leg).missLeg o.leg).slots = s.slots :=
      slots_foldl _ (fun t n => slots_missWaiting n .legClosed t) _ (s.passOpenLeg o.leg)
    have closed := (slots_endConfirmations (fun e => e.loaded.leg == o.leg) true _).trans missed
    exact (slots_requestNotice _ _).trans ((reports_sealOpen _).slots.trans closed)

/-- After the forced closes no step touches the pool. -/
theorem pool_routeEnded (s : State) : s.routeEnded.pool = s.forceCloseAll.pool :=
  congrArg Prod.fst ((slots_endConfirmations _ _ _).trans ((slots_missRoute _).trans (slots_closeOpenLeg _)))

/-! ## No leg is open -/

theorem Reports.sched (h : Reports s t) : t.sched = s.sched := by
  obtain ⟨_, _, rfl⟩ := h
  rfl

theorem settleTest_noLeg (h : s.sched.openLeg = none) : s.settleTest = s := by
  simp only [State.settleTest, h]

/-- A miss opens no leg. -/
theorem missMeter_noLeg (n : Nat) (r : MissReason) (h : s.sched.openLeg = none) :
    (s.missMeter n r).sched.openLeg = none := by
  cases he : s.entry? n with
  | none => simpa only [State.missMeter, he] using h
  | some e =>
    have told : (s.missTold n e r).sched = s.sched := (reports_missTold s n e r).sched.trans (moveTo_sched n _ s)
    rw [missMeter_eq r he, settleTest_noLeg (by rw [told]; exact h), told]
    exact h

theorem endConfirmation_noLeg (n : Nat) (o : TamperOutcome) (c : BitVec 8) (ref : Byte) (h : s.sched.openLeg = none) :
    (s.endConfirmation n o c ref).sched.openLeg = none := by
  unfold State.endConfirmation
  split
  · exact h
  · rename_i e _
    have told := (reports_tamperNotice n o c e.totalScore ((s.updEntry n fun e =>
      { e with refStatus := ref, confirm := none, window := none }).moveTo n .read)).sched
    rw [moveTo_sched] at told
    rw [settleTest_noLeg (by rw [told]; exact h), told]
    exact h

theorem endUnanswered_noLeg (n : Nat) (forced : Bool) (h : s.sched.openLeg = none) :
    (s.endUnanswered n forced).sched.openLeg = none := by
  unfold State.endUnanswered
  split
  · exact h
  · rename_i e _
    split
    · dsimp only
      have offered := (reports_offer (.confirm (s.unansweredRecord e)) (.held (.confirm (s.unansweredRecord e)))
        (State.markHeard n (State.stopWindow n { s with sched.confirms := s.sched.confirms.erase n }))).sched
      unfold State.offerHeld
      split
      · rename_i t answer
        have kept : t.sched.openLeg = none := by rw [answer] at offered; rw [offered]; exact h
        split
        · exact endConfirmation_noLeg n _ _ _ kept
        · exact kept
      · rename_i t _ answer
        rw [answer] at offered
        exact endConfirmation_noLeg n _ _ _ (by rw [offered]; exact h)
    · exact h

theorem foldl_noLeg {α : Type} (f : State → α → State)
    (hf : ∀ t a, t.sched.openLeg = none → (f t a).sched.openLeg = none) (as : List α) (h : s.sched.openLeg = none) :
    (as.foldl f s).sched.openLeg = none := by
  induction as generalizing s with
  | nil => exact h
  | cons a as ih => exact ih (hf s a h)

theorem missWaiting_noLeg (n : Nat) (r : MissReason) (h : s.sched.openLeg = none) :
    (s.missWaiting n r).sched.openLeg = none :=
  missMeter_noLeg (s := { s with sched.sweeps := s.sched.sweeps.erase n }) n r h

theorem endConfirmations_noLeg (p : Entry → Bool) (forced : Bool) (h : s.sched.openLeg = none) :
    (s.endConfirmations p forced).sched.openLeg = none :=
  foldl_noLeg _ (fun _ n => endUnanswered_noLeg n forced) _ h

theorem closeOpenLeg_noLeg (s : State) : s.closeOpenLeg.sched.openLeg = none := by
  unfold State.closeOpenLeg
  split
  · assumption
  · rename_i o _
    have missed : ((s.passOpenLeg o.leg).missLeg o.leg).sched.openLeg = none :=
      foldl_noLeg _ (fun _ n => missWaiting_noLeg n .legClosed) _ rfl
    have closed : (s.closedLeg o.leg true).sched.openLeg = none := endConfirmations_noLeg _ _ missed
    rw [State.afterClosing, (reports_requestNotice _ _).sched, (reports_sealOpen _).sched]
    exact closed

theorem routeEnded_noLeg (s : State) : s.routeEnded.sched.openLeg = none :=
  endConfirmations_noLeg _ _ (foldl_noLeg _ (fun _ n => missWaiting_noLeg n .routeClosed) _ (closeOpenLeg_noLeg _))

/-! ## The meters -/

theorem missMeter_missed {n : Nat} {e : Entry} (r : MissReason) (h : s.entry? n = some e) :
    (s.missMeter n r).entry? n = some { e with st := .missed } := by
  obtain ⟨_, _, _, missed⟩ := missMeter_frame r h
  rw [missed]
  exact entry?_moveTo_self .missed h

/-- Missing a list of meters leaves each of them MISSED, whatever stands behind it in the list. -/
theorem missFold_missed (r : MissReason) (ns : List Nat) {n : Nat} {e : Entry} (h : s.entry? n = some e)
    (listed : n ∈ ns ∨ e.st = .missed) :
    ∃ x, (ns.foldl (fun t n => t.missWaiting n r) s).entry? n = some x ∧ x.st = .missed := by
  induction ns generalizing s e with
  | nil => exact ⟨e, h, listed.resolve_left List.not_mem_nil⟩
  | cons k ns ih =>
    by_cases hk : n = k
    · subst hk
      exact ih (missMeter_missed (s := { s with sched.sweeps := s.sched.sweeps.erase n }) r h) (.inr rfl)
    · have other := (missMeter_other (s := { s with sched.sweeps := s.sched.sweeps.erase k }) r hk).1
      exact ih (other.trans h) (listed.imp_left fun hn => (List.mem_cons.mp hn).resolve_left hk)

theorem entry?_isSome {n : Nat} :
    (s.entry? n).isSome = true ↔ n ∈ (s.roster.entries.map Entry.loaded).map Loaded.serial := by
  simp [State.entry?]

/-- Small changes take no entry and add none. -/
theorem Moves.entry?_isSome (h : Moves s t) (n : Nat) : (t.entry? n).isSome = (s.entry? n).isSome := by
  rw [Bool.eq_iff_iff, Machine.entry?_isSome, Machine.entry?_isSome, h.loaded]

/-- An entry of the later state and the entry of its serial before. -/
theorem Moves.entry_before (h : Moves s t) (ht : RosterInv t) {x : Entry} (hx : x ∈ t.roster.entries) :
    t.entry? x.loaded.serial = some x ∧ ∃ e, s.entry? x.loaded.serial = some e := by
  have after := ht.entry?_of_mem hx
  refine ⟨after, Option.isSome_iff_exists.mp ?_⟩
  rw [← h.entry?_isSome, after]
  rfl

/-- Step 3 of R116 leaves no meter PENDING or QUEUED. -/
theorem missRoute_settles (h : RosterInv s) {x : Entry} (hx : x ∈ s.missRoute.roster.entries) : x.waiting = false := by
  obtain ⟨after, e, before⟩ := (moves_missRoute s).entry_before h.missRoute hx
  cases waits : e.waiting with
  | true =>
    have listed : x.loaded.serial ∈ s.serialsWhere Entry.waiting :=
      mem_serialsWhere.mpr ⟨e, (entry?_mem before).1, waits, (entry?_mem before).2⟩
    obtain ⟨y, own, missed⟩ := missFold_missed .routeClosed _ before (.inl listed)
    have same : y = x := Option.some.inj (own.symm.trans after)
    rw [← same, Entry.waiting, missed]
    rfl
  | false =>
    have unlisted : x.loaded.serial ∉ s.serialsWhere Entry.waiting := fun listed => by
      obtain ⟨y, hy, picked, serial⟩ := mem_serialsWhere.mp listed
      have same := (h.entry?_of_mem hy).symm.trans (serial ▸ before)
      rw [Option.some.inj same, waits] at picked
      cases picked
    have kept := (missFold_other .routeClosed _ s).2 _ unlisted
    have same : e = x := Option.some.inj (before.symm.trans (kept.symm.trans after))
    rw [← same]
    exact waits

/-- Step 4 of R116 leaves a meter as it was, in VERIFY only with its candidate occupied, or READ (R94, R95). -/
theorem endConfirmations_settles (h : RosterInv s) {x : Entry}
    (hx : x ∈ (s.endConfirmations (fun _ => true) true).roster.entries) :
    (x ∈ s.roster.entries ∧ (x.st = .verify → (s.candOf? x.loaded.serial).isSome)) ∨ x.st = .read := by
  have moves := moves_endConfirmations (fun _ => true) true s
  obtain ⟨after, e, before⟩ := moves.entry_before (moves.rosterInv h) hx
  obtain ⟨mem, serial⟩ := entry?_mem before
  obtain ⟨_, others, ended⟩ := endFold_entries true _ (h.serialsWhere_nodup fun e => true && e.st == .verify) s
  by_cases verify : e.st = .verify
  · have listed : x.loaded.serial ∈ s.serialsWhere fun e => true && e.st == .verify :=
      mem_serialsWhere.mpr ⟨e, mem, by rw [verify]; rfl, serial⟩
    obtain ⟨occupied, free⟩ := ended _ listed e before verify
    cases hc : s.candOf? x.loaded.serial with
    | some c =>
      have same : e = x := Option.some.inj ((occupied (by rw [hc]; rfl)).symm.trans after)
      exact .inl ⟨same ▸ mem, fun _ => rfl⟩
    | none =>
      obtain ⟨y, own, hy⟩ := free hc
      have same : y = x := Option.some.inj (own.symm.trans after)
      rcases hy with ⟨unforced, _⟩ | read
      · cases unforced
      · exact .inr (by rw [← same, read])
  · have unlisted : x.loaded.serial ∉ s.serialsWhere fun e => true && e.st == .verify := fun listed => by
      obtain ⟨y, hy, picked, own⟩ := mem_serialsWhere.mp listed
      have same := (h.entry?_of_mem hy).symm.trans (own ▸ before)
      rw [Option.some.inj same] at picked
      exact verify (by simpa using picked)
    have same : e = x := Option.some.inj (before.symm.trans ((others _ unlisted).symm.trans after))
    subst same
    exact .inl ⟨mem, fun v => absurd v verify⟩

/-- How the steps leave each meter: neither PENDING nor QUEUED, and in VERIFY only with its candidate occupied. -/
theorem routeEnded_settles (h : RosterInv s) {x : Entry} (hx : x ∈ s.routeEnded.roster.entries) :
    x.waiting = false ∧ (x.st = .verify → (s.routeEnded.candOf? x.loaded.serial).isSome) := by
  have inv := h.forceCloseAll.closeOpenLeg.missRoute
  have pool : s.routeEnded.pool = (s.forceCloseAll.closeOpenLeg).missRoute.pool :=
    congrArg Prod.fst (slots_endConfirmations _ _ _)
  rcases endConfirmations_settles inv hx with ⟨mem, occupied⟩ | read
  · refine ⟨missRoute_settles h.forceCloseAll.closeOpenLeg mem, fun verify => ?_⟩
    rw [State.candOf?, pool]
    exact occupied verify
  · rw [Entry.waiting, read]
    exact ⟨rfl, fun verify => by cases verify⟩

/-! ## The candidates -/

/-- A meter has a HOLDING candidate. -/
def State.holding (s : State) (n : Nat) : Prop := ∃ c ∈ s.pool.cands, c.evaluated = none ∧ c.serial = n

theorem candOf_of_mem (once : (s.pool.cands.map Candidate.serial).Nodup) {c : Candidate} (hc : c ∈ s.pool.cands) :
    s.candOf? c.serial = some c := by
  obtain ⟨k, hk⟩ := Option.ne_none_iff_exists'.mp fun none =>
    candOf_none.mp none (List.mem_map_of_mem hc)
  have found := List.find?_some hk
  have same := List.inj_on_of_nodup_map once (List.mem_of_find?_eq_some hk) hc (by simpa using found)
  rw [hk, same]

/-- The close of a candidate whose record waits, or was answered, leaves the other HOLDING candidates and none of its
own meter (R55, R56). -/
theorem closeCand_holding_closed {n : Nat} {c : Candidate} {e : Entry} {rc : Bool} (hc : s.candOf? n = some c)
    (hn : c.evaluated = none) (he : s.entry? n = some e) {k : Nat} (h : (s.closeCand n rc).holding k) :
    s.holding k ∧ k ≠ n := by
  obtain ⟨x, hx, holds, rfl⟩ := h
  have pool := (offer_blocks (s := s) (s.evaluate e c rc).record (.slot n)).2.1
  rcases offered : s.offer (s.evaluate e c rc).record (.slot n) with ⟨a, t⟩
  rw [offered] at pool
  dsimp only at pool
  by_cases waits : a = .waiting
  · subst waits
    rw [closeCand_waits hc hn he offered, State.updCand] at hx
    obtain ⟨y, hy, rfl⟩ := List.mem_map.mp hx
    rw [pool] at hy
    by_cases own : y.serial = n
    · rw [if_pos own] at holds
      cases holds
    · rw [if_neg own] at holds ⊢
      exact ⟨⟨y, hy, holds, rfl⟩, own⟩
  · rw [closeCand_answered hc hn he offered waits, pool_outcome, State.freeSlot, pool] at hx
    obtain ⟨hy, own⟩ := List.mem_filter.mp hx
    exact ⟨⟨x, hy, holds, rfl⟩, by simpa using own⟩

/-- A close leaves its meter no HOLDING candidate while the meter has an entry, and makes none (R55). -/
theorem closeCand_holding (once : (s.pool.cands.map Candidate.serial).Nodup) (n : Nat) (rc : Bool) {k : Nat}
    (h : (s.closeCand n rc).holding k) : s.holding k ∧ (k = n → s.entry? n = none) := by
  cases hc : s.candOf? n with
  | none =>
    rw [closeCand_idle (.inl hc)] at h
    refine ⟨h, fun same => ?_⟩
    obtain ⟨x, hx, _, serial⟩ := h
    exact absurd (List.mem_map_of_mem hx) (serial.trans same ▸ candOf_none.mp hc)
  | some c =>
    cases he : s.entry? n with
    | none =>
      have same : s.closeCand n rc = s := by simp only [State.closeCand, hc, he]
      rw [same] at h
      exact ⟨h, fun _ => rfl⟩
    | some e =>
      cases hn : c.evaluated with
      | none =>
        obtain ⟨before, other⟩ := closeCand_holding_closed hc hn he h
        exact ⟨before, fun same => absurd same other⟩
      | some ev =>
        rw [closeCand_idle (.inr ⟨c, hc, by rw [hn]; rfl⟩)] at h
        refine ⟨h, fun same => ?_⟩
        obtain ⟨x, hx, holds, serial⟩ := h
        have found : s.candOf? n = some x := serial.trans same ▸ candOf_of_mem once hx
        rw [Option.some.inj (hc.symm.trans found), holds] at hn
        cases hn

/-- A fold of forced closes leaves no HOLDING candidate of the live meters it lists, and makes none (R57). -/
theorem forceFold_holding (ns : List Nat) (once : (s.pool.cands.map Candidate.serial).Nodup) {k : Nat}
    (h : (ns.foldl (fun t n => t.countForcedClose.closeCand n true) s).holding k) :
    s.holding k ∧ (k ∈ ns → s.entry? k = none) := by
  induction ns generalizing s with
  | nil => exact ⟨h, fun none => absurd none List.not_mem_nil⟩
  | cons n ns ih =>
    have moves : Moves s (s.countForcedClose.closeCand n true) :=
      .trans (moves_countForcedClose s) (moves_closeCand n true _)
    obtain ⟨closed, later⟩ := ih (once.sublist moves.serials) h
    obtain ⟨before, own⟩ := closeCand_holding (s := s.countForcedClose) once n true closed
    refine ⟨before, fun listed => ?_⟩
    rcases List.mem_cons.mp listed with rfl | rest
    · exact own rfl
    · have gone := moves.entry?_isSome k
      rw [later rest] at gone
      exact Option.isNone_iff_eq_none.mp (Option.isSome_eq_false_iff.mp gone.symm)

/-- Step 1 of R116 leaves no HOLDING candidate of a live meter. -/
theorem forceCloseAll_holding (once : (s.pool.cands.map Candidate.serial).Nodup) {k : Nat}
    (h : s.forceCloseAll.holding k) : s.entry? k = none := by
  obtain ⟨⟨c, hc, holds, serial⟩, closed⟩ := forceFold_holding _ once h
  refine closed (List.mem_map.mpr ⟨c, List.mem_filter.mpr ⟨hc, ?_⟩, serial⟩)
  rw [holds]
  rfl

end

end Sys2Proof.Machine
end

section
/-!
PROOF. ROUTE CLOSE step by step, and the seal at its end (O35).
-/

namespace Sys2Proof.Machine

section
variable {s : State}

/-! ## The steps spelled out -/

theorem legSt_closedLeg (l : Byte) (forced : Bool) (s : State) : ((s.closedLeg l forced).leg l).st = .passed := by
  rw [(moves_closedLeg l forced s).leg_st]
  have passed : (s.passOpenLeg l).leg l = (s.updLeg l fun k => { k with st := .passed }).leg l := rfl
  rw [passed, leg_updLeg, if_pos rfl]

/-- The LEG notice of a close carries PASSED and the counts after the misses and the ended confirmations (R114). -/
theorem afterClosing_eq (l : Byte) (forced : Bool) (s : State) :
    (s.closedLeg l forced).afterClosing l =
      State.requestNotice (.leg l .closed .passed ((s.closedLeg l forced).leg l).counts)
        (s.closedLeg l forced).sealOpen := by
  have legs : (s.closedLeg l forced).sealOpen.leg l = (s.closedLeg l forced).leg l := by
    rw [State.leg, roster_sealOpen, State.leg]
  rw [State.afterClosing, legs, legSt_closedLeg]

theorem closeOpenLeg_none (h : s.sched.openLeg = none) : s.closeOpenLeg = s := by
  simp only [State.closeOpenLeg, h]

theorem closeOpenLeg_some {o : OpenLeg} (h : s.sched.openLeg = some o) :
    s.closeOpenLeg = State.requestNotice (.leg o.leg .closed .passed ((s.closedLeg o.leg true).leg o.leg).counts)
      (s.closedLeg o.leg true).sealOpen := by
  simp only [State.closeOpenLeg, h]
  exact afterClosing_eq o.leg true s

/-- With no leg open, no HOLDING candidate and every meter read, missed or excluded, there is nothing to close. -/
theorem routeEnded_idle (noLeg : s.sched.openLeg = none) (closed : ∀ c ∈ s.pool.cands, c.evaluated.isSome)
    (settled : ∀ e ∈ s.roster.entries, e.st ≠ .pending ∧ e.st ≠ .queued ∧ e.st ≠ .verify) : s.routeEnded = s := by
  have noneHolding : s.pool.cands.filter (fun c => c.evaluated.isNone) = [] :=
    List.filter_eq_nil_iff.mpr fun c hc => by simp [Option.isSome_iff_ne_none.mp (closed c hc)]
  have forced : s.forceCloseAll = s := by rw [State.forceCloseAll, noneHolding]; rfl
  have kept := closeOpenLeg_none noLeg
  have noneWaiting : s.roster.entries.filter Entry.waiting = [] :=
    List.filter_eq_nil_iff.mpr fun e he => by simp [Entry.waiting, settled e he]
  have missed : s.missRoute = s := by rw [State.missRoute, State.serialsWhere, noneWaiting]; rfl
  have noneVerify : s.roster.entries.filter (fun e => true && e.st == .verify) = [] :=
    List.filter_eq_nil_iff.mpr fun e he => by simp [settled e he]
  rw [State.routeEnded, forced, kept, missed, State.endConfirmations, State.serialsWhere, noneVerify]
  rfl

/-! ## The seal -/

theorem testLow_journal (s : State) : s.testLow.journal = s.journal := by
  unfold State.testLow
  split <;> rfl

theorem sealOpen_seals {b : OpenBatch} (h : s.journal.openBatch = some b)
    (takes : s.journal.st = .opened ∨ s.journal.st = .full) :
    s.sealOpen.journal = { s.journal with
      openBatch := none, indexStart := s.journal.indexStart - 16,
      seals := s.journal.seals ++ [⟨b.number, b.first, s.journal.recordEnd - b.first, b.count, b.leg, b.crc,
        s.journal.indexStart - 16, false⟩] } := by
  simp only [State.sealOpen, h]
  rw [if_pos takes, testLow_journal]

/-- In OPEN and FULL no batch is open after a seal trigger (R128). -/
theorem sealOpen_noBatch (takes : s.sealOpen.journal.st = .opened ∨ s.sealOpen.journal.st = .full) :
    s.sealOpen.journal.openBatch = none := by
  cases h : s.journal.openBatch with
  | none => simp only [State.sealOpen, h]
  | some b =>
    by_cases opened : s.journal.st = .opened ∨ s.journal.st = .full
    · rw [sealOpen_seals h opened]
    · have kept : s.sealOpen = s := by simp only [State.sealOpen, h, if_neg opened]
      rw [kept] at takes
      exact absurd takes opened

/-! ## The passed route -/

theorem roster_passRoute (s : State) : s.passRoute.roster =
    { s.roster with legs := s.roster.legs.map fun k => { k with st := .passed }, phase := .closed } := by
  unfold State.passRoute
  dsimp only
  rw [roster_sealOpen]

theorem sched_passRoute (s : State) : s.passRoute.sched = s.sched :=
  (reports_sealOpen { s with roster.legs := s.roster.legs.map fun k => { k with st := .passed } }).sched

theorem pool_passRoute (s : State) : s.passRoute.pool = s.pool :=
  congrArg Prod.fst
    (reports_sealOpen { s with roster.legs := s.roster.legs.map fun k => { k with st := .passed } }).slots

theorem passRoute_seals {b : OpenBatch} (h : s.journal.openBatch = some b)
    (takes : s.journal.st = .opened ∨ s.journal.st = .full) :
    s.passRoute.journal = { s.journal with
      openBatch := none, indexStart := s.journal.indexStart - 16,
      seals := s.journal.seals ++ [⟨b.number, b.first, s.journal.recordEnd - b.first, b.count, b.leg, b.crc,
        s.journal.indexStart - 16, false⟩] } :=
  sealOpen_seals (s := { s with roster.legs := s.roster.legs.map fun k => { k with st := .passed } }) h takes

theorem passRoute_noBatch (takes : s.passRoute.journal.st = .opened ∨ s.passRoute.journal.st = .full) :
    s.passRoute.journal.openBatch = none :=
  sealOpen_noBatch (s := { s with roster.legs := s.roster.legs.map fun k => { k with st := .passed } }) takes

theorem exec_routeClose (h : Listening s) (free : s.longOp = false) (active : s.roster.phase = .active) :
    exec (.routeClose []) s =
      .next (State.finish (s.received.routeEnded.passRoute.replied .routeClose .done [])) :=
  exec_carried (c := .routeClose) h (by rw [active]; rfl) (.inl free) (.inl (by decide)) rfl

end

/-- Settles O35: the steps in order, then what each leaves. -/
theorem routeCloseCloses : Obligations.RouteCloseCloses := by
  intro s h inv once free active v
  have inv' : RosterInv s.received := inv.congr rfl
  have ended : v = s.received.routeEnded := rfl
  clear_value v
  subst ended
  have aside : s.received.routeEnded.passRoute.aside = s.aside :=
    (aside_passRoute _).trans (aside_routeEnded s.received)
  simp only [State.aside, Prod.mk.injEq] at aside
  obtain ⟨flash, upload, replies, loaded⟩ := aside
  have entries : s.received.routeEnded.passRoute.roster.entries = s.received.routeEnded.roster.entries := by
    rw [roster_passRoute]
  refine ⟨_, s.received.routeEnded.passRoute, exec_routeClose h free active, rfl, ?_, rfl, fun e he verify => ?_,
    fun b hb takes => ?_, fun noLeg closed settled => ?_, rfl, ?_, fun l => ?_, fun e he => ?_, loaded,
    fun c hc holds => ?_, passRoute_noBatch, flash, upload, replies⟩
  · intro f g w
    have legClosed : g = f.closeOpenLeg := by
      dsimp only [g]
      split
      · exact (closeOpenLeg_none ‹_›).symm
      · exact (closeOpenLeg_some ‹_›).symm
    clear_value g
    subst legClosed
    rfl
  · rw [entries] at he
    rw [State.candOf?, pool_passRoute]
    exact (routeEnded_settles inv' he).2 verify
  · rw [passRoute_seals hb takes]
    exact ⟨rfl, rfl, rfl⟩
  · rw [routeEnded_idle (s := s.received) noLeg closed settled]
    rfl
  · rw [sched_passRoute, routeEnded_noLeg]
  · rw [State.leg, roster_passRoute]
    exact congrArg Leg.st (leg_mapPassed _ l)
  · rw [entries] at he
    have settled := (routeEnded_settles inv' he).1
    simpa [Entry.waiting] using settled
  · rw [pool_passRoute, pool_routeEnded] at hc
    exact forceCloseAll_holding (s := s.received) once ⟨c, hc, holds, rfl⟩

end Sys2Proof.Machine
end

section
/-!
PROOF. The arithmetic of a reading: the forward difference (O46), the movement cases with their amounts (O47) and the
daily rate (O48).
-/

namespace Sys2Proof.Machine

/-! ## The forward difference (R63) -/

/-- The closed form for registers below the modulus: the modulus is added when the register is below the previous one. -/
theorem forwardDiff_eq {r p m : Nat} (hr : r < m) (hp : p < m) :
    forwardDiff r p m = if p ≤ r then r - p else r + m - p := by
  unfold forwardDiff
  split
  · rw [Int.emod_eq_of_lt (by omega) (by omega)]
    omega
  · rw [← Int.add_emod_right, Int.emod_eq_of_lt (by omega) (by omega)]
    omega

theorem forwardDiff_lt {r p m : Nat} (hr : r < m) (hp : p < m) : forwardDiff r p m < m := by
  rw [forwardDiff_eq hr hp]
  split <;> omega

/-- Counting up from the previous register by the difference reaches the register. -/
theorem add_forwardDiff {r p m : Nat} (hr : r < m) (hp : p < m) : (p + forwardDiff r p m) % m = r := by
  rw [forwardDiff_eq hr hp]
  split
  · rw [Nat.add_sub_cancel' ‹_›, Nat.mod_eq_of_lt hr]
  · rw [Nat.add_sub_cancel' (by omega), Nat.add_mod_right, Nat.mod_eq_of_lt hr]

/-- Settles O46, from the closed form. -/
theorem forwardDifference : Obligations.ForwardDifference :=
  fun _ _ _ hr hp => ⟨forwardDiff_lt hr hp, add_forwardDiff hr hp, forwardDiff_eq hr hp⟩

/-! ## The movement cases (R64, R65) -/

/-- What the ordered tests of R64 have found of a difference when they decide on a case. -/
def MoveCase.Decided (d m t : Nat) : MoveCase → Prop
  | .zero => d = 0
  | .backstep => d ≠ 0 ∧ m - d ≤ t
  | .forward => d ≠ 0 ∧ ¬ m - d ≤ t ∧ d ≤ m / 2
  | .reverse => d ≠ 0 ∧ ¬ m - d ≤ t ∧ ¬ d ≤ m / 2

theorem decided_moveCase (d m t : Nat) : (moveCase d m t).Decided d m t := by
  unfold moveCase
  split
  case isTrue zero => exact zero
  case isFalse moved =>
    split
    case isTrue near => exact ⟨moved, near⟩
    case isFalse far =>
      split
      case isTrue lower => exact ⟨moved, far, lower⟩
      case isFalse upper => exact ⟨moved, far, upper⟩

/-- The cases exclude each other, so each stands exactly when its tests decide on it. -/
theorem moveCase_eq_iff {d m t : Nat} (k : MoveCase) : moveCase d m t = k ↔ k.Decided d m t := by
  refine ⟨fun same => same ▸ decided_moveCase d m t, fun decided => ?_⟩
  unfold moveCase
  cases k with
  | zero => exact if_pos decided
  | backstep =>
    obtain ⟨moved, near⟩ := decided
    rw [if_neg moved, if_pos near]
  | forward =>
    obtain ⟨moved, far, lower⟩ := decided
    rw [if_neg moved, if_neg far, if_pos lower]
  | reverse =>
    obtain ⟨moved, far, upper⟩ := decided
    rw [if_neg moved, if_neg far, if_neg upper]

/-- The modulus of a class with 4 to 9 digits is even, and its half lies between 5,000 and 500,000,000 (R64, R66). -/
theorem exists_half_modulus {g : Nat} (h4 : 4 ≤ g) (h9 : g ≤ 9) :
    ∃ h, 10 ^ g = 2 * h ∧ 5000 ≤ h ∧ h ≤ 500000000 := by
  refine ⟨10 ^ g / 2, ?_, ?_⟩ <;> interval_cases g <;> decide

/-- In FORWARD the delta is the difference, at most half the modulus; in the other cases it is 0. -/
theorem deltaOf_moveCase_le (d m t : Nat) : deltaOf (moveCase d m t) d ≤ m / 2 := by
  cases decided : moveCase d m t with
  | forward =>
    obtain ⟨_, _, lower⟩ := (moveCase_eq_iff .forward).mp decided
    exact lower
  | zero | backstep | reverse => exact Nat.zero_le _

/-- With the tolerance at most half the modulus, so are the advance and the step back. -/
theorem amountOf_moveCase_le {m t : Nat} (d : Nat) (ht : t ≤ m / 2) : amountOf (moveCase d m t) d m ≤ m / 2 := by
  cases decided : moveCase d m t with
  | zero => exact Nat.zero_le _
  | backstep =>
    obtain ⟨_, near⟩ := (moveCase_eq_iff .backstep).mp decided
    exact near.trans ht
  | forward =>
    obtain ⟨_, _, lower⟩ := (moveCase_eq_iff .forward).mp decided
    exact lower
  | reverse =>
    obtain ⟨_, _, upper⟩ := (moveCase_eq_iff .reverse).mp decided
    rw [amountOf]
    omega

/-! ## The READING record's movement (R65, R69) -/

/-- The conditions of a set by their numbers. -/
theorem getLsbD_condSet (a b c d e f g h : Bool) (i : Nat) :
    (condSet a b c d e f g h).getLsbD i = [a, b, c, d, e, f, g, h].getD i false := by
  match i with
  | 0 | 1 | 2 | 3 | 4 | 5 | 6 | 7 | _ + 8 => simp [condSet]

/-- A record made for a meter not in VERIFY carries the movement of its own registers and class, and BACKSTEP and
REVERSE stand in its conditions exactly in those cases. -/
theorem evaluate_movement {s : State} {e : Entry} {c : Candidate} {rc : Bool} {r : ReadingRec} {n minute : Nat}
    {flagged : Bool} (h : e.st ≠ .verify) (made : s.evaluate e c rc = .reading r n flagged minute) :
    let k := s.classOf e
    let d := forwardDiff c.best.register e.prevReg k.modulus
    r.case = moveCase d k.modulus k.tol ∧ r.amount = amountOf r.case d k.modulus ∧
      r.consumption = deltaOf r.case d * k.mult ∧ r.conds.getLsbD 2 = (r.case == .backstep) ∧
      r.conds.getLsbD 3 = (r.case == .reverse) := by
  rw [State.evaluate, if_neg h] at made
  cases made
  exact ⟨rfl, rfl, rfl, getLsbD_condSet _ _ _ _ _ _ _ _ 2, getLsbD_condSet _ _ _ _ _ _ _ _ 3⟩

/-- The two low bits of the byte that the case and the attempts share are the case, whatever the attempts (R70). -/
theorem caseAttempts_mod_four (k : MoveCase) (n : Nat) :
    (k.code ||| BitVec.ofNat 8 (4 * n)).toNat % 4 = k.code.toNat := by
  have attempts : 4 * n % 2 ^ 8 % 2 ^ 2 = 0 := by omega
  rw [BitVec.toNat_or, BitVec.toNat_ofNat, Nat.or_mod_two_pow (n := 2), attempts, Nat.or_zero]
  cases k <;> rfl

/-- Settles O47, the four cases by their tests (`moveCase_eq_iff`), the record by what its evaluation put into it
(`evaluate_movement`). -/
theorem movementCases : Obligations.MovementCases := by
  refine ⟨fun g d t h4 h9 hd ht => ?_, fun s e c rc r n minute flagged unread made => ?_⟩
  · dsimp only
    obtain ⟨h, even, low, _⟩ := exists_half_modulus h4 h9
    rw [even] at hd ⊢
    have amount := amountOf_moveCase_le d (show t ≤ 2 * h / 2 by omega)
    refine ⟨moveCase_eq_iff .zero, moveCase_eq_iff .backstep, moveCase_eq_iff .forward, moveCase_eq_iff .reverse,
      fun _ near => by omega, fun strict back => ?_, by omega, ?_, deltaOf_moveCase_le _ _ _, amount, fun zero => ?_,
      fun back => ?_, fun forward => ?_, fun reverse => ?_⟩
    · obtain ⟨_, near⟩ := (moveCase_eq_iff .backstep).mp back
      omega
    · cases moveCase d (2 * h) t <;> rfl
    · rw [zero, amountOf]
    · obtain ⟨_, near⟩ := (moveCase_eq_iff .backstep).mp back
      exact ⟨by rw [back, amountOf], by omega, near⟩
    · obtain ⟨moved, _, lower⟩ := (moveCase_eq_iff .forward).mp forward
      exact ⟨by rw [forward, amountOf], by omega, lower⟩
    · obtain ⟨_, far, upper⟩ := (moveCase_eq_iff .reverse).mp reverse
      exact ⟨by rw [reverse, amountOf], by omega, by omega⟩
  · intro k m d
    obtain ⟨caseOf, amount, consumption, backstep, reverse⟩ := evaluate_movement unread made
    refine ⟨caseOf, amount, consumption, by rw [backstep, beq_iff_eq], by rw [reverse, beq_iff_eq],
      fun h4 h9 ht _ _ => ?_⟩
    obtain ⟨h, even, low, high⟩ : ∃ h, m = 2 * h ∧ 5000 ≤ h ∧ h ≤ 500000000 := exists_half_modulus h4 h9
    have delta : deltaOf r.case d ≤ m / 2 := caseOf ▸ deltaOf_moveCase_le d m k.tol
    have amountHalf : r.amount ≤ m / 2 := by
      rw [amount, caseOf]
      exact amountOf_moveCase_le d (show k.tol ≤ m / 2 by omega)
    obtain ⟨_, _, _, _, _, amountField, _⟩ := reading_fields r
    obtain ⟨_, _, _, _, _, _, caseByte, _⟩ := reading_bytes r
    exact ⟨delta, amountHalf, amountField (by omega), by rw [caseByte, caseAttempts_mod_four]⟩

/-! ## The daily rate (R67) -/

theorem dailyRate_le (k : MoveCase) (c e : Nat) : dailyRate k c e ≤ 4294967295 := by
  cases k with
  | forward => exact Nat.min_le_right _ _
  | zero | backstep | reverse => exact Nat.zero_le _

theorem dailyRate_other {k : MoveCase} (h : k ≠ .forward) (c e : Nat) : dailyRate k c e = 0 := by
  cases k with
  | forward => exact absurd rfl h
  | zero | backstep | reverse => rfl

/-- Over no elapsed minute the divisor is 1. -/
theorem dailyRate_atOnce (c : Nat) : dailyRate .forward c 0 = min (c * 1440) 4294967295 := by
  rw [dailyRate, Nat.zero_max, Nat.div_one]

theorem dailyRate_forward (c : Nat) {e : Nat} (h : 1 ≤ e) :
    dailyRate .forward c e = min (c * 1440 / e) 4294967295 := by
  rw [dailyRate, Nat.max_eq_left h]

/-- Below saturation the rate is the quotient rounded down. -/
theorem dailyRate_bounds {c e : Nat} (h : 1 ≤ e) (below : dailyRate .forward c e < 4294967295) :
    dailyRate .forward c e * e ≤ c * 1440 ∧ c * 1440 < (dailyRate .forward c e + 1) * e := by
  have quotient : dailyRate .forward c e = c * 1440 / e := by
    rw [dailyRate_forward c h] at below ⊢
    omega
  rw [quotient]
  exact ⟨Nat.div_mul_le_self _ _, (Nat.div_lt_iff_lt_mul h).mp (Nat.lt_succ_self _)⟩

theorem dailyRate_saturated_iff {c e : Nat} (h : 1 ≤ e) :
    dailyRate .forward c e = 4294967295 ↔ 4294967295 * e ≤ c * 1440 := by
  rw [dailyRate_forward c h, min_eq_right_iff, Nat.le_div_iff_mul_le h]

theorem highRate_iff (k : ClassRec) (m : Movement) : highRate k m = true ↔ k.rateLimit ≠ 0 ∧ k.rateLimit < m.rate := by
  rw [highRate, Bool.and_eq_true, bne_iff_ne, decide_eq_true_iff]

/-- Settles O48, by the case of the movement and, in FORWARD, by whether a minute has elapsed. -/
theorem Arithmetic.dailyRate : Obligations.DailyRate := by
  refine ⟨fun k c e hc => ⟨dailyRate_le k c e, by omega, by omega, fun other => dailyRate_other other c e, ?_, ?_, ?_⟩,
    fun k e register minute => ⟨rfl, rfl, highRate_iff k _⟩⟩
  · rintro rfl rfl
    exact dailyRate_atOnce c
  · rintro rfl
    exact dailyRate_bounds
  · rintro rfl
    exact dailyRate_saturated_iff

end Sys2Proof.Machine
end

section
/-!
PROOF. The records that an evaluation makes (O45): each condition by its own test, the visit score as a sum of weights,
the suspect mark, and the outcome of a confirming reading.
-/

namespace Sys2Proof.Machine

/-! ## The tests of the conditions (R79 to R81, R92) -/

section
variable (k : ClassRec) (m : Movement)

theorem statusChange_iff (now ref : Byte) : statusChange k now ref = true ↔ (now ^^^ ref) &&& k.watch ≠ 0 := bne_iff_ne

theorem statusAlarm_iff (now : Byte) : statusAlarm k now = true ↔ now &&& k.alarm ≠ 0 := bne_iff_ne

theorem stopped_iff :
    stopped k m = true ↔ k.stopMinutes ≠ 0 ∧ m.case = .zero ∧ k.stopMinutes ≤ m.elapsed := by
  simp only [stopped, Bool.and_eq_true, bne_iff_ne, beq_iff_eq, decide_eq_true_eq, and_assoc]

theorem continuous_iff (iv : List Nat) : continuous k iv = true ↔
    k.leakHours ≠ 0 ∧ k.leakHours ≤ iv.length ∧ ∀ x ∈ iv.take k.leakHours, k.leakFloor ≤ x := by
  simp only [continuous, Bool.and_eq_true, bne_iff_ne, List.all_eq_true, decide_eq_true_eq, and_assoc]

theorem profile_iff (iv : List Nat) : profile m iv = true ↔
    m.case = .forward ∧ 1 ≤ iv.length ∧ 60 * iv.length ≤ m.elapsed ∧ m.delta < iv.sum := by
  simp only [profile, Bool.and_eq_true, beq_iff_eq, decide_eq_true_eq, and_assoc]

theorem confirmReverse_iff (second first : Nat) : confirmReverse k second first = true ↔
    k.modulus / 2 < forwardDiff second first k.modulus ∧ k.tol < k.modulus - forwardDiff second first k.modulus := by
  simp only [confirmReverse, Bool.and_eq_true, decide_eq_true_eq]

/-- The conditions of a reading by their numbers (R78). -/
theorem getLsbD_conditionsOf (status ref : Byte) (iv : List Nat) (i : Nat) :
    (conditionsOf k m status ref iv).getLsbD i = true ↔
      [statusChange k status ref, statusAlarm k status, m.case == .backstep, m.case == .reverse, highRate k m,
        stopped k m, continuous k iv, profile m iv].getD i false = true := by
  rw [conditionsOf, getLsbD_condSet]

/-! ## The scores and the suspect mark (R82 to R84) -/

/-- The visit score written out over the eight conditions. -/
theorem visitScore_eq (c : BitVec 8) :
    let w (i : Fin 8) : Nat := if c.getLsbD i.val then k.weights[i] else 0
    visitScore k c = w 0 + w 1 + w 2 + w 3 + w 4 + w 5 + w 6 + w 7 := by
  have numbers : List.finRange 8 = [0, 1, 2, 3, 4, 5, 6, 7] := rfl
  simp only [visitScore, numbers, List.map_cons, List.map_nil, List.sum_cons, List.sum_nil, add_zero, add_assoc]

theorem isFlagged_iff (total : Nat) : isFlagged k total = true ↔ k.threshold ≠ 0 ∧ k.threshold ≤ total := by
  simp only [isFlagged, Bool.and_eq_true, bne_iff_ne, decide_eq_true_eq]

end

theorem confirmApplies_iff (s : State) (e : Entry) (conds : BitVec 8) (rc : Bool) :
    s.confirmApplies e conds rc = true ↔
      (s.classOf e).confirm = true ∧ (e.attrs.wake = true ∨ e.attrs.wakeAllowed = true) ∧ conds &&& 0x0B#8 ≠ 0 ∧
        (s.leg e.loaded.leg).st = .opened ∧ rc = false := by
  simp only [State.confirmApplies, recheckable, State.legIsOpen, Bool.and_eq_true, Bool.or_eq_true, bne_iff_ne,
    beq_iff_eq, Bool.not_eq_true', and_assoc]

/-! ## The confirmation evaluation (R92) -/

/-- Two sets meet exactly when some number stands in both. -/
theorem and_ne_zero_iff {w : Nat} (a b : BitVec w) :
    a &&& b ≠ 0#w ↔ ∃ i, a.getLsbD i = true ∧ b.getLsbD i = true := by
  constructor
  · intro meet
    by_contra apart
    refine meet (BitVec.eq_of_getLsbD_eq fun i _ => ?_)
    rw [BitVec.getLsbD_and, BitVec.getLsbD_zero, ← Bool.not_eq_true, Bool.and_eq_true]
    exact fun both => apart ⟨i, both⟩
  · rintro ⟨i, ha, hb⟩ none
    have bit := congrArg (fun v => BitVec.getLsbD v i) none
    simp [ha, hb] at bit

/-- The re-checked set by its numbers: STATUS_CHANGE, STATUS_ALARM and REVERSE, and no other. -/
theorem getLsbD_recheckedSet (k : ClassRec) (e : Entry) (register : Nat) (status : Byte) (i : Nat) :
    (recheckedSet k e register status).getLsbD i = true ↔
      [statusChange k status e.refStatus, statusAlarm k status, false, confirmReverse k register e.prevReg].getD i
        false = true := by
  rw [recheckedSet, getLsbD_condSet]
  match i with
  | 0 | 1 | 2 | 3 | 4 | 5 | 6 | 7 | _ + 8 => rfl

/-- CONFIRMED stands exactly when the re-checked set meets the suspect set; else CLEARED. -/
theorem confirmed_iff (found suspect : BitVec 8) :
    (if found &&& suspect != 0 then TamperOutcome.confirmed else .cleared) = .confirmed ↔
      ∃ i, found.getLsbD i = true ∧ suspect.getLsbD i = true := by
  have meets := (bne_iff_ne (a := found &&& suspect) (b := 0)).trans (and_ne_zero_iff found suspect)
  rw [← meets]
  split
  · exact iff_of_true rfl ‹_›
  · exact iff_of_false (by decide) ‹_›

/-! ## The records -/

/-- Settles O45: each field by what the evaluation puts there, each condition by its test. -/
theorem readingRecordMade : Obligations.ReadingRecordMade := by
  refine ⟨fun s e c rc unread => ?_, fun k m status ref iv => ?_, visitScore_eq, fun s e c rc verify => ?_,
    fun s e p hp => ?_⟩
  · refine ⟨_, _, _, _, if_neg unread, rfl, rfl, rfl, rfl, rfl, rfl, rfl, rfl, rfl, rfl, rfl, rfl, rfl, rfl, rfl, rfl,
      rfl, rfl, rfl, rfl, rfl, rfl, rfl, rfl, rfl, isFlagged_iff _ _, ?_⟩
    exact Bool.and_eq_true_iff.trans (and_congr_right fun _ => confirmApplies_iff s e _ rc)
  · intro conds
    have bit := getLsbD_conditionsOf k m status ref iv
    exact ⟨(bit 0).trans (statusChange_iff k status ref), (bit 1).trans (statusAlarm_iff k status),
      (bit 2).trans beq_iff_eq, (bit 3).trans beq_iff_eq, (bit 4).trans (highRate_iff k m),
      (bit 5).trans (stopped_iff k m), (bit 6).trans (continuous_iff k iv), (bit 7).trans (profile_iff m iv)⟩
  · refine ⟨_, if_pos verify, rfl, rfl, rfl, rfl, rfl, rfl, ?_, fun p hp => ⟨?_, ?_⟩⟩
    · intro k diff
      have bit := getLsbD_recheckedSet k e c.best.register c.best.status
      refine ⟨(bit 0).trans (statusChange_iff k _ _), (bit 1).trans (statusAlarm_iff k _),
        (bit 3).trans (confirmReverse_iff k _ _), fun i h0 h1 h3 => Bool.eq_false_iff.mpr fun set => ?_⟩
      have listed := (bit i).mp set
      match i with
      | 0 | 1 | 3 => contradiction
      | 2 | _ + 4 => cases listed
    · dsimp only
      split
      · exact .inl rfl
      · exact .inr rfl
    · have suspect : e.suspectSet = p.suspect := by rw [Entry.suspectSet, hp]
      rw [← suspect]
      exact confirmed_iff _ _
  · have first : e.firstStatus = p.firstStatus := by rw [Entry.firstStatus, hp]
    rw [State.unansweredRecord, first]
    rfl

end Sys2Proof.Machine
end

section
/-!
PROOF. A confirmation that ends unanswered (R94, R95): its request withdrawn, its record offered, and what the answer
makes of the meter. No step of it sets the TAMPER flag.
-/

namespace Sys2Proof.Machine

/-! ## The TAMPER flag -/

theorem flag_setFlag_other {f g : Flag} (h : f.number ≠ g.number) (s : State) : (s.setFlag f).flag g = s.flag g := by
  simp [State.setFlag, State.flag, h]

theorem tamper_testLow (s : State) : s.testLow.flag .tamper = s.flag .tamper := by
  unfold State.testLow
  split
  · exact flag_setFlag_other (by decide) s
  · rfl

theorem tamper_sealOpen (s : State) : s.sealOpen.flag .tamper = s.flag .tamper := by
  unfold State.sealOpen
  split
  · rfl
  · split
    · exact tamper_testLow _
    · rfl

theorem tamper_append (bs : List Byte) (s : State) : (s.append bs).flag .tamper = s.flag .tamper := by
  have joined : ((s.joinBuffer bs).testLow).flag .tamper = s.flag .tamper := tamper_testLow _
  unfold State.append State.sealFull
  split
  · split
    · exact (tamper_sealOpen _).trans joined
    · exact joined
  · exact joined

theorem tamper_offer (r : JournalRecord) (w : WaitEntry) (s : State) :
    (s.offer r w).2.flag .tamper = s.flag .tamper := by
  have joined : (s.joinWait w).2.flag .tamper = s.flag .tamper := by unfold State.joinWait; split <;> rfl
  unfold State.offer
  split
  · unfold State.refuseByState
    dsimp only
    split
    · exact flag_setFlag_other (by decide) (s.countRefusals 1)
    · rfl
  · split
    · exact joined
    · split
      · exact flag_setFlag_other (by decide) { s.countRefusals 1 with journal.st := .full }
      · exact joined
      · exact tamper_append _ s

theorem tamper_requestNotice (x : Notice) (s : State) : (s.requestNotice x).flag .tamper = s.flag .tamper := by
  unfold State.requestNotice
  split
  · rfl
  · exact flag_setFlag_other (by decide) s.countNoticeDropped

theorem tamper_settleTest (s : State) : s.settleTest.flag .tamper = s.flag .tamper := by
  unfold State.settleTest
  split
  · rfl
  · rename_i o _
    split
    · exact (tamper_requestNotice _ _).trans
        (flag_setFlag_other (by decide) { s with sched.openLeg := some { o with settled := true } })
    · rfl

/-! ## The end of a confirmation -/

section
variable {s : State} {n : Nat} {e : Entry}

/-- Beside the meter's entry, its chain place and its leg's counts, the end of a confirmation changes the open-leg
record, the journal and the link at most. -/
theorem endConfirmation_frame (o : TamperOutcome) (c : BitVec 8) (ref : Byte) (h : s.entry? n = some e) :
    ∃ (w : Option OpenLeg) (j : Journal) (l : Link), s.endConfirmation n o c ref =
      { (s.updEntry n fun k => { k with refStatus := ref, confirm := none, window := none }).moveTo n .read with
        sched.openLeg := w, journal := j, link := l } := by
  simp only [State.endConfirmation, h]
  obtain ⟨_, _, told⟩ := reports_tamperNotice n o c e.totalScore
    ((s.updEntry n fun k => { k with refStatus := ref, confirm := none, window := none }).moveTo n .read)
  rw [told]
  exact settleTest_frame _

theorem endConfirmation_sched (o : TamperOutcome) (c : BitVec 8) (ref : Byte) (h : s.entry? n = some e) :
    ∃ w, (s.endConfirmation n o c ref).sched = { s.sched with openLeg := w } := by
  obtain ⟨w, _, _, ended⟩ := endConfirmation_frame o c ref h
  refine ⟨w, ?_⟩
  rw [ended]
  dsimp only
  rw [moveTo_sched]
  rfl

/-- What the end of an unanswered confirmation makes of its meter and reports: READ with the first status, and the
notice UNCONFIRMED without its flag (R94). -/
def State.unconfirmed (s : State) (n : Nat) (ref : Byte) (total : Nat) : State :=
  State.settleTest (State.requestNotice (.tamper n .unconfirmed 0 total)
    (State.moveTo n .read (s.updEntry n fun k => { k with refStatus := ref, confirm := none, window := none })))

theorem endConfirmation_unconfirmed {total : Nat} (ref : Byte) (h : s.entry? n = some e) (ht : e.totalScore = total) :
    s.endConfirmation n .unconfirmed 0 ref = s.unconfirmed n ref total := by
  simp only [State.endConfirmation, h, ht]
  rfl

theorem tamper_unconfirmed (ref : Byte) (total : Nat) : (s.unconfirmed n ref total).flag .tamper = s.flag .tamper := by
  have told := (tamper_settleTest _).trans (tamper_requestNotice (.tamper n .unconfirmed 0 total)
    (State.moveTo n .read (s.updEntry n fun k => { k with refStatus := ref, confirm := none, window := none })))
  refine told.trans ?_
  rw [State.flag, moveTo_link]
  rfl

/-! ## The unanswered end -/

/-- The meter waits no more: its confirm request erased, its window stopped, its transmission marked heard (R94). -/
def State.withdrawn (s : State) (n : Nat) : State :=
  { s.updEntry n (fun k => { k with window := none }) with
    sched.confirms := s.sched.confirms.erase n,
    sched.tx := s.sched.tx.map fun x => if x.serial = n ∧ x.discarded = false then { x with heard := true } else x }

/-- The record of an unanswered end is offered, the meter's request withdrawn (R94, R96). -/
def State.unansweredOffer (s : State) (n : Nat) (e : Entry) : OfferOutcome × State :=
  (s.withdrawn n).offer (.confirm (s.unansweredRecord e)) (.held (.confirm (s.unansweredRecord e)))

theorem endUnanswered_idle (forced : Bool) (he : s.entry? n = some e)
    (h : e.st ≠ .verify ∨ (s.candOf? n).isSome) : s.endUnanswered n forced = s := by
  simp only [State.endUnanswered, he]
  refine if_neg fun ⟨verify, free⟩ => ?_
  rcases h with other | some
  · exact other verify
  · rw [free] at some
    cases some

/-- The answer decides: with a refusal that is not forced the meter stays, else its confirmation ends. -/
theorem endUnanswered_eq (forced : Bool) (he : s.entry? n = some e) (verify : e.st = .verify)
    (free : s.candOf? n = none) :
    s.endUnanswered n forced =
      if (s.unansweredOffer n e).1 = .refused ∧ forced = false then (s.unansweredOffer n e).2
      else (s.unansweredOffer n e).2.endConfirmation n .unconfirmed 0 e.firstStatus := by
  rcases offered : s.unansweredOffer n e with ⟨a, v⟩
  simp only [State.endUnanswered, he]
  rw [if_pos ⟨verify, free⟩]
  have answer : State.offerHeld (.confirm (s.unansweredRecord e)) (State.markHeard n (State.stopWindow n
      { s with sched.confirms := s.sched.confirms.erase n })) = (a, v) := offered
  rw [answer]
  cases a with
  | refused => cases forced <;> rfl
  | appended | waiting => rfl

theorem unansweredOffer_entry (he : s.entry? n = some e) :
    (s.unansweredOffer n e).2.entry? n = some { e with window := none } := by
  refine (entry?_of_entries n (congrArg Roster.entries (offer_blocks _ _).1)).trans ?_
  exact entry?_updEntry_self (fun k => { k with window := none }) (fun _ => rfl) he

theorem unansweredOffer_sched (n : Nat) (e : Entry) : (s.unansweredOffer n e).2.sched = (s.withdrawn n).sched :=
  (reports_offer _ _ _).sched

theorem unansweredOffer_notices (n : Nat) (e : Entry) :
    (s.unansweredOffer n e).2.link.notices = s.link.notices := (offer_blocks _ _).2.2

theorem tamper_unansweredOffer (n : Nat) (e : Entry) : (s.unansweredOffer n e).2.flag .tamper = s.flag .tamper :=
  tamper_offer _ _ _

/-- An unanswered end that takes effect (R94). -/
theorem endUnanswered_ends {forced : Bool} (he : s.entry? n = some e) (verify : e.st = .verify)
    (free : s.candOf? n = none) (ends : (s.unansweredOffer n e).1 ≠ .refused ∨ forced = true) :
    s.endUnanswered n forced = (s.unansweredOffer n e).2.unconfirmed n e.firstStatus e.totalScore := by
  rw [endUnanswered_eq forced he verify free, if_neg]
  · exact endConfirmation_unconfirmed e.firstStatus (unansweredOffer_entry he) rfl
  · rintro ⟨refused, unforced⟩
    rcases ends with answered | forced
    · exact answered refused
    · rw [forced] at unforced
      cases unforced

theorem unconfirmed_entry {ref : Byte} {total : Nat} (he : s.entry? n = some e) (ht : e.totalScore = total) :
    (s.unconfirmed n ref total).entry? n =
      some { e with st := .read, refStatus := ref, confirm := none, window := none } := by
  rw [← endConfirmation_unconfirmed ref he ht]
  exact (endConfirmation_entries .unconfirmed 0 ref he).2.2

theorem length_confirmBytes (r : ConfirmRec) : r.bytes.length = 23 := by
  simp [ConfirmRec.bytes, sealRecord]

end

end Sys2Proof.Machine
end

section
/-!
PROOF. The ends of the reply windows (O39), by the leg's state and the attempts left.
-/

namespace Sys2Proof.Machine

section
variable {s : State} {n : Nat} {e : Entry}

theorem legIsOpen_iff (s : State) (l : Byte) : s.legIsOpen l = true ↔ (s.leg l).st = .opened := beq_iff_eq

/-- There is budget to spend exactly when a leg is open with some left (R97). -/
theorem lt_budget_iff (q : Sched) (k : Nat) : k < q.budget ↔ ∃ o, q.openLeg = some o ∧ k < o.budget := by
  unfold Sched.budget
  split <;> simp_all

/-! ## A sweep meter's window (R111) -/

theorem exec_sweepWindowEnd (n : Nat) (awake : s.asserted = false) :
    exec (.sweepWindowEnd n) s = .next (s.sweepWindowEnded n).finish := event_awake awake

theorem sweepWindowEnded_eq (he : s.entry? n = some e) (await : e.st = .await) (running : e.window.isSome) :
    s.sweepWindowEnded n =
      if s.legIsOpen e.loaded.leg then
        if e.attempts < s.attemptLimit e then
          if s.sched.queued < 32 ∧ s.sched.sweeps.length < s.sched.budget then
            ((s.stopWindow n).joinSweep n).offerLane
          else (s.stopWindow n).moveTo n .pending
        else (s.stopWindow n).missMeter n .retries
      else (s.stopWindow n).missMeter n s.closedReason := by
  simp only [State.sweepWindowEnded, he]
  exact if_pos ⟨await, running⟩

/-! ## A confirm meter's window (R91) -/

theorem exec_confirmWindowEnd (n : Nat) (awake : s.asserted = false) :
    exec (.confirmWindowEnd n) s = .next (s.confirmWindowEnded n).finish := event_awake awake

theorem confirmWindowEnded_eq (he : s.entry? n = some e) (verify : e.st = .verify) (running : e.window.isSome) :
    s.confirmWindowEnded n =
      if (s.candOf? n).isSome then s.stopWindow n
      else if e.attempts < s.attemptLimit e ∧ s.legIsOpen e.loaded.leg then (s.stopWindow n).offerConfirm n
      else (s.stopWindow n).endUnanswered n (decide (s.roster.phase = .closed)) := by
  simp only [State.confirmWindowEnded, he]
  exact if_pos ⟨verify, running⟩

/-- With no attempts left, or its leg not open, the confirmation ends unanswered. -/
theorem confirmWindowEnded_ends (he : s.entry? n = some e) (verify : e.st = .verify) (running : e.window.isSome)
    (free : s.candOf? n = none)
    (done : (s.roster.classes[e.loaded.cls.toNat]).retries + 1 ≤ e.attempts ∨ (s.leg e.loaded.leg).st ≠ .opened) :
    s.confirmWindowEnded n = (s.stopWindow n).endUnanswered n (decide (s.roster.phase = .closed)) := by
  rw [confirmWindowEnded_eq he verify running, if_neg (by rw [free]; decide), if_neg]
  rintro ⟨left, opened⟩
  rcases done with spent | closed
  · exact absurd left (Nat.not_lt.mpr spent)
  · exact closed ((legIsOpen_iff s _).mp opened)

/-- The whole end of a confirmation by its window, where it takes effect: by force in CLOSED, or with the journal
taking the record. -/
theorem stopped_endUnanswered {p : ConfirmPart} (he : s.entry? n = some e) (verify : e.st = .verify)
    (free : s.candOf? n = none) (hp : e.confirm = some p)
    (ends : s.roster.phase = .closed ∨
      (s.journal.st = .opened ∧ s.journal.waits = [] ∧ s.journal.room 23 = .fits)) :
    let t := (s.stopWindow n).endUnanswered n (decide (s.roster.phase = .closed))
    t.entry? n = some { e with refStatus := p.firstStatus, confirm := none, window := none, st := .read } ∧
      (∀ k, k ≠ n → t.entry? k = s.entry? k) ∧ t.sched.confirms = s.sched.confirms.erase n := by
  intro t
  have stopped : (s.stopWindow n).entry? n = some { e with window := none } :=
    entry?_updEntry_self (fun k => { k with window := none }) (fun _ => rfl) he
  have first : e.firstStatus = p.firstStatus := by rw [Entry.firstStatus, hp]
  have effect : ((s.stopWindow n).unansweredOffer n { e with window := none }).1 ≠ .refused ∨
      decide (s.roster.phase = .closed) = true := by
    refine ends.symm.imp (fun ⟨opened, empty, fits⟩ => ?_) decide_eq_true
    rw [State.unansweredOffer, offer_appends (s := (s.stopWindow n).withdrawn n) _ opened empty
      (by rw [JournalRecord.bytes, length_confirmBytes]; exact fits)]
    exact nofun
  have ended : t = _ := endUnanswered_ends stopped verify free effect
  refine ⟨?_, fun k hk => ?_, ?_⟩
  · rw [ended, unconfirmed_entry (unansweredOffer_entry stopped) rfl, ← first]
    rfl
  · exact ((endUnanswered_entries _ n _).2.1 k hk).trans
      (entry?_updEntry_other (fun k => { k with window := none }) (fun _ => rfl) hk)
  · obtain ⟨w, sched⟩ := endConfirmation_sched .unconfirmed 0 e.firstStatus (unansweredOffer_entry stopped)
    rw [ended, ← endConfirmation_unconfirmed _ (unansweredOffer_entry stopped) rfl]
    exact (congrArg Sched.confirms sched).trans (congrArg Sched.confirms (unansweredOffer_sched n _))

end

/-- Settles O39: the two windows by their branches, and the unanswered end by the journal's answer. -/
theorem replyWindowsEnd : Obligations.ReplyWindowsEnd := by
  refine ⟨fun s n e awake he await running => ⟨_, rfl, ?_⟩, fun s n e awake he verify running => ⟨_, rfl, ?_⟩,
    fun s n e forced he => ⟨endUnanswered_idle forced he, fun p verify free hp => ?_⟩⟩
  · rw [exec_sweepWindowEnd n awake, sweepWindowEnded_eq he await running]
    refine ⟨fun opened left => ⟨fun room budget => ?_, fun full => ?_⟩, fun opened spent => ?_, fun closed => ?_⟩
    · rw [if_pos ((legIsOpen_iff s _).mpr opened), if_pos (show e.attempts < s.attemptLimit e from left),
        if_pos ⟨room, (lt_budget_iff _ _).mpr budget⟩]
      rfl
    · rw [if_pos ((legIsOpen_iff s _).mpr opened), if_pos (show e.attempts < s.attemptLimit e from left), if_neg]
      · rfl
      · rintro ⟨room, budget⟩
        obtain ⟨o, ho, spend⟩ := (lt_budget_iff _ _).mp budget
        rcases full with queue | none
        · exact absurd room (Nat.not_lt.mpr queue)
        · exact absurd spend (Nat.not_lt.mpr (none o ho))
    · rw [if_pos ((legIsOpen_iff s _).mpr opened),
        if_neg (show ¬ e.attempts < s.attemptLimit e from Nat.not_lt.mpr spent)]
      rfl
    · rw [if_neg (mt (legIsOpen_iff s _).mp closed)]
      rfl
  · rw [exec_confirmWindowEnd n awake]
    refine ⟨fun occupied => ?_, fun free left opened => ?_, fun free done => ?_, fun p free hp done ends => ?_⟩
    · rw [confirmWindowEnded_eq he verify running, if_pos occupied]
      rfl
    · rw [confirmWindowEnded_eq he verify running, if_neg (by rw [free]; decide),
        if_pos ⟨left, (legIsOpen_iff s _).mpr opened⟩]
      rfl
    · rw [confirmWindowEnded_ends he verify running free done]
      rfl
    · rw [confirmWindowEnded_ends he verify running free done]
      obtain ⟨meter, others, confirms⟩ := stopped_endUnanswered he verify free hp ends
      have slots := slots_endUnanswered (s.stopWindow n) n (decide (s.roster.phase = .closed))
      have moves := moves_endUnanswered n (decide (s.roster.phase = .closed)) (s.stopWindow n)
      simp only [State.slots, Prod.mk.injEq] at slots
      refine ⟨_, rfl, ?_⟩
      simp only [entry?_finish, finish_sched, finish_pool, finish_intake, finish_store]
      exact ⟨meter, others, confirms, slots.1, slots.2, congrArg Flash.store moves.flash⟩
  · intro u r ended a v offered
    have serial : e.loaded.serial = n := (entry?_mem he).2
    have first : e.firstStatus = p.firstStatus := by rw [Entry.firstStatus, hp]
    have record : r = .confirm (s.unansweredRecord e) := by rw [State.unansweredRecord, first, serial]; rfl
    have answer : s.unansweredOffer n e = (a, v) := by rw [State.unansweredOffer, ← record]; exact offered
    have entry : v.entry? n = some { e with window := none } := by
      have kept := unansweredOffer_entry he
      rwa [answer] at kept
    refine ⟨fun ends => ⟨?_, ?_, ?_⟩, fun refused unforced => ⟨?_, entry, ?_⟩⟩
    · rw [endUnanswered_ends he verify free (by rw [answer]; exact ends), answer, first]
      rfl
    · have read := unconfirmed_entry (ref := p.firstStatus) entry rfl
      exact read
    · have kept := tamper_unansweredOffer (s := s) n e
      rw [answer] at kept
      exact (tamper_unconfirmed p.firstStatus e.totalScore).trans kept
    · rw [endUnanswered_eq forced he verify free, answer, if_pos ⟨refused, unforced⟩]
    · have kept := unansweredOffer_notices (s := s) n e
      rwa [answer] at kept

end Sys2Proof.Machine
end

section
/-!
PROOF. LEG CLOSE (O34): what its misses and its ends of confirmations leave of each meter, of the transmit lane and of
the journal, and the seal behind them.
-/

namespace Sys2Proof.Machine

section
variable {s t : State} {n : Nat} {e : Entry}

/-! ## The transmit lane (log 26) -/

/-- Whether a transmission is in progress, and the duty credit. -/
def State.laneUse (s : State) : Bool × Nat := (s.sched.tx.isSome, s.sched.credit)

theorem laneUse_missMeter (n : Nat) (r : MissReason) (s : State) : (s.missMeter n r).laneUse = s.laneUse := by
  cases h : s.entry? n with
  | none => simp only [State.missMeter, h]
  | some e =>
    obtain ⟨_, _, _, missed⟩ := missMeter_frame r h
    simp only [State.laneUse, missed, moveTo_sched]

theorem laneUse_endUnanswered (n : Nat) (forced : Bool) (s : State) :
    (s.endUnanswered n forced).laneUse = s.laneUse := by
  cases he : s.entry? n with
  | none => simp only [State.endUnanswered, he]
  | some e =>
    by_cases idle : e.st ≠ .verify ∨ (s.candOf? n).isSome
    · rw [endUnanswered_idle forced he idle]
    · rw [not_or, not_not, Option.not_isSome_iff_eq_none] at idle
      obtain ⟨verify, free⟩ := idle
      have offered : (s.unansweredOffer n e).2.laneUse = s.laneUse := by
        rw [State.laneUse, unansweredOffer_sched, State.laneUse, State.withdrawn, Option.isSome_map]
        rfl
      rw [endUnanswered_eq forced he verify free]
      split
      · exact offered
      · obtain ⟨_, sched⟩ := endConfirmation_sched .unconfirmed 0 e.firstStatus (unansweredOffer_entry he)
        rw [State.laneUse, sched]
        exact offered

theorem laneUse_foldl {α : Type} (f : State → α → State) (hf : ∀ t a, (f t a).laneUse = t.laneUse) (as : List α)
    (s : State) : (as.foldl f s).laneUse = s.laneUse := by
  induction as generalizing s with
  | nil => rfl
  | cons a as ih => exact (ih _).trans (hf s a)

theorem laneUse_closedLeg (l : Byte) (forced : Bool) (s : State) : (s.closedLeg l forced).laneUse = s.laneUse :=
  (laneUse_foldl _ (fun t n => laneUse_endUnanswered n forced t) _ _).trans
    (laneUse_foldl _ (fun t n => laneUse_missMeter n .legClosed { t with sched.sweeps := t.sched.sweeps.erase n }) _
      (s.passOpenLeg l))

/-! ## The pool and the open leg -/

theorem slots_missLeg (l : Byte) (s : State) : (s.missLeg l).slots = s.slots :=
  slots_foldl _ (fun t n => slots_missWaiting n .legClosed t) _ s

theorem slots_closedLeg (l : Byte) (forced : Bool) (s : State) : (s.closedLeg l forced).slots = s.slots :=
  (slots_endConfirmations _ forced _).trans (slots_missLeg l (s.passOpenLeg l))

theorem closedLeg_noLeg (l : Byte) (forced : Bool) (s : State) : (s.closedLeg l forced).sched.openLeg = none :=
  endConfirmations_noLeg _ forced (foldl_noLeg _ (fun _ n => missWaiting_noLeg n .legClosed) _ rfl)

/-! ## The meters -/

/-- On a true roster a serial is among those a test picks only by its own entry. -/
theorem RosterInv.not_mem_serialsWhere (h : RosterInv s) (he : s.entry? n = some e) {p : Entry → Bool}
    (hp : p e = false) : n ∉ s.serialsWhere p := by
  intro listed
  obtain ⟨x, hx, picked, rfl⟩ := mem_serialsWhere.mp listed
  have same : x = e := Option.some.inj ((h.entry?_of_mem hx).symm.trans he)
  rw [same, hp] at picked
  cases picked

theorem mem_serialsWhere_of_entry (he : s.entry? n = some e) {p : Entry → Bool} (hp : p e = true) :
    n ∈ s.serialsWhere p := by
  obtain ⟨mem, serial⟩ := entry?_mem he
  exact mem_serialsWhere.mpr ⟨e, mem, hp, serial⟩

/-- Small changes leave a meter its loaded part. -/
theorem Moves.entry_loaded (h : Moves s t) (inv : RosterInv s) (he : s.entry? n = some e) {x : Entry}
    (hx : t.entry? n = some x) : x.loaded = e.loaded := by
  obtain ⟨mem, rfl⟩ := entry?_mem hx
  have kept : x.loaded ∈ s.roster.entries.map Entry.loaded := h.loaded ▸ List.mem_map_of_mem mem
  obtain ⟨y, hy, same⟩ := List.mem_map.mp kept
  have own : y = e := Option.some.inj ((same ▸ inv.entry?_of_mem hy).symm.trans he)
  rw [← own, same]

/-- Step 2 of R114 leaves a meter that it does not miss. -/
theorem missLeg_kept (h : RosterInv s) (l : Byte) (he : s.entry? n = some e)
    (other : (e.loaded.leg == l && e.waiting) = false) : (s.missLeg l).entry? n = some e :=
  ((missFold_other .legClosed _ s).2 n (h.not_mem_serialsWhere he other)).trans he

/-- Step 3 of R114 leaves a meter whose confirmation it does not end. -/
theorem endConfirmations_kept (h : RosterInv s) {p : Entry → Bool} (forced : Bool) (he : s.entry? n = some e)
    (other : (p e && e.st == .verify) = false) : (s.endConfirmations p forced).entry? n = some e :=
  ((endFold_entries forced _ (h.serialsWhere_nodup _) s).2.1 n (h.not_mem_serialsWhere he other)).trans he

/-- Step 3 of R114 ends a confirmation unless its candidate is occupied (R94, R95). -/
theorem endConfirmations_ended (h : RosterInv s) {p : Entry → Bool} (forced : Bool) (he : s.entry? n = some e)
    (picked : p e = true) (verify : e.st = .verify) :
    ((s.candOf? n).isSome → (s.endConfirmations p forced).entry? n = some e) ∧
      (s.candOf? n = none → ∃ x, (s.endConfirmations p forced).entry? n = some x ∧ EndedEntry forced e x) :=
  (endFold_entries forced _ (h.serialsWhere_nodup _) s).2.2 n
    (mem_serialsWhere_of_entry he (by rw [picked, verify]; rfl)) e he verify

theorem RosterInv.missLeg (h : RosterInv s) (l : Byte) : RosterInv (s.missLeg l) := (moves_missLeg l s).rosterInv h

theorem RosterInv.closedLeg (h : RosterInv s) (l : Byte) (forced : Bool) : RosterInv (s.closedLeg l forced) :=
  (moves_closedLeg l forced s).rosterInv (h.passOpenLeg l)

/-- The close of a leg leaves the meters of other legs and those neither waiting nor in VERIFY. -/
theorem closedLeg_kept (h : RosterInv s) (l : Byte) (forced : Bool) (he : s.entry? n = some e)
    (other : e.loaded.leg ≠ l ∨ (e.st ≠ .pending ∧ e.st ≠ .queued ∧ e.st ≠ .verify)) :
    (s.closedLeg l forced).entry? n = some e := by
  refine endConfirmations_kept ((h.passOpenLeg l).missLeg l) forced (missLeg_kept (h.passOpenLeg l) l he ?_) ?_
  · rcases other with leg | ⟨pending, queued, _⟩
    · simp [leg]
    · simp [Entry.waiting, pending, queued]
  · rcases other with leg | ⟨_, _, verify⟩
    · simp [leg]
    · simp [verify]

/-- The close of a leg leaves its waiting meters MISSED, on the chain (R19, R114). -/
theorem closedLeg_missed (h : RosterInv s) (forced : Bool) (he : s.entry? n = some e) (waits : e.waiting = true) :
    ∃ x, (s.closedLeg e.loaded.leg forced).entry? n = some x ∧ x.loaded = e.loaded ∧ x.st = .missed := by
  have listed := mem_serialsWhere_of_entry (s := s.passOpenLeg e.loaded.leg)
    (p := fun k => k.loaded.leg == e.loaded.leg && k.waiting) he (by simp [waits])
  obtain ⟨x, hx, missed⟩ := missFold_missed (s := s.passOpenLeg e.loaded.leg) .legClosed _ he (.inl listed)
  have kept := endConfirmations_kept (p := fun k => k.loaded.leg == e.loaded.leg)
    ((h.passOpenLeg e.loaded.leg).missLeg e.loaded.leg) forced hx (by rw [missed]; simp)
  exact ⟨x, kept, (moves_closedLeg _ forced s).entry_loaded (h.passOpenLeg _) he kept, missed⟩

/-- The close of a leg and its meters in VERIFY (R94, R95). -/
theorem closedLeg_verify (h : RosterInv s) (forced : Bool) (he : s.entry? n = some e) (verify : e.st = .verify) :
    ((s.candOf? n).isSome → (s.closedLeg e.loaded.leg forced).entry? n = some e) ∧
      (s.candOf? n = none →
        ∃ x, (s.closedLeg e.loaded.leg forced).entry? n = some x ∧ EndedEntry forced e x) := by
  have unmissed := missLeg_kept (h.passOpenLeg e.loaded.leg) e.loaded.leg he (by simp [Entry.waiting, verify])
  have pool : ((s.passOpenLeg e.loaded.leg).missLeg e.loaded.leg).pool = s.pool :=
    congrArg Prod.fst (slots_missLeg e.loaded.leg (s.passOpenLeg e.loaded.leg))
  have ended := endConfirmations_ended (p := fun k => k.loaded.leg == e.loaded.leg)
    ((h.passOpenLeg e.loaded.leg).missLeg e.loaded.leg) forced unmissed (by simp) verify
  rw [State.candOf?, pool] at ended
  exact ended

/-- With no meter of the leg waiting or in VERIFY the close only passes the leg. -/
theorem closedLeg_idle (l : Byte) (forced : Bool) (settled : ∀ e ∈ s.roster.entries, e.loaded.leg = l →
    e.st ≠ .pending ∧ e.st ≠ .queued ∧ e.st ≠ .verify) : s.closedLeg l forced = s.passOpenLeg l := by
  have nonePicked {p : Entry → Bool} (hp : ∀ e ∈ s.roster.entries, p e = false) :
      (s.passOpenLeg l).serialsWhere p = [] := by
    rw [State.serialsWhere, List.map_eq_nil_iff]
    exact List.filter_eq_nil_iff.mpr fun e he => by rw [hp e he]; decide
  have missed : (s.passOpenLeg l).missLeg l = s.passOpenLeg l := by
    rw [State.missLeg, nonePicked]
    · rfl
    · intro e he
      by_cases leg : e.loaded.leg = l
      · simp [Entry.waiting, settled e he leg]
      · simp [leg]
  rw [State.closedLeg, missed, State.endConfirmations, nonePicked]
  · rfl
  · intro e he
    by_cases leg : e.loaded.leg = l
    · simp [settled e he leg]
    · simp [leg]

/-! ## The command -/

theorem roster_afterClosing (l : Byte) (s : State) : (s.afterClosing l).roster = s.roster :=
  (requestNotice_blocks _).1.trans (roster_sealOpen s)

theorem journal_afterClosing (l : Byte) (s : State) : (s.afterClosing l).journal = s.sealOpen.journal :=
  requestNotice_journal _

theorem sched_afterClosing (l : Byte) (s : State) : (s.afterClosing l).sched = s.sched :=
  (reports_requestNotice _ _).sched.trans (reports_sealOpen s).sched

theorem slots_afterClosing (l : Byte) (s : State) : (s.afterClosing l).slots = s.slots :=
  (slots_requestNotice _ _).trans (reports_sealOpen s).slots

theorem exec_legClose {o : OpenLeg} (h : Listening s) (free : s.longOp = false) (active : s.roster.phase = .active)
    (ho : s.sched.openLeg = some o) :
    exec (.legClose [o.leg]) s = .next (State.finish (State.replied .legClose .done
      ((s.received.closedLeg o.leg false).leg o.leg).counts.bytes
      ((s.received.closedLeg o.leg false).afterClosing o.leg))) := by
  refine exec_carried (c := .legClose) h (by rw [active]; rfl) (.inl free) (.inl (by decide)) ?_
  have opened : s.received.sched.openLeg.map OpenLeg.leg = some o.leg := congrArg (Option.map OpenLeg.leg) ho
  exact if_pos opened

end

/-- Settles O34: the close step by step, then what it leaves of the meters, the journal and the lane. -/
theorem legCloseCloses : Obligations.LegCloseCloses := by
  intro s o h inv free active ho v
  have inv' : RosterInv s.received := inv.congr rfl
  have known {e : Entry} (he : e ∈ s.roster.entries) : s.received.entry? e.loaded.serial = some e :=
    inv'.entry?_of_mem he
  let u : State := v.afterClosing o.leg
  have roster : u.roster = v.roster := roster_afterClosing o.leg v
  have leg : u.leg o.leg = v.leg o.leg := by rw [State.leg, roster, State.leg]
  have found {n : Nat} {x : Entry} (hx : v.entry? n = some x) : x ∈ u.roster.entries := by
    rw [roster]; exact (entry?_mem hx).1
  have missed {e : Entry} (he : e ∈ s.roster.entries) (own : e.loaded.leg = o.leg)
      (waits : e.st = .pending ∨ e.st = .queued) :
      ∃ x, v.entry? e.loaded.serial = some x ∧ x.loaded = e.loaded ∧ x.st = .missed := by
    have closed := closedLeg_missed inv' false (known he) (by simpa [Entry.waiting] using waits)
    rwa [own] at closed
  have journal : u.journal = v.sealOpen.journal := journal_afterClosing o.leg v
  have lane : u.laneUse = s.laneUse := by
    rw [State.laneUse, sched_afterClosing]
    exact laneUse_closedLeg o.leg false s.received
  have slots : u.slots = s.slots := (slots_afterClosing o.leg v).trans (slots_closedLeg o.leg false s.received)
  have moves : Moves (s.received.passOpenLeg o.leg) u :=
    .trans (moves_closedLeg o.leg false s.received) (moves_afterClosing o.leg v)
  simp only [State.laneUse, Prod.mk.injEq] at lane
  simp only [State.slots, Prod.mk.injEq] at slots
  obtain ⟨transmitting, credit⟩ := lane
  obtain ⟨pool, intake⟩ := slots
  refine ⟨_, u, exec_legClose h free active ho, by rw [leg], afterClosing_eq o.leg false s.received, rfl,
    fun e he own verify => ?_, fun b hb takes => ?_, fun settled => ?_, ?_, ?_, fun e he own waits => ?_,
    fun e he other => ?_, fun e he own waits => ?_, fun takes => ?_, transmitting, credit, moves.phase.trans active,
    pool, intake, moves.flash, moves.upload, moves.replies⟩
  · have ends := closedLeg_verify inv' false (known he) verify
    rw [own] at ends
    obtain ⟨occupied, ended⟩ := ends
    refine ⟨fun candidate => found (occupied candidate), fun p noCandidate hp => ?_⟩
    obtain ⟨x, hx, ⟨_, stays⟩ | read⟩ := ended noCandidate
    · exact .inl (stays ▸ found hx)
    · have first : e.firstStatus = p.firstStatus := by rw [Entry.firstStatus, hp]
      rw [first] at read
      exact .inr (read ▸ found hx)
  · rw [journal, sealOpen_seals hb takes]
    exact ⟨rfl, rfl, rfl⟩
  · have passed : v = s.received.passOpenLeg o.leg := closedLeg_idle (s := s.received) o.leg false settled
    rw [passed]
    rfl
  · rw [sched_afterClosing]
    exact closedLeg_noLeg o.leg false s.received
  · rw [leg]
    exact legSt_closedLeg o.leg false s.received
  · obtain ⟨x, hx, loaded, st⟩ := missed he own waits
    exact ⟨x, found hx, loaded, st⟩
  · exact found (closedLeg_kept inv' o.leg false (known he) other)
  · obtain ⟨x, hx, _, st⟩ := missed he own waits
    obtain ⟨mem, serial⟩ := entry?_mem hx
    rw [roster]
    exact ((inv'.closedLeg o.leg false).chain _).mpr ⟨x, mem, serial, st⟩
  · rw [journal] at takes ⊢
    exact sealOpen_noBatch takes

end Sys2Proof.Machine
end

section
/-!
PROOF. The wake queue and the transmit lane: the admission scan (O31), the head of the queue and the confirm requests
(O32), the pass timer and the refill (O37), the end of a transmission (O38).
-/

namespace Sys2Proof.Machine

section
variable {s : State} {n : Nat} {e : Entry}

/-! ## Moves of several meters -/

/-- On a true roster a meter's serial is among those a test picks exactly when the test holds of the meter. -/
theorem RosterInv.mem_serialsWhere_iff (h : RosterInv s) (he : e ∈ s.roster.entries) (p : Entry → Bool) :
    e.loaded.serial ∈ s.serialsWhere p ↔ p e = true := by
  have found := h.entry?_of_mem he
  refine ⟨fun listed => ?_, mem_serialsWhere_of_entry found⟩
  cases picked : p e with
  | true => rfl
  | false => exact absurd listed (h.not_mem_serialsWhere found picked)

/-- Entries put into a state, one and then others of a list. -/
theorem map_state_cons (es : List Entry) (n : Nat) (ns : List Nat) (st : EntryState) :
    (es.map fun e => if e.loaded.serial = n then { e with st := st } else e).map
        (fun e => if e.loaded.serial ∈ ns then { e with st := st } else e) =
      es.map fun e => if e.loaded.serial ∈ n :: ns then { e with st := st } else e := by
  rw [List.map_map]
  refine List.map_congr_left fun e _ => ?_
  by_cases own : e.loaded.serial = n <;> simp [own]

theorem updLeg_counts_same {s : State} {l : Byte} {f : Leg → Leg} (h : f (s.leg l) = s.leg l) : s.updLeg l f = s := by
  rw [State.updLeg, h, State.leg, Vector.set_getElem_self]

/-- A move from one outstanding state to another changes the entry alone: neither the chain nor a count (R19, R21). -/
theorem moveTo_outstanding {st : EntryState} (he : s.entry? n = some e) (old : e.st.kind = .outstanding)
    (new : st.kind = .outstanding) : s.moveTo n st = s.updEntry n fun x => { x with st := st } := by
  have chain : chainMove n e.st st s.roster.missed = s.roster.missed := by
    rw [chainMove_eq, if_neg, if_neg, List.append_nil]
    · rintro rfl
      cases new
    · intro missed
      rw [missed] at old
      cases old
  have placed : s.placeEntry n st = s.updEntry n fun x => { x with st := st } := by
    simp only [State.placeEntry, he, chain]
    rfl
  simp only [State.moveTo, he, placed]
  refine updLeg_counts_same ?_
  rw [LegCounts.move, if_pos (old.trans new.symm)]

/-! ## The admission scan (R102) -/

theorem joinSweep_other {k : Nat} (h : k ≠ n) : (s.joinSweep n).entry? k = s.entry? k :=
  entry?_moveTo_other (s := { s with sched.sweeps := s.sched.sweeps ++ [n] }) .queued h

/-- PENDING meters join the sweep group one after the other. -/
theorem joinSweeps_eq (ns : List Nat) (once : ns.Nodup)
    (pending : ∀ n ∈ ns, ∃ e, s.entry? n = some e ∧ e.st = .pending) :
    ns.foldl (fun t n => t.joinSweep n) s = { s with
      sched.sweeps := s.sched.sweeps ++ ns,
      roster.entries := s.roster.entries.map fun e =>
        if e.loaded.serial ∈ ns then { e with st := .queued } else e } := by
  induction ns generalizing s with
  | nil => simp
  | cons n ns ih =>
    obtain ⟨fresh, once⟩ := List.nodup_cons.mp once
    obtain ⟨e, he, waits⟩ := pending n List.mem_cons_self
    have joined : s.joinSweep n =
        State.updEntry n (fun x => { x with st := .queued }) { s with sched.sweeps := s.sched.sweeps ++ [n] } :=
      moveTo_outstanding (s := { s with sched.sweeps := s.sched.sweeps ++ [n] }) he (by rw [waits]; rfl) rfl
    have others (k : Nat) (hk : k ∈ ns) : ∃ e, (s.joinSweep n).entry? k = some e ∧ e.st = .pending := by
      rw [joinSweep_other fun same => fresh (by rwa [← same])]
      exact pending k (List.mem_cons_of_mem _ hk)
    rw [List.foldl_cons, ih once others, joined, State.updEntry]
    simp only [map_state_cons, List.append_assoc, List.singleton_append]

theorem scanPick_open {o : OpenLeg} (ho : s.sched.openLeg = some o) :
    s.scanPick = (s.serialsWhere (s.eligible o)).take
      (min (32 - s.sched.queued) (o.budget - s.sched.sweeps.length)) := by
  simp only [State.scanPick, ho]

theorem scanPick_noLeg (ho : s.sched.openLeg = none) : s.scanPick = [] := by
  simp only [State.scanPick, ho]

theorem eligible_pending {o : OpenLeg} (h : s.eligible o e = true) : e.st = .pending := by
  simp only [State.eligible, Bool.and_eq_true, beq_iff_eq] at h
  obtain ⟨⟨⟨⟨_, pending⟩, _⟩, _⟩, _⟩ := h
  exact pending

/-- What a scan takes are PENDING meters, each once. -/
theorem RosterInv.scanPick_pending (h : RosterInv s) :
    s.scanPick.Nodup ∧ ∀ n ∈ s.scanPick, ∃ e, s.entry? n = some e ∧ e.st = .pending := by
  cases ho : s.sched.openLeg with
  | none => rw [scanPick_noLeg ho]; exact ⟨List.nodup_nil, fun _ hn => nomatch hn⟩
  | some o =>
    rw [scanPick_open ho]
    refine ⟨(h.serialsWhere_nodup _).sublist (List.take_sublist ..), fun n hn => ?_⟩
    obtain ⟨e, he, picked, rfl⟩ := mem_serialsWhere.mp (List.mem_of_mem_take hn)
    exact ⟨e, h.entry?_of_mem he, eligible_pending picked⟩

/-- A scan of a true roster. -/
theorem RosterInv.scan_eq (h : RosterInv s) :
    s.scan = { s with
      sched.sweeps := s.sched.sweeps ++ s.scanPick,
      roster.entries := s.roster.entries.map fun e =>
        if e.loaded.serial ∈ s.scanPick then { e with st := .queued } else e } := by
  obtain ⟨once, pending⟩ := h.scanPick_pending
  exact joinSweeps_eq s.scanPick once pending

/-! ## The head of the queue (R101, R107) -/

theorem offerLane_head {p : Purpose} (h : s.sched.head = some (n, p)) :
    s.offerLane = if s.sched.mayStart p then (s.startTransmission n p).scan else s := by
  simp only [State.offerLane, h]

/-- The lane takes nothing where it may start no transmission of the head's purpose. -/
theorem offerLane_idle (h : ∀ n p, s.sched.head = some (n, p) → s.sched.mayStart p = false) : s.offerLane = s := by
  cases hh : s.sched.head with
  | none => simp only [State.offerLane, hh]
  | some w => rw [offerLane_head hh, h _ _ hh, if_neg Bool.false_ne_true]

theorem head_confirm {rest : List Nat} (h : s.sched.confirms = n :: rest) : s.sched.head = some (n, .confirm) := by
  simp only [Sched.head, h]

theorem head_sweep {rest : List Nat} (hc : s.sched.confirms = []) (h : s.sched.sweeps = n :: rest) :
    s.sched.head = some (n, .sweep) := by
  simp only [Sched.head, hc, h]

/-- With no confirm request the head, if any, is a sweep request. -/
theorem head_purpose {q : Sched} {p : Purpose} (hc : q.confirms = []) (h : q.head = some (n, p)) : p = .sweep := by
  simp only [Sched.head, hc] at h
  split at h
  · rename_i empty
    cases empty
  · cases h
    rfl
  · cases h

theorem mayStart_iff (q : Sched) (p : Purpose) :
    q.mayStart p = true ↔ q.tx = none ∧ q.wakeDur ≤ q.credit ∧ (p = .confirm ∨ 0 < q.budget) := by
  simp [Sched.mayStart, and_assoc]

/-- The lane takes a confirm request (R107). -/
theorem offerLane_confirm {rest : List Nat} (idle : s.sched.tx = none) (credit : s.sched.wakeDur ≤ s.sched.credit)
    (h : s.sched.confirms = n :: rest) :
    s.offerLane = State.scan (State.updEntry n (fun e => { e with attempts := e.attempts + 1 })
      { s with
        sched.confirms := rest, sched.credit := s.sched.credit - s.sched.wakeDur,
        sched.tx := some ⟨n, .confirm, s.sched.wakeDur, false, s.sched.wakeDur + 100, false⟩ }) := by
  rw [offerLane_head (head_confirm h), if_pos ((mayStart_iff _ _).mpr ⟨idle, credit, .inl rfl⟩),
    State.startTransmission, h]
  rfl

/-- The lane takes a sweep request (R107). -/
theorem offerLane_sweep {rest : List Nat} {o : OpenLeg} (idle : s.sched.tx = none)
    (credit : s.sched.wakeDur ≤ s.sched.credit) (hc : s.sched.confirms = []) (h : s.sched.sweeps = n :: rest)
    (ho : s.sched.openLeg = some o) (budget : 0 < o.budget) :
    s.offerLane = State.scan (State.moveTo n .sending (State.updEntry n (fun e => { e with attempts := e.attempts + 1 })
      { s with
        sched.sweeps := rest, sched.credit := s.sched.credit - s.sched.wakeDur,
        sched.openLeg := some { o with budget := o.budget - 1 },
        sched.tx := some ⟨n, .sweep, s.sched.wakeDur, false, s.sched.wakeDur + 100, false⟩ })) := by
  have spend : 0 < s.sched.budget := (lt_budget_iff _ _).mpr ⟨o, ho, budget⟩
  rw [offerLane_head (head_sweep hc h), if_pos ((mayStart_iff _ _).mpr ⟨idle, credit, .inr spend⟩),
    State.startTransmission, h, ho]
  rfl

/-! ## Confirm requests (R103) -/

theorem offerConfirm_room (room : s.sched.confirms.length + s.sched.sweeps.length < 32) :
    s.offerConfirm n = State.offerLane { s with sched.confirms := s.sched.confirms ++ [n] } := if_pos room

/-- With the queue full of requests the newest sweep request gives up its slot (R103). -/
theorem offerConfirm_evicts {front : List Nat} {k : Nat}
    (full : 32 ≤ s.sched.confirms.length + s.sched.sweeps.length) (h : s.sched.sweeps = front ++ [k]) :
    s.offerConfirm n = State.offerLane (State.moveTo k .pending
      { s with sched.sweeps := front, sched.confirms := s.sched.confirms ++ [n] }) := by
  rw [State.offerConfirm, if_neg (show ¬ s.sched.queued < 32 from Nat.not_lt.mpr full), h, List.getLast?_concat,
    List.dropLast_concat]

/-- With the queue full of confirm requests another does not join (R103). -/
theorem offerConfirm_refused (full : 32 ≤ s.sched.confirms.length) (h : s.sched.sweeps = []) :
    s.offerConfirm n = s := by
  rw [State.offerConfirm, if_neg (show ¬ s.sched.queued < 32 from Nat.not_lt.mpr (Nat.le_add_right_of_le full)), h]
  rfl

end

/-- Settles O31: on a true roster the scan's meters are PENDING and distinct, so that each join is one change of an
entry. -/
theorem admissionScanAdmits : Obligations.AdmissionScanAdmits := by
  refine fun s h => ⟨fun noLeg => ?_, fun o ho => ?_⟩
  · rw [State.scan, scanPick_noLeg noLeg]
    rfl
  · intro eligible admitted
    have picked : s.scanPick = admitted := scanPick_open ho
    rw [h.scan_eq, picked]

/-- Settles O32: the lane by the head of the queue, a confirm request by the room. -/
theorem wakeQueueServed : Obligations.WakeQueueServed := by
  refine ⟨fun s => ⟨fun nothing => offerLane_idle fun n p head => ?_, fun idle credit =>
      ⟨fun n rest => offerLane_confirm idle credit, fun n rest o hc hs => offerLane_sweep idle credit hc hs⟩⟩,
    fun s n => ⟨offerConfirm_room, fun front k => offerConfirm_evicts, offerConfirm_refused⟩⟩
  refine Bool.eq_false_iff.mpr fun may => ?_
  obtain ⟨idle, credit, spend⟩ := (mayStart_iff _ _).mp may
  rcases nothing with ⟨hc, hs⟩ | busy | poor | ⟨hc, spent⟩
  · simp only [Sched.head, hc, hs, reduceCtorEq] at head
  · rw [idle] at busy
    cases busy
  · exact absurd credit (Nat.not_le.mpr poor)
  · rcases spend with confirm | budget
    · rw [head_purpose hc head] at confirm
      cases confirm
    · obtain ⟨o, ho, left⟩ := (lt_budget_iff _ _).mp budget
      exact absurd (spent o ho) (Nat.ne_of_gt left)

/-- Settles O37: the pass timer by the open leg's mark, the refill in one step. -/
theorem passTimerAndRefill : Obligations.PassTimerAndRefill := by
  intro s awake
  have expires : exec .passTimerExpiry s = .next s.passExpires.finish := event_awake awake
  refine ⟨fun o ho running => ?_, fun expired => ?_, event_awake awake⟩
  · rw [expires, State.passExpires, ho]
    simp only [running, Bool.false_eq_true, if_false]
  · have kept : s.passExpires = s := by
      unfold State.passExpires
      split
      · rfl
      · rename_i o ho
        rw [if_pos (expired o ho)]
    rw [expires, kept]

section
variable {s : State} {x : Transmission} {e : Entry}

/-! ## The end of a transmission (R108 to R110) -/

theorem transmissionEffect_left (h : x.heard = true ∨ x.discarded = true) : s.transmissionEffect x = s :=
  if_pos h.symm

/-- The end of a sweep meter's transmission (R109, R110). -/
theorem transmissionEffect_sweep (unheard : x.heard = false) (kept : x.discarded = false)
    (he : s.entry? x.serial = some e) (sweep : x.purpose = .sweep) :
    s.transmissionEffect x =
      if e.st = .sending then
        if s.legIsOpen e.loaded.leg then (s.moveTo x.serial .await).startWindow x.serial
        else s.missMeter x.serial s.closedReason
      else s := by
  simp only [State.transmissionEffect, unheard, kept, he, sweep, Bool.false_eq_true, or_self, if_false]

/-- The end of a confirm meter's transmission (R109, R110). -/
theorem transmissionEffect_confirm (unheard : x.heard = false) (kept : x.discarded = false)
    (he : s.entry? x.serial = some e) (confirm : x.purpose = .confirm) :
    s.transmissionEffect x =
      if e.st = .verify ∧ s.candOf? x.serial = none ∧ s.legIsOpen e.loaded.leg then s.startWindow x.serial else s := by
  simp only [State.transmissionEffect, unheard, kept, he, confirm, Bool.false_eq_true, or_self, if_false]

end

/-- Settles O38: both ends free the lane and act by what the roster and the pool hold of the meter, which the fault's
flag and counter leave as they were. -/
theorem transmissionEnds : Obligations.TransmissionEnds := by
  intro s awake
  have done : exec .transmitDone s = .next s.transmitDone.finish := event_awake awake
  have timeout : exec .transmitTimeout s = .next s.transmitTimesOut.finish := event_awake awake
  refine ⟨fun idle => ?_, fun x hx => ⟨_, _, rfl, rfl, ?_, ?_, fun w hw => ?_⟩⟩
  · rw [done, State.transmitDone, idle]
  · rw [done, State.transmitDone, hx]
    rfl
  · rw [timeout, State.transmitTimesOut, hx]
    rfl
  · obtain ⟨roster, pool, win⟩ : w.roster = s.roster ∧ w.pool = s.pool ∧ w.sched.replyWin = s.sched.replyWin := by
      simp only [List.mem_cons, List.not_mem_nil, or_false] at hw
      rcases hw with rfl | rfl <;> exact ⟨rfl, rfl, rfl⟩
    refine ⟨transmissionEffect_left, fun e unheard kept he => ?_⟩
    have he : w.entry? x.serial = some e := by rw [State.entry?, roster]; exact he
    have opened : w.legIsOpen e.loaded.leg = true ↔ (s.leg e.loaded.leg).st = .opened := by
      rw [legIsOpen_iff, State.leg, roster]
      rfl
    have free : w.candOf? x.serial = s.candOf? x.serial := by rw [State.candOf?, pool]; rfl
    refine ⟨fun sweep sending isOpen => ?_, fun sweep sending notOpen => ?_, fun sweep other => ?_,
      fun confirm verify noCandidate isOpen => ?_, fun confirm other => ?_⟩
    · rw [transmissionEffect_sweep unheard kept he sweep, if_pos sending, if_pos (opened.mpr isOpen), State.startWindow,
        moveTo_sched, win]
    · rw [transmissionEffect_sweep unheard kept he sweep, if_pos sending, if_neg (mt opened.mp notOpen),
        State.closedReason, roster]
    · rw [transmissionEffect_sweep unheard kept he sweep, if_neg other]
    · rw [transmissionEffect_confirm unheard kept he confirm,
        if_pos ⟨verify, free.trans noCandidate, opened.mpr isOpen⟩, State.startWindow, win]
    · rw [transmissionEffect_confirm unheard kept he confirm, if_neg]
      rintro ⟨verify, noCandidate, isOpen⟩
      rcases other with moved | occupied | notOpen
      · exact moved verify
      · rw [← free, noCandidate] at occupied
        cases occupied
      · exact notOpen (opened.mp isOpen)

end Sys2Proof.Machine
end

section
/-!
PROOF. LEG OPEN (O33): the missed meters of the leg return to PENDING one after the other, and the scan after it admits
as many as the reply says.
-/

namespace Sys2Proof.Machine

section
variable {s : State} {n : Nat} {e : Entry} {l : Byte}

/-! ## Missed meters return (R98, step 2) -/

/-- A leg's counts after some of its MISSED meters have become PENDING (R21). -/
def Leg.returned (k : Nat) (g : Leg) : Leg :=
  { g with counts := { g.counts with missed := g.counts.missed - k, outstanding := g.counts.outstanding + k } }

theorem Leg.returned_returned (j k : Nat) (g : Leg) : (g.returned j).returned k = g.returned (k + j) := by
  simp only [Leg.returned, Nat.sub_sub, Nat.add_assoc, Nat.add_comm j k]

theorem updLeg_updLeg (l : Byte) (f g : Leg → Leg) (s : State) :
    (s.updLeg l f).updLeg l g = s.updLeg l fun k => g (f k) := by
  have own : (s.updLeg l f).leg l = f (s.leg l) := by rw [leg_updLeg, if_pos rfl]
  rw [State.updLeg, own]
  simp only [State.updLeg, Vector.set_set]

/-- A MISSED meter becomes PENDING: off the chain, and one count of its leg moves (R19, R21). -/
theorem moveTo_returned (he : s.entry? n = some e) (missed : e.st = .missed) (own : e.loaded.leg = l) :
    s.moveTo n .pending = State.updLeg l (Leg.returned 1) { s with
      roster.entries := s.roster.entries.map fun x => if x.loaded.serial = n then { x with st := .pending } else x,
      roster.missed := s.roster.missed.erase n } := by
  subst own
  rw [moveTo_eq .pending he, missed]
  rfl

theorem filter_unlisted_cons (chain : List Nat) (once : chain.Nodup) (n : Nat) (ns : List Nat) :
    (chain.erase n).filter (· ∉ ns) = chain.filter (· ∉ n :: ns) := by
  rw [once.erase_eq_filter, List.filter_filter]
  refine List.filter_congr fun k _ => ?_
  by_cases same : k = n <;> simp [same]

/-- MISSED meters of a leg become PENDING one after the other. -/
theorem returnMeters_eq (ns : List Nat) (once : ns.Nodup) (chain : s.roster.missed.Nodup)
    (missed : ∀ n ∈ ns, ∃ e, s.entry? n = some e ∧ e.st = .missed ∧ e.loaded.leg = l) :
    ns.foldl (fun t n => t.moveTo n .pending) s = State.updLeg l (Leg.returned ns.length) { s with
      roster.entries := s.roster.entries.map fun e =>
        if e.loaded.serial ∈ ns then { e with st := .pending } else e,
      roster.missed := s.roster.missed.filter (· ∉ ns) } := by
  induction ns generalizing s with
  | nil =>
    rw [updLeg_counts_same rfl]
    simp
  | cons n ns ih =>
    obtain ⟨fresh, once⟩ := List.nodup_cons.mp once
    obtain ⟨e, he, hst, own⟩ := missed n List.mem_cons_self
    have returned := moveTo_returned he hst own
    have others (k : Nat) (hk : k ∈ ns) :
        ∃ e, (s.moveTo n .pending).entry? k = some e ∧ e.st = .missed ∧ e.loaded.leg = l := by
      rw [entry?_moveTo_other .pending fun same => fresh (by rwa [← same])]
      exact missed k (List.mem_cons_of_mem _ hk)
    have off : (s.moveTo n .pending).roster.missed = s.roster.missed.erase n := by
      rw [returned, State.updLeg_roster_missed]
    rw [List.foldl_cons, ih once (by rw [off]; exact chain.erase n) others, returned]
    simp only [State.updLeg_roster_entries, State.updLeg_roster_missed, map_state_cons,
      filter_unlisted_cons _ chain]
    rw [show Leg.returned (n :: ns).length = fun g => (g.returned 1).returned ns.length from
      funext fun g => (g.returned_returned 1 ns.length).symm]
    refine Eq.trans ?_ (updLeg_updLeg l (Leg.returned 1) (Leg.returned ns.length) _)
    rfl

/-- The serials of a leg's MISSED meters. -/
def State.missedOf (l : Byte) (s : State) : List Nat := s.serialsWhere fun e => e.loaded.leg == l && e.st == .missed

theorem RosterInv.mem_missedOf (h : RosterInv s) (he : e ∈ s.roster.entries) :
    e.loaded.serial ∈ s.missedOf l ↔ e.loaded.leg = l ∧ e.st = .missed :=
  (h.mem_serialsWhere_iff he _).trans (by simp)

/-- While the route is ACTIVE a leg's missed count is the number of its MISSED meters (R21). -/
theorem RosterInv.length_missedOf (h : RosterInv s) (active : s.roster.phase = .active) (l : Byte) :
    (s.missedOf l).length = (s.leg l).counts.missed := by
  rw [h.counts (.inl active) l, countLeg_eq, State.missedOf, State.serialsWhere, List.length_map,
    ← List.countP_eq_length_filter]

/-- The chain without a leg's meters (R19). -/
theorem RosterInv.missed_unlisted (h : RosterInv s) (l : Byte) :
    s.roster.missed.filter (· ∉ s.missedOf l) = s.roster.missed.filter fun n =>
      !(s.roster.entries.any fun e => e.loaded.serial == n && e.loaded.leg == l) := by
  refine List.filter_congr fun n chained => ?_
  obtain ⟨e, he, rfl, missed⟩ := (h.chain n).mp chained
  have own : e.loaded.serial ∈ s.missedOf l ↔
      (s.roster.entries.any fun x => x.loaded.serial == e.loaded.serial && x.loaded.leg == l) = true := by
    rw [h.mem_missedOf he, List.any_eq_true]
    refine ⟨fun ⟨leg, _⟩ => ⟨e, he, by simp [leg]⟩, fun ⟨x, hx, same⟩ => ?_⟩
    simp only [Bool.and_eq_true, beq_iff_eq] at same
    obtain ⟨serial, leg⟩ := same
    have found := h.entry?_of_mem hx
    rw [serial, h.entry?_of_mem he] at found
    cases found
    exact ⟨leg, missed⟩
  simp only [own, Bool.not_eq_true, Bool.decide_eq_false]

/-- Step 2 of R98 on a true roster. -/
theorem RosterInv.returnMissed_eq (h : RosterInv s) (l : Byte) :
    s.returnMissed l = State.updLeg l (Leg.returned (s.missedOf l).length) { s with
      roster.entries := s.roster.entries.map fun e =>
        if e.loaded.serial ∈ s.missedOf l then { e with st := .pending } else e,
      roster.missed := s.roster.missed.filter (· ∉ s.missedOf l) } := by
  refine returnMeters_eq _ (h.serialsWhere_nodup _) h.chainOnce fun n hn => ?_
  obtain ⟨e, he, _, rfl⟩ := mem_serialsWhere.mp hn
  obtain ⟨own, missed⟩ := (h.mem_missedOf he).mp hn
  exact ⟨e, h.entry?_of_mem he, missed, own⟩

/-! ## The opened leg (R98, steps 1 to 5) -/

theorem attemptsReset_iff (st : EntryState) :
    st.attemptsReset = true ↔ st = .pending ∨ st = .missed ∨ st = .excluded := by
  cases st <;> simp [EntryState.attemptsReset]

/-- A meter of the leg after steps 2 and 3 of R98. -/
def Entry.reopened (e : Entry) : Entry :=
  { e with st := if e.st = .missed then .pending else e.st,
           attempts := if e.st = .pending ∨ e.st = .missed ∨ e.st = .excluded then 0 else e.attempts }

/-- The opened leg spelled out: the leg, its meters, the chain and the open-leg record, and nothing else. -/
theorem RosterInv.openedLeg_eq (h : RosterInv s) (active : s.roster.phase = .active) (l : Byte) :
    s.openedLeg l = State.updLeg l (fun g => Leg.returned (s.leg l).counts.missed { g with st := .opened }) { s with
      sched.openLeg := some
        { leg := l, passLeft := passTime (s.leg l).passCode, passExpired := false, budget := (s.leg l).budget.toNat,
          settled := false },
      roster.entries := s.roster.entries.map fun e => if e.loaded.leg = l then e.reopened else e,
      roster.missed := s.roster.missed.filter fun n =>
        !(s.roster.entries.any fun e => e.loaded.serial == n && e.loaded.leg == l) } := by
  have entries : (s.roster.entries.map fun e =>
        if e.loaded.serial ∈ s.missedOf l then { e with st := .pending } else e).map
          (fun e => if e.loaded.leg = l ∧ e.st.attemptsReset then { e with attempts := 0 } else e) =
      s.roster.entries.map fun e => if e.loaded.leg = l then e.reopened else e := by
    rw [List.map_map]
    refine List.map_congr_left fun e he => ?_
    simp only [Function.comp_apply, h.mem_missedOf he, Entry.reopened, ← attemptsReset_iff]
    by_cases own : e.loaded.leg = l
    · by_cases missed : e.st = .missed
      · simp [own, missed, EntryState.attemptsReset]
      · simp only [own, missed, and_false, if_false, true_and, if_true]
        split <;> rfl
    · simp [own]
  have returned := (h.openRecord l).returnMissed_eq l
  rw [show (s.openRecord l).missedOf l = s.missedOf l from rfl, h.length_missedOf active,
    show (s.openRecord l).roster.missed = s.roster.missed from rfl, h.missed_unlisted l] at returned
  rw [State.openedLeg, returned, ← entries]
  refine Eq.trans ?_ (updLeg_updLeg l (fun g => { g with st := .opened })
    (Leg.returned (s.leg l).counts.missed) _)
  rfl

/-! ## The command -/

theorem RosterInv.length_sweeps_scan (h : RosterInv s) :
    s.scan.sched.sweeps.length - s.sched.sweeps.length = s.scanPick.length := by
  rw [h.scan_eq, List.length_append, Nat.add_sub_cancel_left]

theorem exec_legOpen (h : Listening s) (free : s.longOp = false) (active : s.roster.phase = .active)
    (noLeg : s.sched.openLeg = none) (valid : l ≠ 255#8) :
    let u := s.received.openedLeg l
    exec (.legOpen [l]) s = .next (State.finish (u.afterOpening.replied .legOpen .done
      ([BitVec.ofNat 8 u.scanPick.length] ++ (u.leg l).counts.bytes))) := by
  have closed : s.received.sched.openLeg.isSome = false := by
    rw [show s.received.sched = s.sched from rfl, noLeg, Option.isSome_none]
  refine exec_carried (c := .legOpen) h (by rw [active]; rfl) (.inl free) (.inl (by decide)) ?_
  simp only [State.carryOut, State.doLegOpen, parseOpenLeg_some valid, closed, Bool.false_eq_true, if_false]

end

/-- Settles O33: the state after steps 1 to 5 is the opened leg of the received frame's state. -/
theorem legOpenOpens : Obligations.LegOpenOpens := by
  intro s l h inv free active noLeg valid
  have inv' : RosterInv s.received := inv.congr rfl
  have opened := inv'.openedLeg_eq active l
  have admitted := (inv'.openedLeg l).length_sweeps_scan
  have executed := exec_legOpen h free active noLeg valid
  have leg (k : Byte) : (s.received.openedLeg l).leg k =
      if k = l then Leg.returned (s.leg l).counts.missed { s.leg l with st := .opened } else s.leg k := by
    rw [opened, leg_updLeg]
    rfl
  refine ⟨s.received.openedLeg l, ?_, ?_, ?_, ?_, fun k other => ?_, ?_, ?_⟩
  · rw [opened]
    rfl
  · rw [opened]
    rfl
  · rw [opened]
    rfl
  · rw [leg, if_pos rfl, Leg.returned, Nat.sub_self]
  · rw [leg, if_neg other]
  · rw [opened]
    rfl
  · rw [admitted]
    exact executed

end Sys2Proof.Machine
end

section
/-!
PROOF. The store: what each row does to it (R119). Only the end of a flash operation touches it, so every step keeps its
canonical form (O6) and every byte outside the operation (O12).
-/

namespace Sys2Proof.Machine

/-! ## What leaves the store as it is -/

theorem Moves.store {s t : State} (h : Moves s t) : t.flash.store = s.flash.store := by rw [h.flash]

theorem store_of_outer {s t : State} (h : t.outer = s.outer) : t.flash.store = s.flash.store := by
  have e := congrArg (fun x : State => x.flash.store) h
  exact e

theorem store_chooseBatch (s : State) : s.chooseBatch.flash.store = s.flash.store := store_of_outer (outer_chooseBatch s)

theorem store_nextErase (s : State) : s.nextErase.flash.store = s.flash.store := store_of_outer (outer_nextErase s)

theorem store_sealsChanged (s : State) : s.sealsChanged.flash.store = s.flash.store := by
  unfold State.sealsChanged
  split
  · exact store_chooseBatch s
  · rfl

theorem store_uploadSlotEnded (s : State) : s.uploadSlotEnded.flash.store = s.flash.store := by
  unfold State.uploadSlotEnded
  split
  · split
    · unfold State.slotRead
      split <;> rfl
    · rfl
  · rfl

theorem store_uploadDataEnded (s : State) : s.uploadDataEnded.flash.store = s.flash.store := by
  unfold State.uploadDataEnded
  split
  · split
    · unfold State.dataRead
      split <;> rfl
    · rfl
  · rfl

theorem store_uploadReadFailed (s : State) : s.uploadReadFailed.flash.store = s.flash.store := by
  unfold State.uploadReadFailed
  split
  · split <;> rfl
  · split <;> rfl
  · rfl

theorem store_ackExpired (s : State) : s.ackExpired.flash.store = s.flash.store := by
  unfold State.ackExpired
  split <;> rfl

theorem store_frameArrives (k : Byte) (b : List Byte) (g : Bool) (s : State) :
    (s.frameArrives k b g).flash.store = s.flash.store := by
  rcases frameArrives_cases k b g s with ⟨_, e⟩ | ⟨_, e⟩ | ⟨_, u, _, _, _, _, _, e, rfl | rfl | ⟨c, _, _, rfl⟩⟩
  · rw [e]; rfl
  · rw [e]; rfl
  · rw [e]; rfl
  · rw [e]; rfl
  · rw [e]; exact checkCommand_store c b s.received

theorem store_linkByte (x : Byte) (s : State) : (s.linkByte x).flash.store = s.flash.store := by
  rcases linkByte_cases x s with ⟨r, e⟩ | e | ⟨k, b, g, _, e⟩
  · rw [e]; rfl
  · rw [e]
  · rw [e]; exact store_frameArrives k b g s

theorem store_framingError (s : State) : s.framingError.flash.store = s.flash.store := by
  unfold State.framingError
  split <;> rfl

theorem store_gapExpires (s : State) : s.gapExpires.flash.store = s.flash.store := by
  unfold State.gapExpires
  split <;> rfl

/-- The end of a frame sent keeps the store, also where a RESTART takes effect (R141). -/
theorem store_frameSent (straps : BitVec 2) (s : State) : (s.frameSent straps).flash.store = s.flash.store := by
  unfold State.frameSent
  split
  · rfl
  · split <;> rfl
  · unfold State.tailSent
    split <;> rfl
  · rfl
  · rfl

theorem store_laneStarts (i : Fin 4) (s : State) : (s.laneStarts i).flash.store = s.flash.store := by
  obtain ⟨k, e⟩ := laneStarts_intake i s
  rw [e]

theorem store_laneByte (i : Fin 4) (b : Byte) (s : State) : (s.laneByte i b).flash.store = s.flash.store := by
  obtain ⟨k, e⟩ := laneByte_intake i b s
  rw [e]

theorem store_laneEnds (i : Fin 4) (s : State) : (s.laneEnds i).flash.store = s.flash.store := by
  obtain ⟨k, h | ⟨u, c, before, _, _, after⟩⟩ := laneEnds_moves i s
  · exact h.store
  · exact after.store.trans before.store

theorem store_refills (s : State) : s.refills.flash.store = s.flash.store := (moves_offerLane _).store.trans rfl

theorem store_tick (s : State) : s.tick.flash.store = s.flash.store := by
  unfold State.tick
  split <;> rfl

/-! ## Start-up and the recovery scan -/

theorem store_recoveryEnds (r : Recovery) (st : JournalState) (o : OpResult) (s : State) :
    (s.recoveryEnds r st o).flash.store = s.flash.store := by
  unfold State.recoveryEnds
  refine (moves_testLow _).store.trans ?_
  dsimp only
  split <;> rfl

theorem store_nextSeal (r : Recovery) (spans : List Span) (full : Bool) (s : State) :
    (s.nextSeal r spans full).flash.store = s.flash.store := by
  unfold State.nextSeal
  split
  · exact store_recoveryEnds ..
  · split
    · exact store_recoveryEnds ..
    · rfl

theorem store_searchPage (r : Recovery) (torn page : Nat) (recs : List (Nat × Nat)) (s : State) :
    (s.searchPage r torn page recs).flash.store = s.flash.store := by
  unfold State.searchPage
  split
  · rfl
  · exact store_nextSeal ..

theorem store_walkTo (r : Recovery) (p : Nat) (recs : List (Nat × Nat)) (s : State) :
    (s.walkTo r p recs).flash.store = s.flash.store := by
  unfold State.walkTo
  split
  · exact store_nextSeal ..
  · split
    · exact store_searchPage ..
    · rfl

theorem store_walkRead (r : Recovery) (p : Nat) (recs : List (Nat × Nat)) (bs : List Byte) (s : State) :
    (s.walkRead r p recs bs).flash.store = s.flash.store := by
  unfold State.walkRead
  split
  · split
    · exact store_nextSeal ..
    · exact store_searchPage ..
  · split
    · exact store_walkTo ..
    · exact store_searchPage ..

theorem store_nextSlot (r : Recovery) (s : State) : (s.nextSlot r).flash.store = s.flash.store := by
  unfold State.nextSlot
  split
  · exact store_walkTo ..
  · rfl

theorem store_slotWalked (r : Recovery) (bs : List Byte) (s : State) :
    (s.slotWalked r bs).flash.store = s.flash.store := by
  unfold State.slotWalked
  split
  · exact store_walkTo ..
  · split <;> exact store_nextSlot ..

theorem store_scanReadGood (r : Recovery) (bs : List Byte) (s : State) :
    (s.scanReadGood r bs).flash.store = s.flash.store := by
  unfold State.scanReadGood
  split
  · exact store_slotWalked ..
  · exact store_walkRead ..
  · split
    · exact store_nextSeal ..
    · exact store_searchPage ..
  · rfl

theorem store_recoveryReadEnded (good : Bool) (s : State) :
    (s.recoveryReadEnded good).flash.store = s.flash.store := by
  unfold State.recoveryReadEnded
  split
  · split
    · exact (store_scanReadGood ..).trans rfl
    · exact (store_recoveryEnds _ _ _ s.freePort).trans rfl
  · rfl

theorem store_sealProgrammed (r : Recovery) (s : State) : (s.sealProgrammed r).flash.store = s.flash.store := by
  unfold State.sealProgrammed
  split
  · exact store_nextSeal ..
  · rfl

theorem store_readyTimedOut (s : State) : s.readyTimedOut.flash.store = s.flash.store := by
  unfold State.readyTimedOut
  split <;> rfl

theorem store_identified (c : Byte) (s : State) : (s.identified c).flash.store = s.flash.store := by
  unfold State.identified
  split
  · split <;> rfl
  · rfl

theorem store_identTimedOut (s : State) : s.identTimedOut.flash.store = s.flash.store := by
  unfold State.identTimedOut
  split <;> rfl

/-! ## The rebuild scan -/

theorem store_offerRecord (bs : List Byte) (s : State) : (s.offerRecord bs).flash.store = s.flash.store := by
  obtain ⟨r, l, e⟩ := offerRecord_frame bs s
  rw [e]

theorem store_placeEntries (ns : List Nat) (st : EntryState) (s : State) :
    (ns.foldl (fun t n => t.placeEntry n st) s).flash.store = s.flash.store := by
  refine store_of_outer (outer_foldl _ (fun t n => ?_) ns s)
  unfold State.placeEntry
  split <;> rfl

theorem store_rebuildEnds (s : State) : s.rebuildEnds.flash.store = s.flash.store := by
  have opened (t : State) : (({ t.recount with
      roster.phase := .active, roster.routeClock := 0, roster.routeMs := 0, roster.rebuild := none,
      journal.lastResult := .good } : State).setFlag .commitDone).flash.store = t.flash.store := rfl
  unfold State.rebuildEnds
  exact (opened _).trans (store_placeEntries _ .missed s)

theorem store_rebuildSlots (rb : Rebuild) (s : State) : (s.rebuildSlots rb).flash.store = s.flash.store := by
  unfold State.rebuildSlots
  split
  · rfl
  · unfold State.rebuildOpen
    split
    · split
      · rfl
      · exact store_rebuildEnds s
    · exact store_rebuildEnds s

theorem store_rebuildBatchDone (rb : Rebuild) (last : Bool) (s : State) :
    (s.rebuildBatchDone rb last).flash.store = s.flash.store := by
  unfold State.rebuildBatchDone
  split
  · exact store_rebuildEnds s
  · exact store_rebuildSlots rb s

theorem store_rebuildAt (rb : Rebuild) (pos stop : Nat) (last : Bool) (s : State) :
    (s.rebuildAt rb pos stop last).flash.store = s.flash.store := by
  unfold State.rebuildAt
  split
  · rfl
  · exact store_rebuildBatchDone rb last s

theorem store_rebuildReadGood (rb : Rebuild) (bs : List Byte) (s : State) :
    (s.rebuildReadGood rb bs).flash.store = s.flash.store := by
  unfold State.rebuildReadGood
  split
  · rfl
  · unfold State.rebuildSlotRead
    split
    · exact store_rebuildSlots _ s
    · dsimp only
      split
      · exact store_rebuildSlots _ s
      · exact store_rebuildAt _ _ _ _ s
  · unfold State.rebuildRecordRead
    dsimp only
    split
    · exact (store_rebuildAt ..).trans (store_offerRecord _ s)
    · exact store_rebuildBatchDone rb _ s.countBadRecord

theorem store_rebuildBegins (s : State) : s.rebuildBegins.flash.store = s.flash.store := by
  unfold State.rebuildBegins
  split
  · split
    · exact store_rebuildSlots _ s
    · rfl
  · rfl

theorem store_rebuildReadEnded (good : Bool) (s : State) :
    (s.rebuildReadEnded good).flash.store = s.flash.store := by
  unfold State.rebuildReadEnded
  split
  · split
    · exact (store_rebuildReadGood _ _ s.freePort).trans rfl
    · rfl
  · rfl

/-! ## The ends of operations -/

theorem store_journalFault (off : Nat) (issued : Bool) (s : State) :
    (s.journalFault off issued).flash.store = s.flash.store := by
  unfold State.journalFault
  dsimp only
  split
  · exact (store_sealsChanged _).trans ((moves_retry _).store.trans rfl)
  · rfl

theorem store_markFailed (slot : Nat) (s : State) : (s.markFailed slot).flash.store = s.flash.store := by
  have faulted := store_journalFault (slot + 15) false s
  unfold State.markFailed
  dsimp only
  split <;> exact faulted

theorem store_markGood (slot : Nat) (s : State) : (s.markGood slot).flash.store = s.flash.store := by
  unfold State.markGood
  dsimp only
  split
  · exact (store_chooseBatch _).trans rfl
  · rfl

theorem store_batchJoins (s : State) : s.batchJoins.flash.store = s.flash.store := by
  unfold State.batchJoins
  split
  · rfl
  · exact (store_sealsChanged _).trans rfl

/-- The store after a row: as it was, or as an operation in progress or left unfinished leaves it (R119, R142). -/
def StoreAfter (s t : State) : Prop :=
  t.flash.store = s.flash.store ∨
    ∃ r e, (s.flash.port = some r ∨ s.flash.unfinished = some r) ∧ t.flash.store = r.effect e s.flash.store

theorem StoreAfter.ended {s t : State} {r : FlashReq} {e : FlashEnd} (hp : s.flash.port = some r)
    (h : t.flash.store = (s.endOp r e).flash.store) : StoreAfter s t := .inr ⟨r, e, .inl hp, h⟩

theorem storeAfter_pageEnded (s : State) : StoreAfter s s.pageEnded := by
  unfold State.pageEnded
  split
  · rename_i hp
    exact .ended hp ((moves_retry _).store.trans rfl)
  · exact .inl rfl

theorem storeAfter_indexEnded (s : State) : StoreAfter s s.indexEnded := by
  unfold State.indexEnded
  split
  · rename_i hp
    exact .ended hp (store_batchJoins _)
  · exact .inl rfl

theorem storeAfter_markEnded (e : FlashEnd) (s : State) : StoreAfter s (s.markEnded e) := by
  unfold State.markEnded
  split
  · rename_i hp
    split
    · exact .ended hp (store_markGood _ _)
    · exact .ended hp (store_markFailed _ _)
  · exact .inl rfl

theorem storeAfter_programFailed (left : List Byte) (s : State) : StoreAfter s (s.programFailed left) := by
  unfold State.programFailed
  split
  · rename_i hp
    exact .ended hp (store_journalFault _ _ _)
  · rename_i hp
    exact .ended hp (store_journalFault _ _ _)
  · rename_i hp
    exact .ended hp (store_markFailed _ _)
  · exact .inl rfl

theorem storeAfter_eraseEnded (e : FlashEnd) (s : State) : StoreAfter s (s.eraseEnded e) := by
  unfold State.eraseEnded
  split
  · rename_i hp
    split
    · exact .ended hp ((store_nextErase _).trans rfl)
    · exact .ended hp rfl
  · exact .inl rfl

theorem storeAfter_recoveryIndexEnded (e : FlashEnd) (s : State) : StoreAfter s (s.recoveryIndexEnded e) := by
  unfold State.recoveryIndexEnded
  split
  · rename_i hp _
    split
    · exact .ended hp (store_sealProgrammed _ _)
    · exact .ended hp (store_recoveryEnds ..)
  · exact .inl rfl

theorem storeAfter_anyProgramFailed (left : List Byte) (s : State) : StoreAfter s (s.anyProgramFailed left) := by
  unfold State.anyProgramFailed
  split
  · exact storeAfter_recoveryIndexEnded _ s
  · exact storeAfter_programFailed left s

/-- FLASH_READY ends what a reset left the flash to finish (R142, R143). -/
theorem storeAfter_flashIsReady (e : FlashEnd) (s : State) : StoreAfter s (s.flashIsReady e) := by
  unfold State.flashIsReady
  split
  · cases hu : s.flash.unfinished with
    | none => exact .inl rfl
    | some r => exact .inr ⟨r, e, .inr hu, rfl⟩
  · exact .inl rfl

/-! ## Every row -/

/-- The rows that end an operation in progress, and the flash's report that it is ready. -/
def Instr.endsOperation (i : Instr) : Prop :=
  i = .pageProgramEnd ∨ i = .indexProgramEnd ∨ (∃ l, i = .programFailure l) ∨ (∃ e, i = .markProgramEnd e) ∨
    (∃ e, i = .sectorEraseEnd e) ∨ (∃ e, i = .recoveryIndexProgramEnd e) ∨ (∃ e, i = .flashReady e)

/-- Only the end of an operation changes the store, and it leaves what that operation does. -/
theorem act_store (i : Instr) (s : State) :
    (s.act i).flash.store = s.flash.store ∨ (Instr.endsOperation i ∧ StoreAfter s (s.act i)) := by
  cases i
  case resetAssert => exact .inl rfl
  case resetRelease => exact .inl rfl
  case outboundFrameSent straps => exact .inl (store_frameSent straps s)
  case linkByteReceived x => exact .inl (store_linkByte x s)
  case linkFramingError => exact .inl (store_framingError s)
  case gapTimerExpiry => exact .inl (store_gapExpires s)
  case laneStart l => exact .inl (store_laneStarts l s)
  case laneByteReceived l b => exact .inl (store_laneByte l b s)
  case laneRecordTaken l => exact .inl (store_laneEnds l s)
  case holdExpiry n => exact .inl (moves_closeCand n false s).store
  case passTimerExpiry => exact .inl (moves_passExpires s).store
  case dutyRefill => exact .inl (store_refills s)
  case transmitDone => exact .inl (moves_transmitDone s).store
  case transmitTimeout => exact .inl (moves_transmitTimesOut s).store
  case sweepWindowEnd n => exact .inl (moves_sweepWindowEnded n s).store
  case confirmWindowEnd n => exact .inl (moves_confirmWindowEnded n s).store
  case pageProgramEnd => exact .inr ⟨.inl rfl, storeAfter_pageEnded s⟩
  case indexProgramEnd => exact .inr ⟨.inr (.inl rfl), storeAfter_indexEnded s⟩
  case programFailure l => exact .inr ⟨.inr (.inr (.inl ⟨l, rfl⟩)), storeAfter_anyProgramFailed l s⟩
  case markProgramEnd e => exact .inr ⟨.inr (.inr (.inr (.inl ⟨e, rfl⟩))), storeAfter_markEnded e s⟩
  case sectorEraseEnd e => exact .inr ⟨.inr (.inr (.inr (.inr (.inl ⟨e, rfl⟩)))), storeAfter_eraseEnded e s⟩
  case recoveryIndexProgramEnd e =>
    exact .inr ⟨.inr (.inr (.inr (.inr (.inr (.inl ⟨e, rfl⟩))))), storeAfter_recoveryIndexEnded e s⟩
  case flashReady e =>
    exact .inr ⟨.inr (.inr (.inr (.inr (.inr (.inr ⟨e, rfl⟩))))), storeAfter_flashIsReady e s⟩
  case rebuildScanStart => exact .inl (store_rebuildBegins s)
  case rebuildReadEnd g => exact .inl (store_rebuildReadEnded g s)
  case flashReadyTimeout => exact .inl (store_readyTimedOut s)
  case identificationResponse b0 b1 c => exact .inl (store_identified c s)
  case identificationTimeout => exact .inl (store_identTimedOut s)
  case recoveryReadEnd g => exact .inl (store_recoveryReadEnded g s)
  case uploadSlotReadEnd => exact .inl (store_uploadSlotEnded s)
  case uploadDataReadEnd => exact .inl (store_uploadDataEnded s)
  case uploadReadFailure => exact .inl (store_uploadReadFailed s)
  case ackTimerExpiry => exact .inl (store_ackExpired s)
  all_goals exact .inl (store_frameArrives _ _ _ s)

theorem exec_store {i : Instr} {s t : State} (h : exec i s = .next t) :
    t.flash.store = s.flash.store ∨ (Instr.endsOperation i ∧ StoreAfter s t) := by
  rcases exec_next h with ⟨_, rfl⟩ | ⟨straps, _, rfl⟩ | ⟨_, rfl⟩ | ⟨_, rfl⟩
  · exact .inl rfl
  · exact .inl rfl
  · exact .inl rfl
  · rw [StoreAfter, finish_store]
    exact act_store i s

/-- What an operation leaves keeps the canonical form. -/
theorem StoreAfter.wf {s t : State} (h : StoreAfter s t) (hs : Memory.wf s.flash.store) : Memory.wf t.flash.store := by
  rcases h with e | ⟨r, e, _, h⟩
  · rwa [e]
  · rw [h]
    exact wf_effect r e hs

/-- Settles O6: a millisecond leaves the store, and a row leaves it or ends an operation, whose effect is canonical. -/
theorem storeFormKept : Obligations.StoreFormKept := by
  intro s t hs h
  unfold step at h
  split at h
  · cases h
    rwa [store_tick]
  · rcases exec_store h with e | ⟨_, after⟩
    · rwa [e]
    · exact after.wf hs

/-- Settles O12: the row ends no operation, or the byte lies outside the span of the operation that it ends. -/
theorem storeKeptOutsideOperation : Obligations.StoreKeptOutsideOperation := by
  refine ⟨fun off len k bs b who => ⟨rfl, rfl, rfl, rfl, rfl, rfl, rfl⟩, fun i s t a h outside => ?_⟩
  rcases exec_store h with e | ⟨ends, e | ⟨r, e, held, h⟩⟩
  · rw [e]
  · rw [e]
  · rw [h]
    exact read1_effect r e _ (outside.resolve_right (not_not.mpr ends) r held)

end Sys2Proof.Machine
end

section
/-!
PROOF. The end of a step (O24): what the arbiter takes, what it and the journal ask the port for, and what the free port
issues.
-/

namespace Sys2Proof.Machine

/-! ## The arbiter (R179) -/

/-- The arbiter has the ready upload frame. -/
def State.frameTaken (f : UploadFrame) (s : State) : State :=
  { s with upload.ready := none, link.sending := some (.upload f) }

section
variable {s : State} {f : UploadFrame} {b : BatchInfo}

theorem arbitrate_busy {o : OutFrame} (h : s.link.sending = some o) : s.arbitrate = s := by
  simp only [State.arbitrate, h]

theorem arbitrate_reply {r : Reply} {rs : List Reply} (free : s.link.sending = none) (h : s.link.replies = r :: rs) :
    s.arbitrate = { s with link.replies := rs, link.sending := some (.reply r) } := by
  simp only [State.arbitrate, free, h]

theorem arbitrate_frame (free : s.link.sending = none) (h : s.link.replies = []) (hf : s.upload.ready = some f) :
    s.arbitrate = (s.frameTaken f).afterUploadTaken f := by
  simp only [State.arbitrate, free, h, hf, State.frameTaken]

theorem arbitrate_notice (free : s.link.sending = none) (h : s.link.replies = []) (hf : s.upload.ready = none) :
    s.arbitrate =
      { s with link.notices := s.link.notices.tail, link.sending := s.link.notices.head?.map OutFrame.notice } := by
  cases hn : s.link.notices with
  | cons n ns => simp only [State.arbitrate, free, h, hf, hn, List.tail_cons, List.head?_cons, Option.map_some]
  | nil =>
    have idle : s.arbitrate = s := by simp only [State.arbitrate, free, h, hf, hn]
    have kept : { s.link with notices := [], sending := none } = s.link := by rw [← hn, ← free]
    exact idle.trans (congrArg (fun l : Link => { s with link := l }) kept.symm)

theorem afterUploadTaken_tail (n : Nat) (c : Word16) (d : Bool) :
    s.afterUploadTaken (.tail n c d) = { s with upload.tailOut := true } := rfl

theorem afterUploadTaken_noBatch (hf : ∀ n c d, f ≠ .tail n c d) (hb : s.upload.batch = none) :
    s.afterUploadTaken f = s := by
  cases f with
  | tail n c d => exact absurd rfl (hf n c d)
  | head k => simp only [State.afterUploadTaken, hb]
  | data n off bs => simp only [State.afterUploadTaken, hb]

/-- A head or a data frame of a batch that is VOID or sent is followed by the tail (R158). -/
theorem afterUploadTaken_sent (hf : ∀ n c d, f ≠ .tail n c d) (hb : s.upload.batch = some b)
    (sent : b.void = true ∨ b.length ≤ s.upload.sendOffset) :
    let crc := if b.void then b.crc else s.upload.runCrc
    s.afterUploadTaken f =
      { s with upload.tailCrc := some crc, upload.ready := some (.tail b.number crc (crc != b.crc)) } := by
  cases f with
  | tail n c d => exact absurd rfl (hf n c d)
  | head k => simp only [State.afterUploadTaken, hb, if_pos sent, State.buildTail]
  | data n off bs => simp only [State.afterUploadTaken, hb, if_pos sent, State.buildTail]

/-- The read of a batch's next bytes, 240 at most (R157). -/
def Upload.nextRead (u : Upload) (b : BatchInfo) : FlashReq :=
  .read (.uploadData false) (b.first + u.sendOffset) (min 240 (b.length - u.sendOffset))

/-- Any other frame is followed by a read of the batch's next bytes (R156, R157). -/
theorem afterUploadTaken_more (hf : ∀ n c d, f ≠ .tail n c d) (hb : s.upload.batch = some b)
    (more : ¬ (b.void = true ∨ b.length ≤ s.upload.sendOffset)) :
    s.afterUploadTaken f = s.requestFlash (s.upload.nextRead b) := by
  cases f with
  | tail n c d => exact absurd rfl (hf n c d)
  | head k => simp only [State.afterUploadTaken, hb, if_neg more, State.requestData, Upload.nextRead]
  | data n off bs => simp only [State.afterUploadTaken, hb, if_neg more, State.requestData, Upload.nextRead]

end

/-- What the engine asks of the port once the arbiter has taken a frame (R156, R157, R158). -/
def Upload.readAfter (u : Upload) (f : UploadFrame) : List FlashReq :=
  match f, u.batch with
  | .tail _ _ _, _ => []
  | _, none => []
  | _, some b => if b.void = true ∨ b.length ≤ u.sendOffset then [] else [u.nextRead b]

theorem readAfter_other {u : Upload} {f : UploadFrame} (hf : ∀ n c d, f ≠ .tail n c d) :
    u.readAfter f =
      u.batch.elim [] fun b => if b.void = true ∨ b.length ≤ u.sendOffset then [] else [u.nextRead b] := by
  cases f with
  | tail n c d => exact absurd rfl (hf n c d)
  | head k => cases h : u.batch <;> simp only [Upload.readAfter, h, Option.elim]
  | data n off bs => cases h : u.batch <;> simp only [Upload.readAfter, h, Option.elim]

/-- The engine asks for nothing but reads. -/
theorem mem_readAfter {u : Upload} {f : UploadFrame} {x : FlashReq} (h : x ∈ u.readAfter f) :
    ∃ who off len, x = .read who off len := by
  unfold Upload.readAfter at h
  split at h
  · cases h
  · cases h
  · split at h
    · cases h
    · exact ⟨_, _, _, List.mem_singleton.mp h⟩

/-- The engine's going on leaves the link and the journal, and adds its read to the queue. -/
theorem afterUploadTaken_frame (f : UploadFrame) (s : State) :
    (s.afterUploadTaken f).link = s.link ∧ (s.afterUploadTaken f).journal = s.journal ∧
      (s.afterUploadTaken f).flash = { s.flash with waiting := s.flash.waiting ++ s.upload.readAfter f } := by
  by_cases tail : ∃ n c d, f = .tail n c d
  · obtain ⟨n, c, d, rfl⟩ := tail
    exact ⟨rfl, rfl, by simp [afterUploadTaken_tail, Upload.readAfter]⟩
  · have other : ∀ n c d, f ≠ .tail n c d := fun n c d e => tail ⟨n, c, d, e⟩
    rw [readAfter_other other]
    cases hb : s.upload.batch with
    | none =>
      rw [afterUploadTaken_noBatch other hb]
      exact ⟨rfl, rfl, by simp⟩
    | some b =>
      by_cases sent : b.void = true ∨ b.length ≤ s.upload.sendOffset
      · rw [afterUploadTaken_sent other hb sent]
        exact ⟨rfl, rfl, by simp [sent]⟩
      · rw [afterUploadTaken_more other hb sent]
        refine ⟨rfl, rfl, ?_⟩
        simp only [Option.elim, if_neg sent]
        rfl

/-- What the arbiter's choice asks of the port. -/
def State.dataAsked (s : State) : List FlashReq :=
  match s.link.sending, s.link.replies, s.upload.ready with
  | none, [], some f => s.upload.readAfter f
  | _, _, _ => []

theorem arbitrate_frames (s : State) : s.arbitrate.journal = s.journal ∧
    s.arbitrate.flash = { s.flash with waiting := s.flash.waiting ++ s.dataAsked } := by
  cases busy : s.link.sending with
  | some o =>
    rw [arbitrate_busy busy]
    exact ⟨rfl, by simp [State.dataAsked, busy]⟩
  | none =>
    cases hr : s.link.replies with
    | cons r rs =>
      rw [arbitrate_reply busy hr]
      exact ⟨rfl, by simp [State.dataAsked, hr]⟩
    | nil =>
      cases hf : s.upload.ready with
      | none =>
        rw [arbitrate_notice busy hr hf]
        exact ⟨rfl, by simp [State.dataAsked, hf]⟩
      | some f =>
        obtain ⟨_, journal, flash⟩ := afterUploadTaken_frame f (s.frameTaken f)
        have asked : s.dataAsked = (s.frameTaken f).upload.readAfter f := by
          simp only [State.dataAsked, busy, hr, hf]
          rfl
        rw [arbitrate_frame busy hr hf, asked]
        exact ⟨journal, flash⟩

theorem mem_dataAsked {s : State} {x : FlashReq} (h : x ∈ s.dataAsked) : ∃ who off len, x = .read who off len := by
  unfold State.dataAsked at h
  split at h
  · exact mem_readAfter h
  · cases h

theorem dataAsked_more {s : State} {f : UploadFrame} {b : BatchInfo} (free : s.link.sending = none)
    (idle : s.link.replies = []) (ready : s.upload.ready = some f) (batch : s.upload.batch = some b)
    (other : ∀ n c d, f ≠ .tail n c d) (plain : b.void = false) (more : s.upload.sendOffset < b.length) :
    s.dataAsked = [s.upload.nextRead b] := by
  simp only [State.dataAsked, free, idle, ready]
  rw [readAfter_other other, batch]
  exact if_neg (by simp [plain, more])

theorem dataAsked_nil {s : State} (h : s.link.sending.isSome ∨ s.link.replies ≠ [] ∨ s.upload.ready = none ∨
    (∃ n c d, s.upload.ready = some (.tail n c d)) ∨
    (∃ b, s.upload.batch = some b ∧ (b.void = true ∨ b.length ≤ s.upload.sendOffset))) : s.dataAsked = [] := by
  unfold State.dataAsked
  split
  · rename_i f free idle ready
    rw [free, idle, ready] at h
    rcases h with h | h | h | ⟨n, c, d, h⟩ | ⟨b, batch, sent⟩
    · cases h
    · exact absurd rfl h
    · cases h
    · cases h
      rfl
    · by_cases tail : ∃ n c d, f = .tail n c d
      · obtain ⟨n, c, d, rfl⟩ := tail
        rfl
      · rw [readAfter_other fun n c d e => tail ⟨n, c, d, e⟩, batch]
        exact if_pos sent
  · rfl

/-! ## The journal's programs (R126, R129) -/

theorem portHas_page (s : State) : s.portHas FlashReq.isPage = true ↔
    ∃ o bs, s.flash.port = some (.page o bs) ∨ FlashReq.page o bs ∈ s.flash.waiting := by
  have page (r : FlashReq) : r.isPage = true ↔ ∃ o bs, r = .page o bs := by
    cases r <;> simp [FlashReq.isPage]
  simp only [State.portHas, Bool.or_eq_true, Option.any_eq_true, List.any_eq_true, page]
  constructor
  · rintro (⟨_, h, o, bs, rfl⟩ | ⟨_, h, o, bs, rfl⟩)
    · exact ⟨o, bs, .inl h⟩
    · exact ⟨o, bs, .inr h⟩
  · rintro ⟨o, bs, h | h⟩
    · exact .inl ⟨_, h, o, bs, rfl⟩
    · exact .inr ⟨_, h, o, bs, rfl⟩

/-- The page program that the buffer asks for. -/
def State.pageAsked (s : State) : List FlashReq :=
  if s.journal.held = [] ∨ s.portHas FlashReq.isPage then []
  else [.page s.journal.progEnd (s.journal.held.take (256 - s.journal.progEnd % 256))]

theorem requestPage_eq (s : State) :
    s.requestPage = { s with flash.waiting := s.flash.waiting ++ s.pageAsked } := by
  unfold State.requestPage State.pageAsked
  split
  · simp
  · rfl

theorem pageAsked_held {s : State} (held : s.journal.buffer.flatten ≠ [])
    (free : ∀ o bs, s.flash.port ≠ some (.page o bs) ∧ FlashReq.page o bs ∉ s.flash.waiting) :
    s.pageAsked =
      [.page s.journal.progEnd (s.journal.buffer.flatten.take (256 - s.journal.progEnd % 256))] := by
  refine if_neg ?_
  rintro (h | h)
  · exact held h
  · obtain ⟨o, bs, h | h⟩ := (portHas_page s).mp h
    · exact (free o bs).1 h
    · exact (free o bs).2 h

theorem pageAsked_nil {s : State} (h : s.journal.buffer.flatten = [] ∨
    ∃ o bs, s.flash.port = some (.page o bs) ∨ FlashReq.page o bs ∈ s.flash.waiting) : s.pageAsked = [] :=
  if_pos (h.imp_right (portHas_page s).mpr)

/-- The index program that the seal list asks for, and the seal list after it. -/
def Journal.indexAsked (j : Journal) : List FlashReq × List SealedBatch :=
  match j.seals with
  | [] => ([], [])
  | b :: rest =>
    if b.requested ∨ j.progEnd < b.first + b.length then ([], b :: rest)
    else ([.index b.slot b.bytes], { b with requested := true } :: rest)

theorem requestIndex_eq (s : State) : s.requestIndex =
    { s with flash.waiting := s.flash.waiting ++ s.journal.indexAsked.1, journal.seals := s.journal.indexAsked.2 } := by
  unfold State.requestIndex Journal.indexAsked
  cases h : s.journal.seals with
  | nil =>
    simp only [List.append_nil]
    rw [← h]
  | cons b rest =>
    simp only
    split
    · simp only [List.append_nil]
      rw [← h]
    · rfl

theorem indexAsked_front {j : Journal} {b : SealedBatch} {rest : List SealedBatch} (h : j.seals = b :: rest)
    (new : b.requested = false) (programmed : b.first + b.length ≤ j.progEnd) :
    j.indexAsked = ([.index b.slot (indexBytes b.number b.first b.length b.count b.leg 0 b.crc)],
      { b with requested := true } :: rest) := by
  simp only [Journal.indexAsked, h]
  exact if_neg (by simp [new, programmed])

theorem indexAsked_nil {j : Journal}
    (h : ∀ b rest, j.seals = b :: rest → b.requested = true ∨ j.progEnd < b.first + b.length) :
    j.indexAsked = ([], j.seals) := by
  cases hs : j.seals with
  | nil => simp only [Journal.indexAsked, hs]
  | cons b rest =>
    simp only [Journal.indexAsked, hs]
    exact if_pos (h b rest hs)

/-! ## The port (R120, R127) -/

theorem rank_le (r : FlashReq) : r.rank ≤ 3 := by
  cases r <;> simp [FlashReq.rank]

/-- Of the waiting requests of the least rank the first is issued, but no read while the journal is ERASING. -/
theorem nextRequest_least {front back : List FlashReq} {r : FlashReq} {erasing : Bool}
    (before : ∀ x ∈ front, r.rank < x.rank) (after : ∀ x ∈ back, r.rank ≤ x.rank)
    (allowed : r.rank = 3 → erasing = false) : nextRequest (front ++ r :: back) erasing = some r := by
  have skipped {k : Nat} (hk : k < r.rank) : (front ++ r :: back).find? (fun x => x.rank == k) = none := by
    simp only [List.find?_eq_none, List.mem_append, List.mem_cons, beq_iff_eq]
    rintro x (hx | rfl | hx)
    · have := before x hx
      omega
    · omega
    · have := after x hx
      omega
  have found : (front ++ r :: back).find? (fun x => x.rank == r.rank) = some r := by
    have passed : front.find? (fun x => x.rank == r.rank) = none := by
      simp only [List.find?_eq_none, beq_iff_eq]
      intro x hx same
      exact absurd (before x hx) (by omega)
    rw [List.find?_append, passed, Option.none_or, List.find?_cons_of_pos (by simp)]
  have bound := rank_le r
  unfold nextRequest
  interval_cases h : r.rank
  · rw [found]
    rfl
  · rw [skipped (k := 0) (by omega), found]
    rfl
  · rw [skipped (k := 0) (by omega), skipped (k := 1) (by omega), found]
    rfl
  · rw [skipped (k := 0) (by omega), skipped (k := 1) (by omega), skipped (k := 2) (by omega), found, allowed rfl]
    rfl

theorem nextRequest_reads {w : List FlashReq} {erasing : Bool} (h : ∀ r ∈ w, r.rank = 3 ∧ erasing = true) :
    nextRequest w erasing = none := by
  have skipped {k : Nat} (hk : k < 3) : w.find? (fun x => x.rank == k) = none := by
    simp only [List.find?_eq_none, beq_iff_eq]
    intro x hx same
    have := (h x hx).1
    omega
  unfold nextRequest
  rw [skipped (k := 0) (by omega), skipped (k := 1) (by omega), skipped (k := 2) (by omega)]
  cases w with
  | nil => cases erasing <;> rfl
  | cons r rest => rw [(h r (List.mem_cons_self ..)).2]; rfl

section
variable {s : State} {r : FlashReq}

theorem issue_busy (h : s.flash.port = some r) : s.issue = s := by
  simp only [State.issue, h]

theorem issue_none (free : s.flash.port = none)
    (h : nextRequest s.flash.waiting (s.journal.st == .erasing) = none) : s.issue = s := by
  simp only [State.issue, free, h]

theorem issue_some (free : s.flash.port = none)
    (h : nextRequest s.flash.waiting (s.journal.st == .erasing) = some r) :
    s.issue =
      { s with flash.port := some r, flash.waiting := s.flash.waiting.erase r, flash.portLeft := r.limit } := by
  simp only [State.issue, free, h]

end

/-- Issuing changes the port alone: it moves a request there from the queue at most. -/
theorem issue_frame (s : State) :
    s.issue = { s with flash := s.issue.flash } ∧ (∀ r ∈ s.issue.flash.waiting, r ∈ s.flash.waiting) ∧
      ∀ r ∈ s.flash.waiting, r ∈ s.issue.flash.waiting ∨ s.issue.flash.port = some r := by
  cases busy : s.flash.port with
  | some r =>
    rw [issue_busy busy]
    exact ⟨rfl, fun _ h => h, fun _ h => .inl h⟩
  | none =>
    cases next : nextRequest s.flash.waiting (s.journal.st == .erasing) with
    | none =>
      rw [issue_none busy next]
      exact ⟨rfl, fun _ h => h, fun _ h => .inl h⟩
    | some q =>
      rw [issue_some busy next]
      refine ⟨rfl, fun r h => List.mem_of_mem_erase h, fun r h => ?_⟩
      by_cases same : r = q
      · exact .inr (by rw [same])
      · exact .inl ((List.mem_erase_of_ne same).mpr h)

/-! ## The whole end of a step -/

/-- The state that the port chooses from: the arbiter has taken its frame and every program has been asked for. -/
def State.asked (s : State) : State := s.arbitrate.requestPage.requestIndex

theorem finish_asked (s : State) : s.finish = s.asked.issue.refreshLines := rfl

/-- What waits before the port chooses: the queue, then the arbiter's read, then the journal's programs. -/
theorem asked_eq (s : State) : s.asked =
    { s.arbitrate with
      flash := { s.flash with
        waiting := s.flash.waiting ++ s.dataAsked ++ s.pageAsked ++ s.journal.indexAsked.1 },
      journal := { s.journal with seals := s.journal.indexAsked.2 } } := by
  obtain ⟨journal, flash⟩ := arbitrate_frames s
  have pages : s.arbitrate.portHas FlashReq.isPage = s.portHas FlashReq.isPage := by
    have none : s.dataAsked.any FlashReq.isPage = false := by
      rw [List.any_eq_false]
      intro x hx
      obtain ⟨who, off, len, rfl⟩ := mem_dataAsked hx
      exact Bool.false_ne_true
    rw [State.portHas, State.portHas, flash]
    simp only [List.any_append, none, Bool.or_false]
  have page : s.arbitrate.pageAsked = s.pageAsked := by rw [State.pageAsked, State.pageAsked, journal, pages]
  rw [State.asked, requestIndex_eq, requestPage_eq, page]
  simp only [flash, journal]

section
variable {s : State}

/-- What the arbiter leaves of the link and the upload is what the step leaves, the attention line apart. -/
theorem finish_arbitrate (s : State) : s.finish.link = { s.arbitrate.link with attention := s.finish.link.attention } ∧
    s.finish.upload = s.arbitrate.upload := by
  rw [finish_asked, (issue_frame s.asked).1, asked_eq]
  exact ⟨rfl, rfl⟩

theorem finish_flash (s : State) : s.finish.flash = s.asked.issue.flash := rfl

theorem finish_journal (s : State) : s.finish.journal = { s.journal with seals := s.journal.indexAsked.2 } := by
  rw [finish_asked, (issue_frame s.asked).1, asked_eq]
  rfl

/-- A request that waits after a step waited before it or was made at its end. -/
theorem mem_finish_waiting {r : FlashReq} (h : r ∈ s.finish.flash.waiting) :
    r ∈ s.flash.waiting ++ s.dataAsked ++ s.pageAsked ++ s.journal.indexAsked.1 := by
  have asked := (issue_frame s.asked).2.1 r h
  rwa [asked_eq] at asked

/-- A request that waits goes on waiting or is issued. -/
theorem finish_keeps_request {r : FlashReq} (h : r ∈ s.flash.waiting) :
    r ∈ s.finish.flash.waiting ∨ s.finish.flash.port = some r := by
  refine (issue_frame s.asked).2.2 r ?_
  rw [asked_eq]
  simp [h]

variable {w : List FlashReq}
  (asked : s.flash.waiting ++ s.dataAsked ++ s.pageAsked ++ s.journal.indexAsked.1 = w)
include asked

/-- A port in use goes on (R127). -/
theorem finish_port_busy {r : FlashReq} (busy : s.flash.port = some r) :
    s.finish.flash = { s.flash with waiting := w } := by
  rw [finish_flash, issue_busy (by rw [asked_eq]; exact busy), asked_eq, asked]

/-- Reads wait while the journal is ERASING (R120). -/
theorem finish_port_waits (free : s.flash.port = none) (reads : ∀ r ∈ w, r.rank = 3 ∧ s.journal.st = .erasing) :
    s.finish.flash = { s.flash with waiting := w } := by
  have next : nextRequest s.asked.flash.waiting (s.asked.journal.st == .erasing) = none := by
    rw [asked_eq, asked]
    exact nextRequest_reads fun r hr => ⟨(reads r hr).1, beq_iff_eq.mpr (reads r hr).2⟩
  rw [finish_flash, issue_none (by rw [asked_eq]; exact free) next, asked_eq, asked]

/-- A free port issues the first of the requests of the least rank (R120, R127). -/
theorem finish_port_issues {front back : List FlashReq} {r : FlashReq} (split : w = front ++ r :: back)
    (free : s.flash.port = none) (before : ∀ x ∈ front, r.rank < x.rank) (after : ∀ x ∈ back, r.rank ≤ x.rank)
    (allowed : r.rank = 3 → s.journal.st ≠ .erasing) :
    s.finish.flash = { s.flash with port := some r, portLeft := r.limit, waiting := front ++ back } := by
  have next : nextRequest s.asked.flash.waiting (s.asked.journal.st == .erasing) = some r := by
    rw [asked_eq, asked, split]
    exact nextRequest_least before after fun h => beq_eq_false_iff_ne.mpr (allowed h)
  have new : r ∉ front := fun h => absurd (before r h) (Nat.lt_irrefl _)
  rw [finish_flash, issue_some (by rw [asked_eq]; exact free) next, asked_eq, asked, split]
  simp only [List.erase_append_right _ new, List.erase_cons_head]

end

section
variable {s : State}

/-- What is sent after the arbiter's choice, and what waits to be sent. -/
theorem link_arbitrated (free : s.link.sending = none) :
    (∀ r rs, s.link.replies = r :: rs →
      s.arbitrate.link.sending = some (.reply r) ∧ s.arbitrate.link.replies = rs) ∧
    (s.link.replies = [] →
      (∀ f, s.upload.ready = some f → s.arbitrate.link.sending = some (.upload f)) ∧
      (s.upload.ready = none → s.arbitrate.link.sending = s.link.notices.head?.map OutFrame.notice ∧
        s.arbitrate.link.notices = s.link.notices.tail)) := by
  refine ⟨fun r rs h => ?_, fun idle => ⟨fun f hf => ?_, fun hf => ?_⟩⟩
  · rw [arbitrate_reply free h]
    exact ⟨rfl, rfl⟩
  · obtain ⟨link, _⟩ := afterUploadTaken_frame f (s.frameTaken f)
    rw [arbitrate_frame free idle hf, link]
    rfl
  · rw [arbitrate_notice free idle hf]
    exact ⟨rfl, rfl⟩

/-- With no frame of the upload taken the upload stays. -/
theorem upload_arbitrated (h : s.link.sending.isSome ∨ s.link.replies ≠ [] ∨ s.upload.ready = none) :
    s.arbitrate.upload = s.upload := by
  cases free : s.link.sending with
  | some o => rw [arbitrate_busy free]
  | none =>
    cases hr : s.link.replies with
    | cons r rs => rw [arbitrate_reply free hr]
    | nil =>
      have none := (h.resolve_left (by simp [free])).resolve_left (by simp [hr])
      rw [arbitrate_notice free hr none]

/-- The upload after the arbiter has taken its ready frame. -/
theorem upload_frameTaken {f : UploadFrame} {b : BatchInfo} (free : s.link.sending = none)
    (idle : s.link.replies = []) (ready : s.upload.ready = some f) (batch : s.upload.batch = some b) :
    ((∃ n c d, f = .tail n c d) → s.arbitrate.upload = { s.upload with ready := none, tailOut := true }) ∧
    ((∀ n c d, f ≠ .tail n c d) → (b.void = true ∨ b.length ≤ s.upload.sendOffset) →
      let crc := if b.void then b.crc else s.upload.runCrc
      s.arbitrate.upload = { s.upload with tailCrc := some crc, ready := some (.tail b.number crc (crc != b.crc)) }) ∧
    ((∀ n c d, f ≠ .tail n c d) → b.void = false → s.upload.sendOffset < b.length →
      s.arbitrate.upload = { s.upload with ready := none }) := by
  rw [arbitrate_frame free idle ready]
  refine ⟨?_, fun other sent => ?_, fun other plain more => ?_⟩
  · rintro ⟨n, c, d, rfl⟩
    rfl
  · exact congrArg State.upload (afterUploadTaken_sent (s := s.frameTaken f) other batch sent)
  · have unsent : ¬ (b.void = true ∨ b.length ≤ s.upload.sendOffset) := by simp [plain, more]
    exact congrArg State.upload (afterUploadTaken_more (s := s.frameTaken f) other batch unsent)

end

/-- Settles O24: the arbiter's choice, then the requests it and the journal add, then the port's choice among them. -/
theorem endOfStep : Obligations.EndOfStep := by
  refine ⟨fun _ _ _ _ _ _ => ⟨rfl, rfl, rfl, rfl, rfl, rfl, rfl, rfl, rfl, rfl, rfl, rfl, rfl, rfl⟩, fun s => ?_⟩
  obtain ⟨link, upload⟩ := finish_arbitrate s
  have sending : s.finish.link.sending = s.arbitrate.link.sending := by rw [link]
  have replies : s.finish.link.replies = s.arbitrate.link.replies := by rw [link]
  have notices : s.finish.link.notices = s.arbitrate.link.notices := by rw [link]
  rw [sending, replies, notices, upload, finish_journal]
  refine ⟨kept_finish s, fun o busy => ?_, link_arbitrated, upload_arbitrated, fun _ _ => upload_frameTaken,
    s.dataAsked, s.pageAsked, s.journal.indexAsked.1, fun _ _ => dataAsked_more, dataAsked_nil, pageAsked_held,
    pageAsked_nil, fun b rest front new programmed => ?_, fun none => ?_, fun r busy => ?_, fun free => ⟨?_, ?_⟩⟩
  · rw [arbitrate_busy busy]
    exact ⟨busy, rfl, rfl⟩
  · rw [indexAsked_front front new programmed]
    exact ⟨rfl, rfl⟩
  · rw [indexAsked_nil none]
    exact ⟨rfl, rfl⟩
  · rw [finish_port_busy rfl busy]
    exact ⟨busy, rfl, rfl⟩
  · intro reads
    rw [finish_port_waits rfl free reads]
    exact ⟨free, rfl⟩
  · intro front r back split before after allowed
    rw [finish_port_issues rfl split free before after allowed]
    exact ⟨rfl, rfl, rfl⟩

end Sys2Proof.Machine
end

section
/-!
PROOF. What the journal answers to an offer and what an append does (O49), and the seal of the open batch (O50).
-/

namespace Sys2Proof.Machine

/-! ## The seal (R128, R133) -/

section
variable {s : State} {b : OpenBatch}

theorem flag_testLow (h : s.journal.free < s.journal.size / 16) : s.testLow.flag .journalLow = true := by
  rw [State.testLow, if_pos h]
  exact flag_setFlag _ _

/-- The seal list's entry of an open batch: its records end at the record end, its slot lies below the index start. -/
def Journal.sealed (j : Journal) (b : OpenBatch) : SealedBatch :=
  ⟨b.number, b.first, j.recordEnd - b.first, b.count, b.leg, b.crc, j.indexStart - 16, false⟩

/-- The open batch goes to the seal list, and JOURNAL_LOW is tested. -/
theorem sealOpen_eq (h : s.journal.openBatch = some b) (takes : s.journal.st = .opened ∨ s.journal.st = .full) :
    s.sealOpen = State.testLow { s with
      journal.openBatch := none, journal.indexStart := s.journal.indexStart - 16,
      journal.seals := s.journal.seals ++ [s.journal.sealed b] } := by
  simp only [State.sealOpen, h, if_pos takes, Journal.sealed]

theorem sealNumber_some (h : s.journal.openBatch = some b) (takes : s.journal.st = .opened ∨ s.journal.st = .full) :
    s.sealNumber = b.number := by
  simp only [State.sealNumber, h, if_pos takes]

/-- With no open batch, or outside OPEN and FULL, nothing is sealed and the number is 0 (R136). -/
theorem sealOpen_idle (h : s.journal.openBatch = none ∨ (s.journal.st ≠ .opened ∧ s.journal.st ≠ .full)) :
    s.sealOpen = s ∧ s.sealNumber = 0 := by
  cases hb : s.journal.openBatch with
  | none => simp only [State.sealOpen, State.sealNumber, hb, and_self]
  | some b =>
    have stays : ¬ (s.journal.st = .opened ∨ s.journal.st = .full) := not_or.mpr (h.resolve_left (by simp [hb]))
    simp only [State.sealOpen, State.sealNumber, hb, if_neg stays, and_self]

theorem exec_batchSeal (h : Listening s) (free : s.longOp = false) :
    exec (.batchSeal []) s =
      .next (State.finish (s.received.sealOpen.replied .batchSeal .done (toLE 2 s.sealNumber))) :=
  exec_carried (c := .batchSeal) h rfl (.inl free) (.inl (by decide)) rfl

end

/-- Settles O50: the seal spelled out, then the command's reply before it. -/
theorem batchSealSeals : Obligations.BatchSealSeals := by
  refine ⟨fun s => ⟨fun b hb takes => sealOpen_eq hb takes, fun none => (sealOpen_idle none).1⟩,
    fun s h free => ⟨fun b hb takes => ?_, fun none => ?_⟩⟩
  · rw [exec_batchSeal h free, sealNumber_some hb takes, sealOpen_eq (s := s.received) hb takes]
    rfl
  · rw [exec_batchSeal h free, (sealOpen_idle none).2, (sealOpen_idle (s := s.received) none).1]

/-! ## The offer (R123) -/

section
variable {s : State} {r : JournalRecord} {w : WaitEntry}

/-- The two tests of an offered record, the space test first (R123, R132). -/
theorem room_cases (j : Journal) (len : Nat) :
    let space := j.recordEnd + len + 16 ≤ j.indexStart ∧ (j.openBatch = none → j.nextBatch ≤ 65535)
    (¬ space → j.room len = .noSpace) ∧
    (space → 1024 < j.buffer.flatten.length + len → j.room len = .noBuffer) ∧
    (space → j.buffer.flatten.length + len ≤ 1024 → j.room len = .fits) := by
  intro space
  have fails : (j.indexStart < j.recordEnd + len + 16 ∨ (j.openBatch = none ∧ 65536 ≤ j.nextBatch)) ↔ ¬ space := by
    rw [not_and_or, Classical.not_imp, Nat.not_le, Nat.not_le]
    exact Iff.rfl
  refine ⟨fun h => if_pos (fails.mpr h), fun h long => ?_, fun h short => ?_⟩
  · rw [Journal.room, if_neg (fun k => fails.mp k h), if_pos (show 1024 < j.held.length + len from long)]
  · rw [Journal.room, if_neg (fun k => fails.mp k h),
      if_neg (show ¬ 1024 < j.held.length + len from Nat.not_lt.mpr short)]

theorem offer_closed (hs : s.journal.st ≠ .opened) : s.offer r w = (.refused, s.refuseByState) := if_pos hs

/-- A record behind others, or one that the buffer has no room for, goes to the wait order (R123, R124). -/
theorem offer_joins (ho : s.journal.st = .opened)
    (busy : s.journal.waits ≠ [] ∨ s.journal.room r.bytes.length = .noBuffer) : s.offer r w = s.joinWait w := by
  rw [State.offer, if_neg (not_not.mpr ho)]
  split
  · rfl
  · rename_i empty
    rw [busy.resolve_left empty]

/-- The answer to an offer, in the order of R123. -/
theorem offer_answers (s : State) (r : JournalRecord) (w : WaitEntry) :
    let space := s.journal.recordEnd + r.bytes.length + 16 ≤ s.journal.indexStart ∧
      (s.journal.openBatch = none → s.journal.nextBatch ≤ 65535)
    (s.journal.st ≠ .opened → s.journal.st ≠ .full → s.offer r w = (.refused, s.countRefusals 1)) ∧
    (s.journal.st = .full → s.offer r w = (.refused, (s.countRefusals 1).setFlag .journalFull)) ∧
    (s.journal.st = .opened → s.journal.waits ≠ [] → s.offer r w = s.joinWait w) ∧
    (s.journal.st = .opened → s.journal.waits = [] →
      (¬ space → s.offer r w = (.refused, s.refuseForSpace)) ∧
      (space → 1024 < s.journal.buffer.flatten.length + r.bytes.length → s.offer r w = s.joinWait w) ∧
      (space → s.journal.buffer.flatten.length + r.bytes.length ≤ 1024 →
        s.offer r w = (.appended, s.append r.bytes))) := by
  intro space
  obtain ⟨noSpace, noBuffer, fits⟩ := room_cases s.journal r.bytes.length
  refine ⟨fun closed notFull => ?_, fun full => ?_, fun ho busy => offer_joins ho (.inl busy), fun ho empty =>
    ⟨fun h => ?_, fun h long => ?_, fun h short => ?_⟩⟩
  · rw [offer_closed closed, State.refuseByState, if_neg notFull]
  · rw [offer_closed (by rw [full]; decide), State.refuseByState, if_pos full]
  · exact offer_full (.inr ⟨ho, empty, noSpace h⟩)
  · exact offer_joins ho (.inr (noBuffer h long))
  · exact offer_appends w ho empty (fits h short)

end

/-! ## The append (R125) -/

section
variable {s : State} {bs : List Byte}

theorem batchFor_some {b : OpenBatch} (h : s.journal.openBatch = some b) : s.batchFor = b := by
  simp only [State.batchFor, h]

theorem batchFor_none (h : s.journal.openBatch = none) :
    s.batchFor = ⟨s.journal.nextBatch, s.journal.recordEnd, s.sched.openLeg.elim 255 OpenLeg.leg, 0, 0xFFFF⟩ := by
  have leg : s.batchLeg = s.sched.openLeg.elim 255 OpenLeg.leg := by
    unfold State.batchLeg
    cases s.sched.openLeg <;> rfl
  simp only [State.batchFor, h, leg]

/-- A record that leaves its batch with fewer than 255 joins it, and JOURNAL_LOW is tested. -/
theorem append_open (h : s.batchFor.count < 254) : s.append bs = (s.joinBuffer bs).testLow := by
  have few : ¬ 255 ≤ s.batchFor.count + 1 := by omega
  simp only [State.append, State.sealFull, testLow_journal, State.joinBuffer, if_neg few]

/-- The 255th record of a batch seals it (R128). -/
theorem append_full (h : 254 ≤ s.batchFor.count) : s.append bs = (s.joinBuffer bs).testLow.sealOpen := by
  have many : 255 ≤ s.batchFor.count + 1 := by omega
  simp only [State.append, State.sealFull, testLow_journal, State.joinBuffer, if_pos many]

/-- The journal after an append in OPEN: as the record's joining leaves it, and sealed with the 255th record. -/
theorem append_journal (ho : s.journal.st = .opened) (bs : List Byte) :
    let b := s.batchFor
    let joined : Journal := (s.joinBuffer bs).journal
    (b.count < 254 → (s.append bs).journal = joined) ∧
    (254 ≤ b.count → (s.append bs).journal = { joined with
      openBatch := none, indexStart := s.journal.indexStart - 16,
      seals := s.journal.seals ++ [⟨b.number, b.first, s.journal.recordEnd + bs.length - b.first, b.count + 1, b.leg,
        crcMore b.crc bs, s.journal.indexStart - 16, false⟩] }) := by
  refine ⟨fun few => ?_, fun many => ?_⟩
  · rw [append_open few, testLow_journal]
  · have joined : (s.joinBuffer bs).testLow.journal = (s.joinBuffer bs).journal := testLow_journal _
    rw [append_full many, sealOpen_seals (s := (s.joinBuffer bs).testLow) (by rw [joined]; rfl)
      (by rw [joined]; exact .inl ho), joined]
    rfl

/-- With less than a sixteenth of the store free after an append JOURNAL_LOW is set (R133). -/
theorem append_low (ho : s.journal.st = .opened)
    (low : (s.append bs).journal.indexStart - (s.journal.recordEnd + bs.length) < s.journal.size / 16) :
    (s.append bs).flag .journalLow = true := by
  obtain ⟨few, many⟩ := append_journal ho bs
  by_cases h : s.batchFor.count < 254
  · rw [few h] at low
    rw [append_open h]
    exact flag_testLow low
  · have joined : (s.joinBuffer bs).testLow.journal = (s.joinBuffer bs).journal := testLow_journal _
    rw [many (Nat.not_lt.mp h)] at low
    rw [append_full (Nat.not_lt.mp h), sealOpen_eq (s := (s.joinBuffer bs).testLow) (by rw [joined]; rfl)
      (by rw [joined]; exact .inl ho)]
    refine flag_testLow ?_
    simp only [joined]
    exact low

theorem append_nextBatch (ho : s.journal.st = .opened) (bs : List Byte) : (s.append bs).journal.nextBatch =
    if s.journal.openBatch.isSome then s.journal.nextBatch else s.journal.nextBatch + 1 := by
  obtain ⟨few, many⟩ := append_journal ho bs
  by_cases h : s.batchFor.count < 254
  · rw [few h]
    rfl
  · rw [many (Nat.not_lt.mp h)]
    rfl

theorem append_frame (bs : List Byte) (s : State) : (s.append bs).roster = s.roster ∧ (s.append bs).pool = s.pool ∧
    (s.append bs).sched = s.sched ∧ (s.append bs).flash = s.flash ∧
    (s.append bs).journal.waits = s.journal.waits := by
  have waits : (s.append bs).journal.waits = s.journal.waits := append_waits bs
  obtain ⟨j, l, e⟩ := reports_append bs s
  refine ⟨?_, ?_, ?_, ?_, waits⟩ <;> rw [e]

end

/-- Settles O49: the answers in the order of the tests, then the append to the batch that takes the record. -/
theorem recordOfferedAndAppended : Obligations.RecordOfferedAndAppended := by
  refine ⟨offer_answers, fun s bs ho => ⟨s.batchFor, fun o h => batchFor_some h, fun h => ?_, ?_⟩⟩
  · rw [batchFor_none h]
    exact ⟨rfl, rfl, rfl, rfl, rfl⟩
  · obtain ⟨few, many⟩ := append_journal ho bs
    refine ⟨append_recordEnd bs s, append_buffer bs s, append_nextBatch ho bs, fun h => ?_, fun h => ?_, append_low ho,
      append_frame bs s⟩
    · rw [few h]
      exact ⟨rfl, rfl, rfl⟩
    · rw [many h]
      exact ⟨rfl, rfl, rfl⟩

end Sys2Proof.Machine
end

section
/-!
PROOF. Programs that end good and what they leave in the store (O52), and JOURNAL CLEAR with its sector erases (O51).
-/

namespace Sys2Proof.Machine

/-! ## The store's bytes (R119) -/

namespace Memory

/-- Bytes programmed over blank ones are stored as they were given. -/
theorem read1_program_blank {m : List Host.Cell} {off : Nat} {bs : List Byte} (h : wf m)
    (blanks : ∀ i < bs.length, read1 m (off + i) = 0xFF#8) {i : Nat} (hi : i < bs.length) :
    read1 (program m off bs) (off + i) = bs[i] := by
  induction bs generalizing m off i with
  | nil => exact absurd hi (Nat.not_lt_zero i)
  | cons b bs ih =>
    have first : read1 m off = blank := blanks 0 (Nat.zero_lt_succ _)
    have rest : ∀ k < bs.length, read1 (write1 m off (programmed off (read1 m off) b)) (off + 1 + k) = 0xFF#8 := by
      intro k hk
      rw [read1_write1_other _ (by omega), Nat.add_assoc, Nat.add_comm 1]
      exact blanks (k + 1) (Nat.succ_lt_succ hk)
    cases i with
    | zero =>
      rw [program, read1_program_other (by omega)]
      exact (read1_write1_same h _ _).trans (if_pos first)
    | succ i =>
      have later := ih (wf_write1 h _ _) rest (Nat.lt_of_succ_lt_succ hi)
      rwa [Nat.add_assoc, Nat.add_comm 1] at later

theorem readN_program_blank {m : List Host.Cell} {off : Nat} {bs : List Byte} (h : wf m)
    (blanks : ∀ i < bs.length, read1 m (off + i) = 0xFF#8) : readN (program m off bs) off bs.length = bs := by
  refine List.ext_getElem (length_readN _ _ _) fun i _ hi => ?_
  simp only [readN, List.getElem_map, List.getElem_range]
  exact read1_program_blank h blanks hi

/-- Bytes laid over the store are read back, and every byte outside them stays. -/
theorem read1_overlay {m : List Host.Cell} (h : wf m) (off : Nat) (bs : List Byte) (a : Nat) :
    read1 (overlay m off bs) a = if off ≤ a ∧ a < off + bs.length then byteAt bs (a - off) else read1 m a := by
  split
  · rename_i inside
    obtain ⟨low, high⟩ := inside
    induction bs generalizing m off with
    | nil => rw [List.length_nil] at high; omega
    | cons b bs ih =>
      rw [List.length_cons] at high
      by_cases first : a = off
      · rw [overlay, read1_overlay_other (by omega), first, Nat.sub_self, read1_write1_same h]
        rfl
      · rw [overlay, ih (wf_write1 h _ _) (off + 1) (by omega) (by omega), show a - off = a - (off + 1) + 1 by omega]
        rfl
  · exact read1_overlay_other (by omega)

/-- An erased sector is blank and every other byte stays. -/
theorem read1_eraseSector_span (m : List Host.Cell) (k a : Nat) : read1 (eraseSector m k) a =
    if k * 65536 ≤ a ∧ a < (k + 1) * 65536 then 0xFF#8 else read1 m a := by
  have inside : a / 65536 = k ↔ k * 65536 ≤ a ∧ a < (k + 1) * 65536 := by omega
  rw [read1_eraseSector, if_congr inside rfl rfl]
  rfl

end Memory

/-! ## Programs that end good (R126, R129) -/

/-- What leaves the buffer is what was programmed: the bytes behind stay in order (R126). -/
theorem flatten_dropHeld (n : Nat) (buf : List (List Byte)) : (dropHeld n buf).flatten = buf.flatten.drop n := by
  induction buf generalizing n with
  | nil => simp [dropHeld]
  | cons r rs ih =>
    rw [dropHeld, List.flatten_cons]
    split
    · rename_i zero
      rw [zero, List.drop_zero, List.flatten_cons]
    · split
      · rename_i whole
        rw [ih, List.drop_append, List.drop_eq_nil_of_le whole, List.nil_append]
      · rename_i part
        rw [List.flatten_cons, List.drop_append_of_le_length (Nat.le_of_not_le part)]

/-- Settles O52. -/
theorem programsEndGood : Obligations.ProgramsEndGood := by
  refine ⟨fun s awake => ⟨fun off bs port => ?_, fun off bs b rest port seals => ?_⟩, fun s => ⟨fun st stage => ?_,
    fun other => ?_⟩, flatten_dropHeld, fun m off bs h => ⟨Memory.readN_program_blank h, fun a =>
      Memory.read1_program_other⟩⟩
  · have ended : s.pageEnded = (s.endOp (.page off bs) .good).pageProgrammed bs.length := by
      simp only [State.pageEnded, port]
    exact (event_awake awake).trans (by rw [ended]; rfl)
  · have ended : s.indexEnded = (s.endOp (.index off bs) .good).batchJoins := by
      simp only [State.indexEnded, port]
    have joins : (s.endOp (.index off bs) .good).batchJoins = State.sealsChanged
        { s.endOp (.index off bs) .good with
          journal.seals := rest, journal.total := s.journal.total + 1, journal.newestEnd := b.first + b.length } := by
      simp only [State.batchJoins, State.endOp_journal, seals]
    exact (event_awake awake).trans (by rw [ended, joins]; rfl)
  · exact if_pos ⟨st, stage⟩
  · exact if_neg fun h => other.elim (· h.1) (· h.2)

/-! ## The sectors of a clear (R138) -/

/-- How many sectors a clear erases from the store's start: those of the written bytes, and in FAULT that of the record
end. -/
def Journal.lowSectors (j : Journal) : Nat :=
  if j.st = .fault ∧ j.recordEnd < j.indexStart then j.recordEnd / 65536 + 1
  else if j.recordEnd = 0 then 0 else (j.recordEnd - 1) / 65536 + 1

theorem clearSectors_eq (j : Journal) : j.clearSectors = List.range j.lowSectors ++
    if j.indexStart = j.size then []
    else ((List.range (j.size / 65536)).filter fun k => decide (j.indexStart / 65536 ≤ k)).filter
      fun k => !(List.range j.lowSectors).contains k := by
  have low : (if j.st = .fault ∧ j.recordEnd < j.indexStart then List.range (j.recordEnd / 65536 + 1)
      else if j.recordEnd = 0 then [] else List.range ((j.recordEnd - 1) / 65536 + 1)) = List.range j.lowSectors := by
    unfold Journal.lowSectors
    split
    · rfl
    · split <;> rfl
  rw [Journal.clearSectors, low]

theorem clearSectors_ascend (j : Journal) : j.clearSectors.Pairwise (· < ·) := by
  rw [clearSectors_eq]
  refine List.pairwise_append.mpr ⟨List.pairwise_lt_range, ?_, fun a ha b hb => ?_⟩
  · split
    · exact .nil
    · exact (List.pairwise_lt_range.filter _).filter _
  · split at hb
    · cases hb
    · have apart : b ∉ List.range j.lowSectors := by simpa using (List.mem_filter.mp hb).2
      rw [List.mem_range] at ha apart
      omega

theorem mem_clearSectors {j : Journal} {k : Nat} : k ∈ j.clearSectors ↔ k < j.lowSectors ∨
    (j.indexStart ≠ j.size ∧ j.indexStart < (k + 1) * 65536 ∧ (k + 1) * 65536 ≤ j.size) := by
  have whole : k < j.size / 65536 ↔ (k + 1) * 65536 ≤ j.size := by omega
  have reached : j.indexStart / 65536 ≤ k ↔ j.indexStart < (k + 1) * 65536 := by omega
  rw [clearSectors_eq, List.mem_append, List.mem_range]
  by_cases empty : j.indexStart = j.size
  · simp [empty]
  · rw [if_neg empty]
    simp only [List.mem_filter, List.mem_range, decide_eq_true_eq, Bool.not_eq_true', List.contains_eq_mem,
      decide_eq_false_iff_not, whole, reached]
    tauto

theorem lt_lowSectors {j : Journal} {k : Nat} : k < j.lowSectors ↔
    if j.st = .fault ∧ j.recordEnd < j.indexStart then k * 65536 ≤ j.recordEnd else k * 65536 < j.recordEnd := by
  unfold Journal.lowSectors
  split
  · omega
  · split <;> omega

/-! ## JOURNAL CLEAR (R137) -/

section
variable {s : State}

theorem exec_journalClear (h : Listening s) (free : s.longOp = false) (idle : s.roster.phase = .none)
    (notSending : s.upload.st ≠ .sending) (notAwaiting : s.upload.st ≠ .awaitAck) (present : s.journal.st ≠ .absent)
    (delivered : s.journal.allDelivered = true) :
    exec (.journalClear []) s =
      .next (State.finish (s.received.startClear.replied .journalClear .done [])) := by
  refine exec_carried (c := .journalClear) h (by rw [idle]; rfl) (.inl free) (.inl (by decide)) ?_
  have allowed : ¬ ((s.received.uploadBusy || s.received.journal.st == .absent) = true) := by
    have noUpload : s.received.uploadBusy = false := uploadIdle (s := s.received) notSending notAwaiting
    have here : (s.received.journal.st == .absent) = false := beq_eq_false_iff_ne.mpr present
    rw [noUpload, here]
    decide
  have delivered' : s.received.journal.allDelivered = true := delivered
  show s.received.doJournalClear [] = _
  rw [State.doJournalClear, if_neg allowed, if_neg (by simp), if_pos delivered']

theorem allDelivered_of (all : s.journal.delivered = s.journal.total) (seals : s.journal.seals = [])
    (ends : s.journal.recordEnd = s.journal.newestEnd) (waits : s.journal.waits = []) :
    s.journal.allDelivered = true := by
  simp [Journal.allDelivered, all, seals, ends, waits]

theorem startClear_eq {ks : List Nat} (h : ks = s.journal.clearSectors) :
    s.startClear = State.nextErase { s with
      journal.st := .erasing, journal.lastOp := .clear, journal.lastResult := .running, journal.erasing := ks } := by
  rw [h]
  rfl

/-! ## The ends of sector erases (R131, R138) -/

/-- With no sealed batch the end of a step leaves the journal. -/
theorem finish_journal_unsealed (h : s.journal.seals = []) : s.finish.journal = s.journal := by
  rw [finish_journal, indexAsked_nil fun b rest front => by rw [h] at front; cases front]

/-- Sector `k` is blank, the port is free, and the sectors `ks` are still to erase. -/
def State.sectorErased (k : Nat) (ks : List Nat) (s : State) : State :=
  { s with
    flash.port := none, flash.portLeft := 0, flash.store := Memory.eraseSector s.flash.store k,
    journal.erasing := ks }

theorem nextErase_cons {k : Nat} {ks : List Nat} (h : s.journal.erasing = k :: ks) :
    s.nextErase = s.requestFlash (.erase k) := by
  simp only [State.nextErase, h]

theorem nextErase_nil (h : s.journal.erasing = []) : s.nextErase = s.clearDone := by
  simp only [State.nextErase, h]

variable {k : Nat} (awake : s.asserted = false) (port : s.flash.port = some (.erase k))
include awake port

/-- A good erase leaves the sector blank and goes on with the next one. -/
theorem exec_eraseEnd_good {ks : List Nat} (sectors : s.journal.erasing = k :: ks) :
    exec (.sectorEraseEnd .good) s = .next (s.sectorErased k ks).nextErase.finish := by
  refine (event_awake awake).trans ?_
  have rest : ks = s.journal.erasing.tail := by rw [sectors]; rfl
  simp only [State.eraseEnded, port]
  rw [rest]
  rfl

theorem exec_eraseEnd_failed (left : List Byte) : exec (.sectorEraseEnd (.failed left)) s =
    .next (State.finish ((s.endOp (.erase k) (.failed left)).clearFailed k)) := by
  refine (event_awake awake).trans ?_
  simp only [State.eraseEnded, port]

end

section
variable (k : Nat) (s : State)

/-- The capture of a failure at an offset (R131): the first one's offset stays, and each counts. -/
def Journal.captured (j : Journal) (off : Nat) : Option (Nat × Nat) :=
  match j.capture with
  | none => some (off, 1)
  | some (o, n) => some (o, min (n + 1) 65535)

theorem clearFailed_journal : (s.clearFailed k).journal = { s.journal with
    st := .fault, erasing := [], lastResult := .eraseFailure, capture := s.journal.captured (k * 65536) } := rfl

theorem clearFailed_blocks : (s.clearFailed k).roster = s.roster ∧ (s.clearFailed k).pool = s.pool ∧
    (s.clearFailed k).sched = s.sched ∧ (s.clearFailed k).intake = s.intake ∧ (s.clearFailed k).flash = s.flash :=
  ⟨rfl, rfl, rfl, rfl, rfl⟩

theorem clearFailed_flags : (s.clearFailed k).flag .journalFault = true ∧
    (s.clearFailed k).flag .operationFailed = true := by
  have first := flag_setFlag .operationFailed s
  have second := flag_setFlag .journalFault (s.setFlag .operationFailed)
  have both := (flag_setFlag_other (f := .journalFault) (g := .operationFailed) (by decide)
    (s.setFlag .operationFailed)).trans first
  exact ⟨second, both⟩

/-- What a failed erase leaves in its sector (log 9). -/
theorem store_eraseFailed (left : List Byte) : (s.endOp (.erase k) (.failed left)).flash.store =
    Memory.overlay s.flash.store (k * 65536) (left.take 65536) := by
  simp only [State.endOp, FlashReq.effect, FlashReq.span]

end

/-- Settles O51: the sectors of the clear, the first request, then the end of each erase. -/
theorem journalClearRuns : Obligations.JournalClearRuns := by
  refine ⟨Memory.read1_eraseSector_span, ?_, ?_⟩
  · intro s h free idle notSending notAwaiting present all seals ends waits ks u
    have executed := exec_journalClear h free idle notSending notAwaiting present (allDelivered_of all seals ends waits)
    have sectors : ks = s.received.journal.clearSectors := rfl
    refine ⟨?_, clearSectors_ascend _, fun running k => ?_, fun fault k => ?_⟩
    · rw [executed, startClear_eq sectors]
      clear_value ks
      cases ks <;> rfl
    · have low : ¬ (s.journal.st = .fault ∧ s.journal.recordEnd < s.journal.indexStart) := by
        rintro ⟨fault, _⟩
        rw [fault] at running
        revert running
        decide
      rw [mem_clearSectors, lt_lowSectors, if_neg low]
    · rw [mem_clearSectors, lt_lowSectors]
      simp only [fault, true_and]
  · intro s k awake port
    refine ⟨fun j rest sectors seals => ?_, fun last seals => ?_, fun left => ?_⟩
    · refine ⟨_, exec_eraseEnd_good awake port sectors, ?_⟩
      rw [nextErase_cons (s := s.sectorErased k (j :: rest)) rfl, finish_store]
      refine ⟨finish_journal_unsealed ?_, rfl, finish_keeps_request ?_⟩
      · exact seals
      · exact List.mem_append_right _ (List.mem_singleton.mpr rfl)
    · refine ⟨_, exec_eraseEnd_good awake port last, ?_⟩
      rw [nextErase_nil (s := s.sectorErased k []) rfl, finish_store]
      refine ⟨rfl, finish_journal_unsealed ?_⟩
      exact seals
    · refine ⟨_, exec_eraseEnd_failed awake port left, ?_⟩
      obtain ⟨journalFault, operationFailed⟩ := clearFailed_flags k (s.endOp (.erase k) (.failed left))
      obtain ⟨roster, pool, sched, intake, flash⟩ := clearFailed_blocks k (s.endOp (.erase k) (.failed left))
      simp only [flag_finish, journalFault, operationFailed, finish_journal_st, finish_journal_erasing,
        finish_journal_lastResult, finish_journal_capture, finish_store, finish_journal_size,
        finish_journal_recordEnd, finish_journal_progEnd, finish_journal_indexStart, finish_journal_total,
        finish_journal_delivered, finish_journal_newestEnd, finish_journal_nextBatch, finish_journal_pointer,
        finish_journal_buffer, finish_journal_waits, finish_journal_openBatch, finish_journal_lastOp, finish_roster,
        finish_pool, finish_sched, finish_intake, clearFailed_journal, roster, pool, sched, intake, flash,
        store_eraseFailed, State.endOp_journal, State.endOp_roster, State.endOp_pool, State.endOp_sched,
        State.endOp_intake, true_and, and_true]
      rfl

end Sys2Proof.Machine
end

section
/-!
PROOF. Programs that fail, and the ends of mark programs (O54): what a fault of the journal leaves (R130, R131), and the
two ends of a mark (R134, R162).
-/

namespace Sys2Proof.Machine

/-! ## A fault of the journal (R130) -/

/-- The journal that a fault leaves, before its waiting records are refused (steps 2 to 5 of R130). -/
def Journal.fallen (j : Journal) (off : Nat) (issued : Bool) : Journal :=
  { j with st := .fault, buffer := [], recordEnd := j.progEnd, seals := [], openBatch := none,
           indexStart := j.faultStart issued, capture := j.captured off }

/-- The part after steps 1 to 5 of R130. -/
def State.fallen (off : Nat) (issued : Bool) (s : State) : State :=
  State.dropForFault issued ((s.setFlag .journalFault).captureFault off)

section
variable {s : State} (off : Nat) (issued : Bool)

/-- Page and index programs leave the queue, the buffered records count as refusals (R130; log 24). -/
theorem fallen_eq {keep : FlashReq → Bool} (h : ∀ r, keep r = !r.abandoned) : s.fallen off issued =
    State.setFlag .journalFault { s with
      flash.waiting := s.flash.waiting.filter keep,
      link.counters.refusal := min (s.link.counters.refusal + s.journal.buffer.length) 65535,
      journal := s.journal.fallen off issued } := by
  rw [funext h]
  rfl

theorem fallen_blocks : (s.fallen off issued).roster = s.roster ∧ (s.fallen off issued).pool = s.pool ∧
    (s.fallen off issued).sched = s.sched ∧ (s.fallen off issued).intake = s.intake ∧
    (s.fallen off issued).flash.store = s.flash.store ∧ (s.fallen off issued).link.counters.refusal =
      min (s.link.counters.refusal + s.journal.buffer.length) 65535 := ⟨rfl, rfl, rfl, rfl, rfl, rfl⟩

theorem fallen_closed : (s.fallen off issued).journal.st ≠ .opened := fun h =>
  nomatch show JournalState.fault = .opened from h

theorem flag_fallen : (s.fallen off issued).flag .journalFault = true := flag_setFlag .journalFault s

theorem journalFault_running (running : s.journal.st = .opened ∨ s.journal.st = .full) :
    s.journalFault off issued = (s.fallen off issued).retry.sealsChanged := if_pos running

theorem journalFault_stopped (stopped : s.journal.st = .fault) :
    s.journalFault off issued = (s.setFlag .journalFault).captureFault off :=
  if_neg (by rw [stopped]; decide)

end

/-- What the engine's new choice touches: the upload, the port's queue and the flags, which only grow. -/
theorem sealsChanged_frame (s : State) : s.sealsChanged.link.counters = s.link.counters ∧
    ∀ f, s.flag f = true → s.sealsChanged.flag f = true := by
  unfold State.sealsChanged
  split
  · unfold State.chooseBatch
    split
    · exact ⟨rfl, fun _ h => h⟩
    · split
      · exact ⟨rfl, fun _ h => h⟩
      · split
        · exact ⟨rfl, fun _ h => h⟩
        · exact ⟨rfl, fun _ h => (moves_setFlag .uploadDone { s with upload.st := .done }).flag h⟩
  · exact ⟨rfl, fun _ h => h⟩

theorem sealsChanged_idle {s : State} (h : ¬ (s.upload.st = .sending ∧ s.upload.stage = .waitingSeal)) :
    s.sealsChanged = s := if_neg h

section
variable {s : State} (off : Nat) (issued : Bool)

/-- A fault of a running journal: its waiting records are refused, the rest of it is as `Journal.fallen` says. -/
theorem journalFault_leaves (running : s.journal.st = .opened ∨ s.journal.st = .full) :
    (s.journalFault off issued).journal = { s.journal.fallen off issued with waits := [] } ∧
    (s.journalFault off issued).flag .journalFault = true := by
  obtain ⟨_, _, _, _, journal⟩ := sealsChanged_blocks (s.fallen off issued).retry
  have retried := (moves_retry (s.fallen off issued)).flag (flag_fallen off issued)
  rw [journalFault_running off issued running]
  exact ⟨journal.trans (retry_closed (fallen_closed off issued)), (sealsChanged_frame _).2 _ retried⟩

/-- With no record waiting and no engine that waits for a seal nothing but the fault happens. -/
theorem journalFault_alone (running : s.journal.st = .opened ∨ s.journal.st = .full) (waits : s.journal.waits = [])
    (idle : ¬ (s.upload.st = .sending ∧ s.upload.stage = .waitingSeal)) :
    s.journalFault off issued = s.fallen off issued := by
  rw [journalFault_running off issued running, retry_empty (s := s.fallen off issued) waits,
    sealsChanged_idle (s := s.fallen off issued) idle]

/-- The scheduler's waiting records are counted and move no meter (R124, step 6 of R130). -/
theorem journalFault_refuses (running : s.journal.st = .opened ∨ s.journal.st = .full)
    (held : ∀ w ∈ s.journal.waits, w.isHeld = true) :
    (s.journalFault off issued).roster = s.roster ∧ (s.journalFault off issued).link.counters.refusal =
      min (s.link.counters.refusal + s.journal.buffer.length + s.journal.waits.length) 65535 := by
  have dropped : (s.fallen off issued).link.counters.refusal =
      min (s.link.counters.refusal + s.journal.buffer.length) 65535 := rfl
  obtain ⟨roster, counted⟩ := retry_held_refused s.journal.waits (s := s.fallen off issued) rfl
    (fallen_closed off issued) held
    (by rw [dropped]; exact Nat.min_le_right _ _)
  obtain ⟨same, _⟩ := sealsChanged_blocks (s.fallen off issued).retry
  obtain ⟨counters, _⟩ := sealsChanged_frame (s.fallen off issued).retry
  rw [journalFault_running off issued running, same, counters]
  refine ⟨roster, counted.trans ?_⟩
  rw [dropped]
  omega

/-- An engine that does not wait for a seal keeps what it knows over a fault. -/
theorem journalFault_upload (h : ¬ (s.upload.st = .sending ∧ s.upload.stage = .waitingSeal)) :
    (s.journalFault off issued).upload = s.upload := by
  unfold State.journalFault
  dsimp only
  split
  · have kept : (s.fallen off issued).retry.upload = s.upload := (moves_retry _).upload
    show ((s.fallen off issued).retry.sealsChanged).upload = s.upload
    rw [sealsChanged_idle (by rwa [kept]), kept]
  · rfl

end

/-! ## A mark that fails (R130, R162) -/

section
variable {s : State} (slot : Nat)

theorem markFailed_stalls (h : (s.journalFault (slot + 15) false).upload.st = .sending ∧
    (s.journalFault (slot + 15) false).upload.stage = .marking) :
    s.markFailed slot = (s.journalFault (slot + 15) false).stallUpload .markFailure := if_pos h

theorem markFailed_goesOn (h : ¬ ((s.journalFault (slot + 15) false).upload.st = .sending ∧
    (s.journalFault (slot + 15) false).upload.stage = .marking)) :
    s.markFailed slot = s.journalFault (slot + 15) false := if_neg h

/-- The engine's stall leaves the journal, the store and the flags of the fault. -/
theorem markFailed_frame : (s.markFailed slot).journal = (s.journalFault (slot + 15) false).journal ∧
    ∀ f, (s.journalFault (slot + 15) false).flag f = true → (s.markFailed slot).flag f = true := by
  unfold State.markFailed
  dsimp only
  split
  · refine ⟨rfl, fun f h => ?_⟩
    rw [State.stallUpload]
    exact (moves_setFlag _ _).flag h
  · exact ⟨rfl, fun _ h => h⟩

theorem marking_not_waitingSeal (h : s.upload.stage = .marking) :
    ¬ (s.upload.st = .sending ∧ s.upload.stage = .waitingSeal) := by
  rw [h]
  exact fun k => nomatch k.2

/-- The engine that waited for the mark stalls (R162). -/
theorem markFailed_marking (st : s.upload.st = .sending) (stage : s.upload.stage = .marking) :
    s.markFailed slot = (s.journalFault (slot + 15) false).stallUpload .markFailure := by
  refine markFailed_stalls slot ?_
  rw [journalFault_upload _ _ (marking_not_waitingSeal stage)]
  exact ⟨st, stage⟩

end

/-! ## The rows -/

/-- A program of `n` bytes has failed: the port is free, and the store holds what the failure left (log 9). -/
def State.programLeft (off n : Nat) (left : List Byte) (s : State) : State :=
  { s with flash.port := none, flash.portLeft := 0, flash.store := Memory.overlay s.flash.store off (left.take n) }

section
variable {s : State} (awake : s.asserted = false) (left : List Byte)
include awake

theorem exec_programFailure {off : Nat} {bs : List Byte} {index : Bool}
    (port : s.flash.port = some (if index then .index off bs else .page off bs)) :
    exec (.programFailure left) s =
      .next ((s.programLeft off bs.length left).journalFault off index).finish := by
  refine (event_awake awake).trans ?_
  cases index <;> simp only [State.anyProgramFailed, State.programFailed, port] <;> rfl

variable {slot : Nat} {b : BatchInfo} (port : s.flash.port = some (.mark slot b))
include port

theorem exec_markFailed : exec (.markProgramEnd (.failed left)) s =
    .next ((s.programLeft (slot + 15) 1 left).markFailed slot).finish := by
  refine (event_awake awake).trans ?_
  simp only [State.markEnded, port]
  rfl

/-- PROGRAM_FAILURE of a mark is its failed end (log 23). -/
theorem exec_programFailure_mark : exec (.programFailure left) s = exec (.markProgramEnd (.failed left)) s := by
  refine (event_awake awake).trans (Eq.trans ?_ (event_awake awake).symm)
  simp only [State.anyProgramFailed, State.programFailed, State.markEnded, port]

/-- A good mark: the mark byte is 0, one more batch is delivered, and the pointer is the slot below (R134). -/
def State.markedGood (slot : Nat) (s : State) : State :=
  { s with
    flash.port := none, flash.portLeft := 0, flash.store := Memory.write1 s.flash.store (slot + 15) 0,
    journal.delivered := s.journal.delivered + 1, journal.pointer := slot - 16 }

theorem exec_markGood : exec (.markProgramEnd .good) s = .next (State.finish
    (if s.upload.st = .sending ∧ s.upload.stage = .marking then (s.markedGood slot).chooseBatch
     else s.markedGood slot)) := by
  refine (event_awake awake).trans ?_
  simp only [State.markEnded, port]
  rfl

end

/-! ## A recovery seal that fails (R150) -/

section
variable {s : State} {off : Nat} {bs : List Byte} {r : Recovery} (awake : s.asserted = false) (left : List Byte)
  (port : s.flash.port = some (.recoveryIndex off bs))
include awake port

theorem exec_programFailure_recovery :
    exec (.programFailure left) s = exec (.recoveryIndexProgramEnd (.failed left)) s := by
  refine (event_awake awake).trans (Eq.trans ?_ (event_awake awake).symm)
  simp only [State.anyProgramFailed, port]

variable (scanning : s.startup = some (.scanning r))
include scanning

theorem exec_recoverySealFailed : exec (.recoveryIndexProgramEnd (.failed left)) s =
    .next ((s.programLeft off bs.length left).sealProgramFailed off r).finish := by
  refine (event_awake awake).trans ?_
  simp only [State.recoveryIndexEnded, port, scanning]
  rfl

end

/-- The journal takes its running values from the scan, and start-up is over (R149). -/
theorem recoveryEnds_leaves (r : Recovery) (st : JournalState) (o : OpResult) (s : State) :
    (s.recoveryEnds r st o).startup = none ∧ (s.recoveryEnds r st o).journal = { s.journal with
      st := st, size := r.size, recordEnd := r.recordEnd, progEnd := r.recordEnd, indexStart := r.lowest,
      total := r.total, delivered := r.delivered, nextBatch := r.nextBatch, pointer := r.pointer,
      newestEnd := r.newestEnd, lastResult := o } := by
  unfold State.recoveryEnds
  rw [testLow_journal, (moves_testLow _).startup]
  dsimp only
  split <;> exact ⟨rfl, rfl⟩

/-- A recovery seal's failure ends the scan in FAULT with the failure captured (R150). -/
theorem sealProgramFailed_leaves (off : Nat) (r : Recovery) (s : State) :
    (s.sealProgramFailed off r).startup = none ∧ (s.sealProgramFailed off r).flag .journalFault = true ∧
    (s.sealProgramFailed off r).journal = { s.journal with
      st := .fault, size := r.size, recordEnd := r.lowest, progEnd := r.lowest, indexStart := r.lowest,
      total := r.total, delivered := r.delivered, nextBatch := r.nextBatch, pointer := r.pointer,
      newestEnd := r.newestEnd, lastResult := .good, capture := s.journal.captured off } := by
  obtain ⟨startup, journal⟩ := recoveryEnds_leaves { r with recordEnd := r.lowest } .fault .good s
  refine ⟨startup, flag_setFlag .journalFault (s.recoveryEnds { r with recordEnd := r.lowest } .fault .good), ?_⟩
  rw [State.sealProgramFailed, State.captureFault, State.setFlag_journal, journal]
  rfl

/-! ## The whole -/

/-- After a fault neither a page nor an index program waits, nor is one asked for. -/
theorem fallen_abandons (off : Nat) (issued : Bool) (s : State) (o : Nat) (bs : List Byte) :
    FlashReq.page o bs ∉ (s.fallen off issued).finish.flash.waiting ∧
      FlashReq.index o bs ∉ (s.fallen off issued).finish.flash.waiting := by
  have page : (s.fallen off issued).pageAsked = [] := pageAsked_nil (.inl rfl)
  have index : (s.fallen off issued).journal.indexAsked.1 = [] := rfl
  have kept {r : FlashReq} (h : r ∈ (s.fallen off issued).finish.flash.waiting) :
      r.abandoned = false := by
    have asked := mem_finish_waiting h
    rw [page, index, List.append_nil, List.append_nil, List.mem_append] at asked
    rcases asked with h | h
    · exact (Bool.not_eq_true' _).mp (List.mem_filter.mp h).2
    · obtain ⟨who, off, len, rfl⟩ := mem_dataAsked h
      rfl
  exact ⟨fun h => Bool.noConfusion (kept h), fun h => Bool.noConfusion (kept h)⟩

section
variable {s : State} (awake : s.asserted = false) (left : List Byte)
include awake

/-- A failed page program with no record waiting and no upload (R130, R131). -/
theorem pageFailure_alone {off : Nat} {bs : List Byte} (port : s.flash.port = some (.page off bs))
    (running : s.journal.st = .opened ∨ s.journal.st = .full) (waits : s.journal.waits = [])
    (idle : s.upload.st = .idle) :
    ∃ t, exec (.programFailure left) s = .next t ∧ t.journal.st = .fault ∧ t.journal.buffer = [] ∧
      t.journal.seals = [] ∧ t.journal.openBatch = none ∧ t.journal.recordEnd = s.journal.progEnd ∧
      t.journal.progEnd = s.journal.progEnd ∧ t.flag .journalFault = true ∧
      t.journal.capture = s.journal.captured off ∧
      t.link.counters.refusal = min (s.link.counters.refusal + s.journal.buffer.length) 65535 ∧
      t.flash.store = Memory.overlay s.flash.store off (left.take bs.length) ∧
      (∀ o b, FlashReq.page o b ∉ t.flash.waiting ∧ FlashReq.index o b ∉ t.flash.waiting) ∧
      t.roster = s.roster ∧ t.pool = s.pool ∧ t.sched = s.sched ∧ t.intake = s.intake := by
  have notWaiting : ¬ (s.upload.st = .sending ∧ s.upload.stage = .waitingSeal) := by
    rw [idle]
    exact fun h => nomatch h.1
  have executed := exec_programFailure (index := false) awake left port
  rw [journalFault_alone (s := s.programLeft off bs.length left) off false running waits notWaiting] at executed
  have journal : (State.fallen off false (s.programLeft off bs.length left)).finish.journal =
      s.journal.fallen off false := finish_journal_unsealed rfl
  have flag := flag_fallen (s := s.programLeft off bs.length left) off false
  obtain ⟨roster, pool, sched, intake, store, refusal⟩ :=
    fallen_blocks (s := s.programLeft off bs.length left) off false
  refine ⟨_, executed, ?_⟩
  rw [journal, flag_finish, finish_counters, finish_store, finish_roster, finish_pool, finish_sched, finish_intake]
  exact ⟨rfl, rfl, rfl, rfl, rfl, rfl, flag, rfl, refusal, store, fallen_abandons off false _, roster, pool, sched,
    intake⟩

/-- A recovery seal's failure, reported by either row (R150; log 23). -/
theorem recoverySeal_failed {off : Nat} {bs : List Byte} {r : Recovery}
    (port : s.flash.port = some (.recoveryIndex off bs)) (scanning : s.startup = some (.scanning r)) :
    ∃ t, exec (.programFailure left) s = .next t ∧ t.startup = none ∧ t.journal.st = .fault ∧
      t.flag .journalFault = true ∧ t.flash.store = Memory.overlay s.flash.store off (left.take bs.length) ∧
      exec (.recoveryIndexProgramEnd (.failed left)) s = .next t ∧
      t.journal.recordEnd = r.lowest ∧ t.journal.indexStart = r.lowest ∧ t.journal.total = r.total ∧
      t.journal.delivered = r.delivered ∧ t.journal.newestEnd = r.newestEnd ∧ t.journal.nextBatch = r.nextBatch ∧
      t.journal.pointer = r.pointer ∧ t.journal.size = r.size ∧ t.journal.lastResult = .good ∧
      t.journal.capture = s.journal.captured off := by
  have executed := exec_recoverySealFailed awake left port scanning
  obtain ⟨startup, flag, journal⟩ := sealProgramFailed_leaves off r (s.programLeft off bs.length left)
  have store : ((s.programLeft off bs.length left).sealProgramFailed off r).flash.store =
      Memory.overlay s.flash.store off (left.take bs.length) := store_recoveryEnds ..
  refine ⟨_, (exec_programFailure_recovery awake left port).trans executed, ?_⟩
  simp only [finish_startup, finish_store, flag_finish, finish_journal_st, finish_journal_recordEnd,
    finish_journal_indexStart, finish_journal_total, finish_journal_delivered, finish_journal_newestEnd,
    finish_journal_nextBatch, finish_journal_pointer, finish_journal_size, finish_journal_lastResult,
    finish_journal_capture, startup, flag, journal, store]
  exact ⟨trivial, trivial, trivial, trivial, executed, trivial, trivial, trivial, trivial, trivial, trivial, trivial,
    trivial, trivial, rfl⟩

/-- A page or an index program that fails in a running journal (R130, R131). -/
theorem programFailure_running {off : Nat} {bs : List Byte} {index : Bool}
    (port : s.flash.port = some (if index then .index off bs else .page off bs))
    (running : s.journal.st = .opened ∨ s.journal.st = .full) :
    ∃ t, exec (.programFailure left) s = .next t ∧
      t.journal = { s.journal.fallen off index with waits := [] } ∧
      t.flag .journalFault = true ∧ t.flash.store = Memory.overlay s.flash.store off (left.take bs.length) ∧
      ((∀ w ∈ s.journal.waits, w.isHeld = true) → t.roster = s.roster ∧ t.link.counters.refusal =
        min (s.link.counters.refusal + s.journal.buffer.length + s.journal.waits.length) 65535) := by
  obtain ⟨journal, flag⟩ := journalFault_leaves (s := s.programLeft off bs.length left) off index running
  have store := store_journalFault off index (s.programLeft off bs.length left)
  refine ⟨_, exec_programFailure awake left port, ?_, ?_, ?_, fun held => ?_⟩
  · exact (finish_journal_unsealed (by rw [journal]; rfl)).trans journal
  · exact (flag_finish _ _).trans flag
  · exact (finish_store _).trans store
  · rw [finish_roster, finish_counters]
    exact journalFault_refuses (s := s.programLeft off bs.length left) off index running held

variable {slot : Nat} {b : BatchInfo} (port : s.flash.port = some (.mark slot b))
include port

/-- A mark that fails in a running journal (R130, R162). -/
theorem markFailed_running (running : s.journal.st = .opened ∨ s.journal.st = .full) :
    ∃ t, exec (.markProgramEnd (.failed left)) s = .next t ∧ t.flag .journalFault = true ∧
      t.flash.store = Memory.overlay s.flash.store (slot + 15) (left.take 1) ∧
      t.journal = { s.journal.fallen (slot + 15) false with waits := [] } := by
  obtain ⟨journal, flag⟩ := journalFault_leaves (s := s.programLeft (slot + 15) 1 left) (slot + 15) false running
  obtain ⟨same, flags⟩ := markFailed_frame (s := s.programLeft (slot + 15) 1 left) slot
  have failed := same.trans journal
  refine ⟨_, exec_markFailed awake left port, ?_, ?_, ?_⟩
  · exact (flag_finish _ _).trans (flags _ flag)
  · exact (finish_store _).trans (store_markFailed slot (s.programLeft (slot + 15) 1 left))
  · exact (finish_journal_unsealed (by rw [failed]; rfl)).trans failed

/-- The engine that waited for a mark that failed in a running journal stalls (R162). -/
theorem markFailed_stalled (st : s.upload.st = .sending) (stage : s.upload.stage = .marking)
    (running : s.journal.st = .opened ∨ s.journal.st = .full) :
    ∃ t, exec (.markProgramEnd (.failed left)) s = .next t ∧ t.upload.st = .stalled ∧
      t.upload.stall = some .markFailure ∧ t.flag .uploadStalled = true ∧ t.flag .journalFault = true ∧
      t.journal.st = .fault ∧ t.journal.delivered = s.journal.delivered ∧ t.journal.pointer = s.journal.pointer := by
  obtain ⟨t, executed, flag, _, journal⟩ := markFailed_running awake left port running
  have next := exec_markFailed awake left port
  rw [markFailed_marking (s := s.programLeft (slot + 15) 1 left) slot st stage] at next
  have same := Host.Outcome.next.inj (executed.symm.trans next)
  refine ⟨t, executed, ?_, ?_, ?_, flag, ?_⟩
  · rw [same, finish_upload_st]
    rfl
  · rw [same, finish_upload_stall]
    rfl
  · rw [same, flag_finish]
    exact flag_setFlag _ _
  · rw [journal]
    exact ⟨rfl, rfl, rfl⟩

end

/-- Settles O54: a program's failure and a mark's are faults of the journal; a good mark delivers its batch. -/
theorem programsEndFailedOrMarked : Obligations.ProgramsEndFailedOrMarked := by
  refine ⟨fun m off bs a h => Memory.read1_overlay h off bs a, fun s left awake =>
    ⟨fun off bs => pageFailure_alone awake left, fun off bs r => recoverySeal_failed awake left⟩, ?_,
    fun s left off bs index awake => programFailure_running awake left, ?_⟩
  · intro s slot b awake port
    refine ⟨s.markedGood slot, rfl, fun st stage => ?_, fun other => ?_, fun left st stage running _ =>
      markFailed_stalled awake left port st stage running, fun left => ⟨exec_programFailure_mark awake left port,
      fun stopped => ⟨fun st stage => ?_, fun other => ?_⟩, markFailed_running awake left port⟩⟩
    · rw [exec_markGood awake port, if_pos ⟨st, stage⟩]
    · rw [exec_markGood awake port, if_neg other]
    · rw [exec_markFailed awake left port, markFailed_marking (s := s.programLeft (slot + 15) 1 left) slot st stage,
        journalFault_stopped (s := s.programLeft (slot + 15) 1 left) _ _ stopped]
      rfl
    · have fault := journalFault_stopped (s := s.programLeft (slot + 15) 1 left) (slot + 15) false stopped
      rw [exec_markFailed awake left port,
        markFailed_goesOn (s := s.programLeft (slot + 15) 1 left) slot (by rw [fault]; exact other), fault]
      rfl
  · intro s left awake running fallen
    have fault (off n : Nat) (index : Bool) :
        (s.programLeft off n left).journalFault off index = fallen off n index := by
      rw [journalFault_running (s := s.programLeft off n left) off index running]
      exact congrArg (fun u : State => u.retry.sealsChanged)
        (fallen_eq off index (fun r => by cases r <;> rfl))
    refine ⟨fun off bs index port => ?_, fun slot k port => ?_⟩
    · rw [exec_programFailure awake left port, fault]
    · rw [exec_markFailed awake left port, State.markFailed, fault]
      rfl

end Sys2Proof.Machine
end

section
/-!
PROOF. The attention line and the indicator lines (O9), what a reset leaves (O3), and the reset input and RESTART (O22).
-/

namespace Sys2Proof.Machine

/-! ## The two lines (R151, R176) -/

/-- The line's level is asserted while the reset input is not and the mask enables a set flag (R176). -/
theorem attentionLevel_iff (s : State) : s.attentionLevel = true ↔
    s.asserted = false ∧ ∃ n : Fin 13, s.link.flags.getLsbD n.val = true ∧ s.link.mask.getLsbD n.val = true := by
  have enabled : s.link.flags &&& s.link.mask ≠ 0 ↔
      ∃ n : Fin 13, s.link.flags.getLsbD n.val = true ∧ s.link.mask.getLsbD n.val = true :=
    (and_ne_zero_iff _ _).trans
      ⟨fun ⟨n, flag, mask⟩ => ⟨⟨n, BitVec.lt_of_getLsbD flag⟩, flag, mask⟩, fun ⟨n, both⟩ => ⟨n, both⟩⟩
  rw [← enabled, State.attentionLevel, Bool.and_eq_true, Bool.not_eq_true', bne_iff_ne]

section
variable {s : State}

theorem runIndicator_fault (h : s.journal.st = .fault) : s.runIndicator = 9 := by rw [State.runIndicator, h]

theorem runIndicator_erasing (h : s.journal.st = .erasing) : s.runIndicator = 8 := by rw [State.runIndicator, h]

variable (noFault : s.journal.st ≠ .fault) (noErase : s.journal.st ≠ .erasing)
include noFault noErase

/-- An upload that sends or awaits its acknowledgement comes before the route phase. -/
theorem runIndicator_upload (h : s.upload.st = .sending ∨ s.upload.st = .awaitAck) : s.runIndicator = 7 := by
  unfold State.runIndicator
  split
  · exact absurd ‹_› noFault
  · exact absurd ‹_› noErase
  · rcases h with h | h <;> rw [h]

theorem runIndicator_phase (h : ¬ (s.upload.st = .sending ∨ s.upload.st = .awaitAck)) :
    s.runIndicator = s.roster.phase.indicator := by
  unfold State.runIndicator
  split
  · exact absurd ‹_› noFault
  · exact absurd ‹_› noErase
  · split
    · exact absurd (.inl ‹_›) h
    · exact absurd (.inr ‹_›) h
    · rfl

end

/-- Lines at the level and the code that the state decides follow it. -/
theorem LinesFollow.of_decided {s : State} (attention : s.link.attention = s.attentionLevel)
    (indicator : s.indicator = s.indicatorCode) : LinesFollow s := by
  refine ⟨by rw [attention, attentionLevel_iff], indicator.trans ?_⟩
  unfold State.indicatorCode
  split
  · rfl
  · cases s.startup with
    | some u => cases u <;> rfl
    | none =>
      dsimp only
      split
      next fault => exact runIndicator_fault fault
      next running =>
        split
        next erasing => exact runIndicator_erasing erasing
        next journal =>
          split
          next busy => exact runIndicator_upload running journal busy
          next idle =>
            rw [runIndicator_phase running journal idle]
            cases s.roster.phase <;> rfl

theorem linesFollow_finish (s : State) : LinesFollow s.finish := .of_decided rfl rfl

theorem linesFollow_resetAsserted (s : State) : LinesFollow s.resetAsserted := .of_decided rfl rfl

/-- After a reset RESTARTED is set and enabled, so the line is asserted (R142, R176). -/
theorem attentionLevel_resetEffect (s : State) : s.resetEffect.attentionLevel = true :=
  (attentionLevel_iff _).mpr ⟨rfl, 0, show (1#13).getLsbD 0 = true by decide,
    show (BitVec.allOnes 13).getLsbD 0 = true by decide⟩

theorem linesFollow_resetEffect (s : State) : LinesFollow s.resetEffect :=
  .of_decided (attentionLevel_resetEffect s).symm rfl

/-- A millisecond changes nothing that decides the lines. -/
theorem LinesFollow.tick {s : State} (h : LinesFollow s) : LinesFollow s.tick := by
  cases awake : s.asserted with
  | true => rwa [State.tick, if_pos awake]
  | false =>
    rw [tick_awake awake]
    refine ⟨h.attention, h.indicator.trans ?_⟩
    have phase : s.roster.tick.phase = s.roster.phase := by
      have same := congrArg Roster.phase (still_tick s.roster)
      exact same
    dsimp only
    rw [phase]
    rcases s.startup with _ | (_ | _ | _) <;> rfl

/-- No row leaves the lines behind. -/
theorem LinesFollow.exec {i : Instr} {s t : State} (h : LinesFollow s) (hs : exec i s = .next t) : LinesFollow t := by
  rcases exec_next hs with ⟨_, rfl⟩ | ⟨_, _, rfl⟩ | ⟨_, rfl⟩ | ⟨_, rfl⟩
  · exact linesFollow_resetAsserted _
  · exact linesFollow_resetEffect _
  · exact h
  · exact linesFollow_finish _

/-- Settles O9: a millisecond keeps the lines, and every row decides them anew or changes nothing. -/
theorem linesFollowState : Obligations.LinesFollowState := by
  intro s t h hs
  unfold step at hs
  split at hs
  · cases hs
    exact h.tick
  · rename_i c rest _
    have popped : LinesFollow { s with pending := rest } := ⟨h.attention, h.indicator⟩
    exact popped.exec hs

/-! ## What a reset leaves (R142) -/

theorem flag_atReset (straps : BitVec 2) (m : List Host.Cell) (u : Option FlashReq) (q : List Instr) (d : Nat)
    (f : Flag) : (State.atReset straps m u q d).flag f = (f == .restarted) := by
  show (1#13).getLsbD f.number = _
  cases f <;> decide

/-- Settles O3: the tables entry by entry, the flags by number, and every other field as it stands. -/
theorem resetState : Obligations.ResetState := by
  intro straps m u q d s
  have lanes (i : Fin 4) : s.intake.lanes[i] = .reset := Vector.getElem_replicate i.isLt
  have classes (i : Fin 16) : s.roster.classes[i] = .unset := Vector.getElem_replicate i.isLt
  have legs (l : Byte) : s.leg l = .reset := Vector.getElem_replicate l.isLt
  have unset (i : Fin 16) : s.roster.classes[i].digits = 0 := congrArg ClassRec.digits (classes i)
  have flags (f : Flag) : s.flag f = (f == .restarted) := flag_atReset straps m u q d f
  have counters : s.counterValues = List.replicate 38 0 := rfl
  exact ⟨rfl, rfl, rfl, rfl, lanes, rfl, unset, legs, rfl, rfl, rfl, rfl, rfl, rfl, rfl, rfl, rfl, rfl, rfl, rfl, rfl,
    rfl, rfl, rfl, rfl, rfl, rfl, rfl, rfl, rfl, rfl, rfl, rfl, rfl, rfl, rfl, rfl, rfl, rfl, rfl, rfl, rfl, rfl, rfl,
    rfl, flags, rfl, rfl, rfl, counters⟩

/-! ## The reset input and RESTART (R141) -/

/-- The end of a step right after a reset has nothing to do. -/
theorem finish_resetEffect (s : State) : s.resetEffect.finish = s.resetEffect := by
  have noFrame : s.resetEffect.arbitrate = s.resetEffect := rfl
  have noPage : s.resetEffect.requestPage = s.resetEffect := rfl
  have noIndex : s.resetEffect.requestIndex = s.resetEffect := rfl
  have noIssue : s.resetEffect.issue = s.resetEffect := rfl
  rw [State.finish, noFrame, noPage, noIndex, noIssue, State.refreshLines, attentionLevel_resetEffect]
  rfl

theorem event_asserted {f : State → State} {s : State} (h : s.asserted = true) : event f s = .next s := if_pos h

/-- While the reset input is asserted only its own rows have an effect (R141). -/
theorem exec_asserted {s : State} {i : Instr} (h : s.asserted = true) (notAssert : i ≠ .resetAssert)
    (notRelease : ∀ straps, i ≠ .resetRelease straps) : exec i s = .next s := by
  cases i
  case resetAssert => exact absurd rfl notAssert
  case resetRelease straps => exact absurd rfl (notRelease straps)
  case rebuildReadEnd good =>
    refine (if_neg ?_).trans (event_asserted h)
    simp [h]
  case uploadDataReadEnd =>
    refine (if_neg ?_).trans (event_asserted h)
    simp [h]
  all_goals exact event_asserted h

/-- A row that completes a frame is that frame's arrival. -/
theorem exec_frame {s : State} {i : Instr} {k : Byte} {b : List Byte} {good : Bool}
    (h : s.frameOf i = some (k, b, good)) : exec i s = event (State.frameArrives k b good) s := by
  cases i
  case linkByteReceived x =>
    unfold State.frameOf at h
    dsimp only at h
    split at h
    · rename_i frame lo _ rx
      cases h
      have byte : State.linkByte x s = s.frameArrives (byteAt frame 0) frame.tail
          (frameCrc (byteAt frame 0) frame.tail == BitVec.ofNat 16 (le [lo, x])) := by
        simp only [State.linkByte, rx]
      show event (State.linkByte x) s = _
      rw [event, event, byte]
    · cases h
  all_goals cases h
  all_goals rfl

/-- After a RESTART was taken a frame is discarded uncounted (R141). -/
theorem frameArrives_restarting {s : State} (h : s.link.restarting = true) (k : Byte) (b : List Byte) (good : Bool) :
    s.frameArrives k b good = s.received := if_pos h

/-- The end of a RESTART's reply makes a reset take effect (R141). -/
theorem exec_restartSent {s : State} {r : Reply} (straps : BitVec 2) (awake : s.asserted = false)
    (sending : s.link.sending = some (.reply r)) (restart : r.restart = true) :
    exec (.outboundFrameSent straps) s = .next ({ s with straps := straps } : State).resetEffect := by
  have sent : s.frameSent straps = ({ s with straps := straps } : State).resetEffect := by
    simp only [State.frameSent, sending, restart, if_true]
  refine (event_awake awake).trans ?_
  rw [sent, finish_resetEffect]

/-- A RESTART is taken and answered (R173). -/
theorem exec_restart {s : State} (h : Listening s) : exec (.restart []) s = .next (State.finish
    (State.pushReply 0x82 0x02 .done [] true { s.received with link.restarting := true })) := by
  have carried : s.received.checkCommand .restart [] =
      (.done, [], { s.received with link.restarting := true }) :=
    checkCommand_carried (by rfl) (.inr rfl)
  refine (exec_row .restart [] h).trans ?_
  rw [State.takeCommand, carried]
  rfl

/-- Settles O22: each row's effect, with what a reset leaves the flash to finish spelled by the port. -/
theorem resetAndRestart : Obligations.ResetAndRestart := by
  have leftOver (s : State) : s.flash.leftOver = (match s.flash.port with
      | some (.read _ _ _) => s.flash.unfinished
      | some .identify => s.flash.unfinished
      | some r => some r
      | none => s.flash.unfinished) := by
    unfold Flash.leftOver
    rcases s.flash.port with _ | (_ | _ | _ | _ | _ | _ | _) <;> rfl
  have reset (straps : BitVec 2) (s : State) := congrArg
    (fun u => State.atReset straps s.flash.store u s.pending s.draws) (leftOver s)
  refine ⟨fun straps s => ⟨?_, fun r awake sending restart => ?_⟩, ⟨fun s => ?_, fun s i h notAssert notRelease =>
    exec_asserted h notAssert notRelease⟩, fun s h => exec_restart h, ?_⟩
  · exact congrArg Host.Outcome.next (reset straps s)
  · exact (exec_restartSent straps awake sending restart).trans (congrArg Host.Outcome.next (reset straps s))
  · exact ⟨_, rfl, rfl, rfl, rfl, rfl, rfl, rfl, rfl, rfl, rfl, leftOver s⟩
  · rintro s awake restarting i ⟨k, b, good⟩ frame
    rw [exec_frame frame, event_awake awake, frameArrives_restarting restarting]

end Sys2Proof.Machine
end

section
/-!
PROOF. Start-up up to the recovery scan's first read (O55).
-/

namespace Sys2Proof.Machine

section
variable {s : State} (awake : s.asserted = false)
include awake

theorem exec_flashReady {left : Nat} (waiting : s.startup = some (.readyWait left)) (e : FlashEnd) :
    exec (.flashReady e) s = .next (State.finish
      { s with
        startup := some .identWait, flash.waiting := s.flash.waiting ++ [.identify], flash.unfinished := none,
        flash.store := s.flash.unfinished.elim s.flash.store fun r => r.effect e s.flash.store }) := by
  refine (event_awake awake).trans ?_
  simp only [State.flashIsReady, waiting]
  cases s.flash.unfinished <;> rfl

theorem exec_flashReadyTimeout {left : Nat} (waiting : s.startup = some (.readyWait left)) :
    exec .flashReadyTimeout s = .next s.journalAbsent.finish := by
  refine (event_awake awake).trans ?_
  simp only [State.readyTimedOut, waiting]

variable (waiting : s.startup = some .identWait)
include waiting

theorem exec_identified {c : Byte} (known : 21 ≤ c.toNat ∧ c.toNat ≤ 27) (b0 b1 : Byte) :
    exec (.identificationResponse b0 b1 c) s = .next (State.finish
      ((s.freePort.withScan (.start (2 ^ c.toNat))).scanRead (2 ^ c.toNat - 16) 16)) := by
  refine (event_awake awake).trans ?_
  simp only [State.identified, waiting, if_pos known]

theorem exec_unidentified {c : Byte} (unknown : ¬ (21 ≤ c.toNat ∧ c.toNat ≤ 27)) (b0 b1 : Byte) :
    exec (.identificationResponse b0 b1 c) s = .next s.freePort.journalAbsent.finish := by
  refine (event_awake awake).trans ?_
  simp only [State.identified, waiting, if_neg unknown]

theorem exec_identificationTimeout :
    exec .identificationTimeout s = .next s.freePort.journalAbsent.finish := by
  refine (event_awake awake).trans ?_
  simp only [State.identTimedOut, waiting]

end

/-- Settles O55: a row for each answer, with the recovery scan's start written out. -/
theorem startUpIdentifies : Obligations.StartUpIdentifies := by
  refine fun s awake => ⟨fun left waiting => ⟨fun e => ?_, exec_flashReadyTimeout awake waiting⟩, fun waiting =>
    ⟨fun b0 b1 c least most => ⟨.start (2 ^ c.toNat), exec_identified awake waiting ⟨least, most⟩ b0 b1,
      rfl, rfl, rfl, rfl, rfl, rfl, rfl, rfl, rfl, rfl, rfl, rfl, rfl⟩,
    fun b0 b1 c unknown => exec_unidentified awake waiting unknown b0 b1,
    exec_identificationTimeout awake waiting⟩⟩
  rw [exec_flashReady awake waiting e]
  cases s.flash.unfinished <;> rfl

end Sys2Proof.Machine
end

section
/-!
PROOF. The recovery scan (O56): its index walk, its record walk, the seals and the ends.
-/

namespace Sys2Proof.Machine

/-! ## The bytes read -/

theorem mem_readN {m : List Host.Cell} {a n : Nat} {b : Byte} :
    b ∈ Memory.readN m a n ↔ ∃ i < n, Memory.read1 m (a + i) = b := by
  simp [Memory.readN]

/-- A span of blank bytes reads blank. -/
theorem readN_blank {m : List Host.Cell} {a n : Nat} (h : ∀ i < n, Memory.read1 m (a + i) = 0xFF#8) :
    ∀ b ∈ Memory.readN m a n, b = 0xFF#8 := by
  intro b hb
  obtain ⟨i, hi, rfl⟩ := mem_readN.mp hb
  exact h i hi

theorem all_blank_iff {bs : List Byte} : bs.all (fun b => b == Memory.blank) = true ↔ ∀ b ∈ bs, b = 0xFF#8 := by
  simp [Memory.blank]

theorem not_all_blank_iff {bs : List Byte} :
    ¬ bs.all (fun b => b == Memory.blank) = true ↔ ∃ b ∈ bs, b ≠ 0xFF#8 := by
  rw [all_blank_iff]
  push Not
  rfl

/-- Blank bytes begin with a blank byte. -/
theorem byteAt_blank {bs : List Byte} {n : Nat} (bytes : 0 < bs.length) (front : 0 < n)
    (blank : ∀ b ∈ bs.take n, b = 0xFF#8) : byteAt bs 0 = 0xFF#8 := by
  obtain ⟨b, rest, rfl⟩ := List.exists_cons_of_length_pos bytes
  obtain ⟨n, rfl⟩ := Nat.exists_eq_succ_of_ne_zero front.ne'
  exact blank b (by simp)

/-- An index record is not blank: it begins with its signature (R122). -/
theorem parseIndex_not_blank {bs : List Byte} {b : BatchInfo} (h : parseIndex bs = some b) : ∃ b ∈ bs, b ≠ 0xFF#8 := by
  have signature : byteAt bs 0 = 0xB7#8 := by
    unfold parseIndex at h
    split at h
    · rename_i good
      exact good.1
    · cases h
  cases bs with
  | nil => exact absurd signature (by decide)
  | cons x rest =>
    have first : x = 0xB7#8 := signature
    exact ⟨x, by simp, by rw [first]; decide⟩

/-- A record is not blank: it begins with its kind (R121). -/
theorem wellFormedRecord_not_blank {bs : List Byte} (h : wellFormedRecord bs = true) : byteAt bs 0 ≠ 0xFF#8 := by
  intro blank
  rw [wellFormedRecord, blank] at h
  simp [recordSize] at h

/-! ## The end of the scan (R149, R150) -/

/-- The journal's running values taken from the scan, start-up over (R149). -/
def State.takesScan (r : Recovery) (st : JournalState) (result : OpResult) (s : State) : State :=
  { s with
    startup := none, journal.st := st, journal.size := r.size, journal.recordEnd := r.recordEnd,
    journal.progEnd := r.recordEnd, journal.indexStart := r.lowest, journal.total := r.total,
    journal.delivered := r.delivered, journal.nextBatch := r.nextBatch, journal.pointer := r.pointer,
    journal.newestEnd := r.newestEnd, journal.lastResult := result }

theorem recoveryEnds_full (r : Recovery) (o : OpResult) (s : State) :
    s.recoveryEnds r .full o = ((s.takesScan r .full o).setFlag .journalFull).testLow := rfl

theorem recoveryEnds_other {st : JournalState} (h : st ≠ .full) (r : Recovery) (o : OpResult) (s : State) :
    s.recoveryEnds r st o = (s.takesScan r st o).testLow :=
  congrArg State.testLow (if_neg h)

/-- The test of the free space changes the flags alone. -/
theorem testLow_flash (s : State) : s.testLow.flash = s.flash := by
  unfold State.testLow
  split <;> rfl

theorem recoveryEnds_flash (r : Recovery) (st : JournalState) (o : OpResult) (s : State) :
    (s.recoveryEnds r st o).flash = s.flash := by
  by_cases full : st = .full
  · rw [full, recoveryEnds_full, testLow_flash]
    rfl
  · rw [recoveryEnds_other full, testLow_flash]
    rfl

/-- A scan that ends FULL sets JOURNAL_FULL. -/
theorem recoveryEnds_flag_full (r : Recovery) (o : OpResult) (s : State) :
    (s.recoveryEnds r .full o).flag .journalFull = true := by
  rw [recoveryEnds_full]
  exact (moves_testLow _).flag (flag_setFlag _ _)

/-- A scan that leaves less than a sixteenth free sets JOURNAL_LOW (R133; log 22). -/
theorem recoveryEnds_flag_low {r : Recovery} (low : r.lowest - r.recordEnd < r.size / 16) (st : JournalState)
    (o : OpResult) (s : State) : (s.recoveryEnds r st o).flag .journalLow = true := by
  by_cases full : st = .full
  · rw [full, recoveryEnds_full]
    exact flag_testLow low
  · rw [recoveryEnds_other full]
    exact flag_testLow low

/-- The end of a scan leaves JOURNAL_FAULT as it is. -/
theorem recoveryEnds_flag_fault (r : Recovery) (o : OpResult) (s : State) :
    (s.recoveryEnds r .fault o).flag .journalFault = s.flag .journalFault := by
  rw [recoveryEnds_other (by decide), State.testLow]
  split
  · exact flag_setFlag_other (by decide) _
  · rfl

/-- A failed read ends the scan in FAULT at the index start, with nothing captured (R150). -/
theorem recoveryReadFailed_leaves (r : Recovery) (s : State) :
    (s.recoveryReadFailed r).startup = none ∧ (s.recoveryReadFailed r).journal = { s.journal with
      st := .fault, size := r.size, recordEnd := r.lowest, progEnd := r.lowest, indexStart := r.lowest,
      total := r.total, delivered := r.delivered, nextBatch := r.nextBatch, pointer := r.pointer,
      newestEnd := r.newestEnd, lastResult := .readFailure } :=
  recoveryEnds_leaves { r with recordEnd := r.lowest } .fault .readFailure s

theorem recoveryReadFailed_flag_fault (r : Recovery) (s : State) :
    (s.recoveryReadFailed r).flag .journalFault = s.flag .journalFault :=
  (flag_setFlag_other (by decide) _).trans (recoveryEnds_flag_fault _ _ _)

/-! ## The seals (R147, R148) -/

section
variable {s : State} {r : Recovery} {p : Span} {rest : List Span} {full : Bool}

/-- With every span sealed the scan ends (R149). -/
theorem nextSeal_nil : s.nextSeal r [] full = s.recoveryEnds r (if full then .full else .opened) .good := rfl

/-- A seal with a number, a slot and room for its span is made: its index program is requested at once. -/
theorem nextSeal_made (number : r.nextBatch ≤ 65535) (slot : 16 ≤ r.lowest) (room : p.stop ≤ r.lowest - 16) :
    s.nextSeal r (p :: rest) full =
      (s.withScan { r with
        lowest := r.lowest - 16, nextBatch := r.nextBatch + 1, stage := .sealing (p :: rest) full }).requestFlash
      (.recoveryIndex (r.lowest - 16) (p.bytes r.nextBatch s.flash.store)) :=
  if_neg (by omega)

/-- A seal that cannot be made ends the recovery FULL (R148). -/
theorem nextSeal_stops (h : 65535 < r.nextBatch ∨ r.lowest < 16 ∨ r.lowest - 16 < p.stop) :
    s.nextSeal r (p :: rest) full = s.recoveryEnds { r with recordEnd := r.lowest } .full .good :=
  if_pos (by omega)

end

/-- The `k`-th run of at most 255 records as a span (R147). -/
def runSpan (recs : List (Nat × Nat)) (k : Nat) : Span :=
  let a := recs.getD (255 * k) (0, 0)
  let z := recs.getD (min (255 * k + 254) (recs.length - 1)) (0, 0)
  ⟨a.1, z.1 + z.2, min 255 (recs.length - 255 * k), false⟩

/-- The runs are the records 255 by 255, the last run the rest of them (R147). -/
theorem runSpans_eq (recs : List (Nat × Nat)) :
    runSpans recs = (List.range ((recs.length + 254) / 255)).map (runSpan recs) := by
  refine List.filterMap_eq_map_iff_forall_eq_some.mpr fun k hk => ?_
  have run : 255 * k < recs.length := by
    rw [List.mem_range] at hk
    omega
  have size : ((recs.drop (255 * k)).take 255).length = min 255 (recs.length - 255 * k) := by simp
  have first : ((recs.drop (255 * k)).take 255).head? = some (recs.getD (255 * k) (0, 0)) := by
    rw [List.head?_take, if_neg (by decide), List.head?_drop, List.getD_eq_getElem _ _ run,
      List.getElem?_eq_getElem run]
  have last : ((recs.drop (255 * k)).take 255).getLast? =
      some (recs.getD (min (255 * k + 254) (recs.length - 1)) (0, 0)) := by
    have place : 255 * k + (min 255 (recs.length - 255 * k) - 1) = min (255 * k + 254) (recs.length - 1) := by omega
    have inside : min (255 * k + 254) (recs.length - 1) < recs.length := by omega
    rw [List.getLast?_eq_getElem?, size, List.getElem?_take, if_pos (by omega), List.getElem?_drop, place,
      List.getD_eq_getElem _ _ inside, List.getElem?_eq_getElem inside]
  simp only [first, last, size]
  rfl

theorem length_runSpans (recs : List (Nat × Nat)) : (runSpans recs).length = (recs.length + 254) / 255 := by
  rw [runSpans_eq, List.length_map, List.length_range]

theorem getElem?_runSpans {recs : List (Nat × Nat)} {k : Nat} {a z : Nat × Nat} (first : recs[255 * k]? = some a)
    (last : recs[min (255 * k + 254) (recs.length - 1)]? = some z) :
    (runSpans recs)[k]? = some ⟨a.1, z.1 + z.2, min 255 (recs.length - 255 * k), false⟩ := by
  have inside : 255 * k < recs.length := (List.getElem?_eq_some_iff.mp first).1
  have run : k < (recs.length + 254) / 255 := by omega
  rw [runSpans_eq, List.getElem?_map, List.getElem?_range run, Option.map_some, runSpan, List.getD_eq_getElem?_getD,
    List.getD_eq_getElem?_getD, first, last]
  rfl

theorem extendLast_append (stop : Nat) (front : List Span) (z : Span) :
    extendLast stop (front ++ [z]) = front ++ [{ z with stop := max z.stop stop }] := by
  induction front with
  | nil => rfl
  | cons p front ih =>
    cases front with
    | nil => rfl
    | cons q front => exact congrArg (p :: ·) ih

section
variable {runs : List Span} {lowest torn : Nat} {page : Option Nat}

/-- The torn bytes are a VOID span while they and its slot fit above the runs' own slots (R147). -/
theorem sealPlan_void (slot : 16 * (runs.length + 1) ≤ lowest) (fits : torn < lowest - 16 * runs.length - 16) :
    sealPlan runs lowest torn page =
      (runs ++ [⟨torn, min (page.getD (torn + 65535)) (lowest - 16 * runs.length - 16), 0, true⟩],
        page.isNone || decide (lowest - 16 * runs.length - 16 < page.getD (torn + 65535))) :=
  if_pos ⟨slot, fits⟩

/-- With no slot above them and no run the torn bytes stand alone (log 34). -/
theorem sealPlan_alone (h : lowest < 16 ∨ lowest - 16 ≤ torn) :
    sealPlan [] lowest torn page = ([⟨torn, page.getD (torn + 65535), 0, true⟩], true) :=
  (if_neg (by simp only [List.length_nil]; omega)).trans (if_pos rfl)

/-- With no slot above them the torn bytes join the last run (R147; log 34). -/
theorem sealPlan_joins {front : List Span} {z : Span}
    (h : lowest < 16 * ((front ++ [z]).length + 1) ∨ lowest - 16 * (front ++ [z]).length - 16 ≤ torn) :
    sealPlan (front ++ [z]) lowest torn page =
      (front ++ [{ z with
        stop := max z.stop (min (page.getD (torn + 65535)) (lowest - 16 * (front ++ [z]).length)) }], true) := by
  refine (if_neg (by omega)).trans ((if_neg (by simp)).trans ?_)
  rw [extendLast_append]

end

/-! ## The record walk (R146) -/

section
variable {s : State} {r : Recovery} {p : Nat} {recs : List (Nat × Nat)} {bs : List Byte}

/-- The walk ends at the index start. -/
theorem walkTo_ends (h : p = r.lowest) : s.walkTo r p recs = s.sealWalked { r with recordEnd := p } recs := if_pos h

theorem walkTo_reads (h : p < r.lowest ∨ (p ≠ r.lowest ∧ p < r.size)) : s.walkTo r p recs =
    (s.withScan { r with recordEnd := p, stage := .recordWalk p recs }).scanRead p (min 256 (r.size - p)) :=
  (if_neg (by omega)).trans (if_neg (by omega))

/-- Past the store no byte is left: the record is torn, and no page lies above it (log 14). -/
theorem walkTo_past (above : r.lowest < p) (past : r.size ≤ p) :
    s.walkTo r p recs = s.sealTorn { r with recordEnd := p } recs p none := by
  refine (if_neg (by omega)).trans ((if_pos ⟨above, past⟩).trans (if_neg ?_))
  show ¬ (_ ∧ (p / 256 + 1) * 256 < r.size)
  omega

theorem walkRead_record (good : wellFormedRecord bs = true) (below : p + (byteAt bs 1).toNat ≤ r.lowest) :
    s.walkRead r p recs bs = s.walkTo r (p + (byteAt bs 1).toNat) (recs ++ [(p, (byteAt bs 1).toNat)]) :=
  (if_neg (wellFormedRecord_not_blank good)).trans (if_pos ⟨good, below⟩)

theorem walkRead_blank (bytes : 0 < bs.length) (blank : ∀ b ∈ bs.take (256 - p % 256), b = 0xFF#8) :
    s.walkRead r p recs bs = s.sealWalked r recs :=
  (if_pos (byteAt_blank bytes (by omega) blank)).trans (if_pos (all_blank_iff.mpr blank))

theorem walkRead_torn (h : (byteAt bs 0 = 0xFF#8 ∧ ∃ b ∈ bs.take (256 - p % 256), b ≠ 0xFF#8) ∨
    (byteAt bs 0 ≠ 0xFF#8 ∧ (wellFormedRecord bs = false ∨ r.lowest < p + (byteAt bs 1).toNat))) :
    s.walkRead r p recs bs = s.tornAt r p recs := by
  rcases h with ⟨blank, written⟩ | ⟨written, bad⟩
  · exact (if_pos blank).trans (if_neg (not_all_blank_iff.mpr written))
  · refine (if_neg written).trans (if_neg ?_)
    rintro ⟨good, below⟩
    rcases bad with malformed | above
    · rw [malformed] at good
      cases good
    · omega

/-! ## The index walk (R144, R145) -/

/-- A blank slot ends the walk. -/
theorem slotWalked_blank (h : ∀ b ∈ bs, b = 0xFF#8) : s.slotWalked r bs = s.walkTo r r.newestEnd [] :=
  if_pos (all_blank_iff.mpr h)

theorem slotWalked_good {b : BatchInfo} (parsed : parseIndex bs = some b) (further : r.lastNumber < b.number) :
    s.slotWalked r bs = s.nextSlot (r.goodSlot b) := by
  have good : goodIndex r.lastNumber bs = some b := by simp [goodIndex, parsed, further]
  refine (if_neg (not_all_blank_iff.mpr (parseIndex_not_blank parsed))).trans ?_
  rw [good]

/-- A slot neither blank nor good is dead: it only counts as in use. -/
theorem slotWalked_dead (written : ∃ b ∈ bs, b ≠ 0xFF#8)
    (dead : ∀ b, parseIndex bs = some b → b.number ≤ r.lastNumber) :
    s.slotWalked r bs = s.nextSlot { r with lowest := r.slot } := by
  have notGood : goodIndex r.lastNumber bs = none := by
    rw [goodIndex, Option.filter_eq_none_iff]
    intro b parsed
    simp [dead b parsed]
  refine (if_neg (not_all_blank_iff.mpr written)).trans ?_
  rw [notGood]

/-- The walk goes on one slot lower while a slot can lie there (R144). -/
theorem nextSlot_eq : s.nextSlot r =
    if 16 ≤ r.slot ∧ r.maxEnd ≤ r.slot - 16 then
      (s.withScan { r with slot := r.slot - 16 }).scanRead (r.slot - 16) 16
    else s.walkTo r r.newestEnd [] := by
  by_cases more : 16 ≤ r.slot ∧ r.maxEnd ≤ r.slot - 16
  · rw [if_pos more]
    exact if_neg (by omega)
  · rw [if_neg more]
    exact if_pos (by omega)

end

/-! ## The rows -/

section
variable {s : State} {r : Recovery} {off : Nat} (awake : s.asserted = false) (scanning : s.startup = some (.scanning r))
include awake scanning

section
variable {len : Nat} (port : s.flash.port = some (.read .recovery off len))
include port

theorem exec_recoveryReadGood : exec (.recoveryReadEnd true) s =
    .next (s.freePort.scanReadGood r (Memory.readN s.flash.store off len)).finish := by
  refine (event_awake awake).trans ?_
  simp only [State.recoveryReadEnded, port, scanning, if_true]

theorem exec_recoveryReadFailed :
    exec (.recoveryReadEnd false) s = .next (s.freePort.recoveryReadFailed r).finish := by
  refine (event_awake awake).trans ?_
  simp only [State.recoveryReadEnded, port, scanning, Bool.false_eq_true, if_false]

theorem exec_slotRead (stage : r.stage = .indexWalk) : exec (.recoveryReadEnd true) s =
    .next (s.freePort.slotWalked r (Memory.readN s.flash.store off len)).finish := by
  rw [exec_recoveryReadGood awake scanning port, State.scanReadGood, stage]

theorem exec_recordRead {p : Nat} {recs : List (Nat × Nat)} (stage : r.stage = .recordWalk p recs) :
    exec (.recoveryReadEnd true) s =
      .next (s.freePort.walkRead r p recs (Memory.readN s.flash.store off len)).finish := by
  rw [exec_recoveryReadGood awake scanning port, State.scanReadGood, stage]

variable {torn page : Nat} {recs : List (Nat × Nat)} (stage : r.stage = .blankSearch torn page recs)
include stage

theorem exec_pageBlank (blank : ∀ b ∈ Memory.readN s.flash.store off len, b = 0xFF#8) :
    exec (.recoveryReadEnd true) s = .next (s.freePort.sealTorn r recs torn (some page)).finish := by
  rw [exec_recoveryReadGood awake scanning port, State.scanReadGood, stage]
  dsimp only
  rw [if_pos (all_blank_iff.mpr blank)]

theorem exec_pageWritten (written : ∃ b ∈ Memory.readN s.flash.store off len, b ≠ 0xFF#8) :
    exec (.recoveryReadEnd true) s = .next (s.freePort.searchPage r torn (page + 256) recs).finish := by
  rw [exec_recoveryReadGood awake scanning port, State.scanReadGood, stage]
  dsimp only
  rw [if_neg (not_all_blank_iff.mpr written)]

end

/-- A seal that programs well counts as a batch, and the next one is made (R147). -/
theorem exec_sealProgrammed {bs : List Byte} {p : Span} {rest : List Span} {full : Bool}
    (port : s.flash.port = some (.recoveryIndex off bs)) (stage : r.stage = .sealing (p :: rest) full) :
    exec (.recoveryIndexProgramEnd .good) s = .next (State.finish (State.nextSeal
      { r with total := r.total + 1, newestEnd := p.stop, recordEnd := p.stop } rest full
      { s with flash.port := none, flash.portLeft := 0, flash.store := Memory.program s.flash.store off bs })) := by
  refine (event_awake awake).trans ?_
  simp only [State.recoveryIndexEnded, port, scanning, State.sealProgrammed, stage]
  rfl

end

/-! ## The whole -/

/-- Blank first bytes of the record walk end the scan with an empty OPEN journal (R149). -/
theorem blankWalk_ends {s : State} {r : Recovery} {off len p : Nat} (awake : s.asserted = false)
    (scanning : s.startup = some (.scanning r)) (port : s.flash.port = some (.read .recovery off len))
    (stage : r.stage = .recordWalk p []) (bytes : 0 < len)
    (blank : ∀ i < len, Memory.read1 s.flash.store (off + i) = 0xFF#8) :
    exec (.recoveryReadEnd true) s = .next (s.freePort.recoveryEnds r .opened .good).finish := by
  have front : ∀ b ∈ (Memory.readN s.flash.store off len).take (256 - p % 256), b = 0xFF#8 :=
    fun b hb => readN_blank blank b (List.mem_of_mem_take hb)
  rw [exec_recordRead awake scanning port stage, walkRead_blank (by rwa [length_readN]) front]
  rfl

/-- Settles O56: the ends of the scan by what they leave, each read by its stage, then the walk, the runs and the
seals by their own laws. -/
theorem recoveryScanReads : Obligations.RecoveryScanReads := by
  refine ⟨fun s r off len awake scanning => ⟨fun port => ⟨fun stage room blank => ?walkBegins,
        fun p stage bytes blank => ?empty, ?failed⟩,
      fun bs p full port stage => ?lastSealed⟩, ?reads,
    fun s r p recs => ⟨walkTo_ends, walkTo_reads, walkTo_past⟩,
    fun s r recs t page => ⟨rfl, length_runSpans recs, fun k a z => getElem?_runSpans, fun slot fits => ?void,
      fun h => ⟨fun noRun => ?alone, fun front z runs => ?joins⟩⟩,
    fun s r p rest full => ⟨nextSeal_made, fun h => ?stops,
      fun off bs awake scanning port stage => exec_sealProgrammed awake scanning port stage⟩⟩
  case walkBegins =>
    rw [exec_slotRead awake scanning port stage, slotWalked_blank (readN_blank blank), walkTo_reads (.inl room)]
    rfl
  case empty =>
    obtain ⟨startup, journal⟩ := recoveryEnds_leaves r .opened .good s.freePort
    refine ⟨_, blankWalk_ends awake scanning port stage bytes blank, ?_⟩
    rw [finish_journal, finish_startup, finish_store, flag_finish, startup, journal, recoveryEnds_flash]
    exact ⟨rfl, rfl, rfl, rfl, rfl, rfl, rfl, rfl, rfl, rfl, rfl, fun low => recoveryEnds_flag_low low _ _ _, rfl⟩
  case failed =>
    obtain ⟨startup, journal⟩ := recoveryReadFailed_leaves r s.freePort
    refine ⟨_, exec_recoveryReadFailed awake scanning port, ?_⟩
    rw [finish_journal, finish_startup, finish_store, flag_finish, flag_finish, startup, journal]
    exact ⟨rfl, rfl, rfl, flag_setFlag _ _, store_recoveryEnds _ _ _ _, rfl, rfl, rfl, rfl, rfl, rfl, rfl, rfl, rfl,
      recoveryReadFailed_flag_fault r s.freePort⟩
  case lastSealed =>
    obtain ⟨startup, journal⟩ := recoveryEnds_leaves
      { r with total := r.total + 1, newestEnd := p.stop, recordEnd := p.stop } (if full then .full else .opened) .good
      { s with flash.port := none, flash.portLeft := 0, flash.store := Memory.program s.flash.store off bs }
    refine ⟨_, exec_sealProgrammed awake scanning port stage, ?_⟩
    rw [nextSeal_nil, finish_journal, finish_startup, finish_store, flag_finish, startup, journal, recoveryEnds_flash]
    refine ⟨rfl, rfl, rfl, rfl, rfl, rfl, fun isFull => ?_, rfl⟩
    rw [isFull]
    exact recoveryEnds_flag_full _ _ _
  case reads =>
    intro s r off len awake scanning port bs u ask below hunt
    have searched (q : Recovery) (p page : Nat) (recs : List (Nat × Nat)) (size : q.size = r.size) :
        s.freePort.searchPage q p page recs = hunt q p page recs := by
      simp only [hunt, ← size]
      rfl
    have lower (g : Recovery) (slot : g.slot = r.slot) : s.freePort.nextSlot g = below g := by
      rw [nextSlot_eq, slot]
      rfl
    refine ⟨fun stage => ⟨fun blank => ?blankSlot, fun b parsed further => ?goodSlot, fun written dead => ?deadSlot⟩,
      fun p recs stage => ⟨fun good inside => ?record, fun bytes blank => ?noRecord, fun torn => ?tornRecord⟩,
      fun p page recs stage => ⟨fun blank => exec_pageBlank awake scanning port stage blank,
        fun written => ?writtenPage⟩⟩
    case blankSlot =>
      rw [exec_slotRead awake scanning port stage, slotWalked_blank blank]
      rfl
    case goodSlot =>
      intro marked
      rw [exec_slotRead awake scanning port stage, slotWalked_good parsed further, lower (r.goodSlot b) rfl]
      rfl
    case deadSlot =>
      rw [exec_slotRead awake scanning port stage, slotWalked_dead written dead, lower { r with lowest := r.slot } rfl]
    case record =>
      rw [exec_recordRead awake scanning port stage, walkRead_record good inside]
      rfl
    case noRecord =>
      rw [exec_recordRead awake scanning port stage, walkRead_blank (by rwa [length_readN]) blank]
      rfl
    case tornRecord =>
      rw [exec_recordRead awake scanning port stage, walkRead_torn torn, State.tornAt,
        searched { r with recordEnd := p } _ _ _ rfl]
    case writtenPage =>
      rw [exec_pageWritten awake scanning port stage written, searched r _ _ _ rfl]
  case void => rw [State.sealTorn, sealPlan_void slot fits]
  case alone =>
    rw [noRun] at h
    rw [State.sealTorn, noRun, sealPlan_alone h]
  case joins =>
    rw [runs] at h
    rw [State.sealTorn, runs, sealPlan_joins h]
  case stops =>
    obtain ⟨startup, journal⟩ := recoveryEnds_leaves { r with recordEnd := r.lowest } .full .good s
    dsimp only
    rw [nextSeal_stops h, startup, journal]
    exact ⟨rfl, rfl, rfl, rfl, rfl, rfl, rfl, rfl, recoveryEnds_flag_full _ _ _, recoveryEnds_flash _ _ _ _⟩

end Sys2Proof.Machine
end

section
/-!
PROOF. Every command is answered by one reply of its kind (O14): the data and the effect of what is not DONE, and the
reply among those that are out.
-/

namespace Sys2Proof.Machine

/-! ## Answers other than DONE (R169, R170) -/

theorem doBatchReceived_data {b : List Byte} {s : State} (h : (s.doBatchReceived b).1 ≠ .done) :
    (s.doBatchReceived b).2.1 = [] := by
  revert h
  unfold State.doBatchReceived
  split
  · split
    · exact fun _ => rfl
    · split
      · exact fun _ => rfl
      · split
        · exact fun h => absurd rfl h
        · exact fun _ => rfl
  · exact fun _ => rfl

/-- MISMATCH is an answer of BATCH RECEIVED alone (R161); the commands by how many tests of their own they make. -/
theorem carryOut_mismatch {c : Cmd} {b : List Byte} {s : State} (h : (s.carryOut c b).1 = .mismatch) :
    c = .batchReceived := by
  cases c
  case batchReceived => rfl
  case identify | restart | radioSet | flagsRead | flagsMask | countersRead | classWrite | legWrite | rosterBegin
    | rosterDiscard | missedRead | legStatus | routeClose | journalStatus | batchSeal | uploadStop =>
    simp only [State.carryOut, State.doIdentify, State.doRestart, State.doRadioSet, State.doFlagsRead,
      State.doFlagsMask, State.doCountersRead, State.doClassWrite, State.doLegWrite, State.doRosterBegin,
      State.doRosterDiscard, State.doMissedRead, State.doLegStatus, State.doRouteClose, State.doJournalStatus,
      State.doBatchSeal, State.doUploadStop, refuse] at h
    split at h <;> cases h
  case flagsClear | rosterEdit | rosterQuery | legOpen | legClose | uploadStart =>
    simp only [State.carryOut, State.doFlagsClear, State.doRosterEdit, State.doRosterQuery, State.doLegOpen,
      State.doLegClose, State.doUploadStart, refuse] at h
    split at h
    · cases h
    · split at h <;> cases h
  case rosterLoad | rosterCommit | journalClear =>
    simp only [State.carryOut, State.doRosterLoad, State.doRosterCommit, State.doJournalClear, refuse] at h
    split at h
    · cases h
    · split at h
      · cases h
      · split at h <;> cases h

/-- Whatever is answered but DONE carries no data (R170). -/
theorem carryOut_data {c : Cmd} {b : List Byte} {s : State} (h : (s.carryOut c b).1 ≠ .done) :
    (s.carryOut c b).2.1 = [] := by
  by_cases mismatch : (s.carryOut c b).1 = .mismatch
  · obtain rfl := carryOut_mismatch mismatch
    exact doBatchReceived_data h
  · rw [carryOut_refused h mismatch]
    rfl

theorem checkCommand_data {c : Cmd} {b : List Byte} {s : State} (h : (s.checkCommand c b).1 ≠ .done) :
    (s.checkCommand c b).2.1 = [] := by
  revert h
  unfold State.checkCommand
  split
  · exact fun _ => rfl
  · split
    · exact fun _ => rfl
    · exact carryOut_data

/-- Whatever a command answers but DONE and MISMATCH, its checks and its own tests have had no effect (R169). -/
theorem checkCommand_refused {c : Cmd} {b : List Byte} {s : State} (done : (s.checkCommand c b).1 ≠ .done)
    (mismatch : (s.checkCommand c b).1 ≠ .mismatch) : s.checkCommand c b = refuse (s.checkCommand c b).1 s := by
  revert done mismatch
  unfold State.checkCommand
  split
  · exact fun _ _ => rfl
  · split
    · exact fun _ _ => rfl
    · exact carryOut_refused

/-! ## The reply -/

theorem repliesOut_pushReply (k e : Byte) (o : ReplyCode) (d : List Byte) (restart : Bool) (s : State) :
    (s.pushReply k e o d restart).repliesOut = s.repliesOut ++ [⟨k, e, o, s.link.flags, d, restart⟩] :=
  (List.append_assoc _ _ _).symm

theorem repliesOut_checkCommand (c : Cmd) (b : List Byte) (s : State) :
    (s.checkCommand c b).2.2.repliesOut = s.repliesOut := by
  rw [State.repliesOut, checkCommand_sending, checkCommand_replies, State.repliesOut]

theorem checkCommand_rx (c : Cmd) (b : List Byte) (s : State) : (s.checkCommand c b).2.2.link.rx = s.link.rx := by
  have e := congrArg (fun x : State => x.link.rx) (outer_checkCommand c b s)
  exact e

theorem checkCommand_gapLeft (c : Cmd) (b : List Byte) (s : State) :
    (s.checkCommand c b).2.2.link.gapLeft = s.link.gapLeft := by
  have e := congrArg (fun x : State => x.link.gapLeft) (outer_checkCommand c b s)
  exact e

theorem checkCommand_draws (c : Cmd) (b : List Byte) (s : State) : (s.checkCommand c b).2.2.draws = s.draws := by
  have e := congrArg (fun x : State => x.draws) (outer_checkCommand c b s)
  exact e

/-- A command taken adds one reply, made of what its checks and its effect answer (R170). -/
theorem repliesOut_takeCommand (c : Cmd) (b : List Byte) (s : State) :
    (s.takeCommand c b).repliesOut = s.repliesOut ++
      [⟨c.kind + 0x80, c.kind, (s.checkCommand c b).1, (s.checkCommand c b).2.2.link.flags, (s.checkCommand c b).2.1,
        c == .restart && (s.checkCommand c b).1 == .done⟩] := by
  rw [State.takeCommand, repliesOut_pushReply, repliesOut_checkCommand]

/-- Settles O14: the reply is what the checks and the effect answer, and a refusal's effect is none. -/
theorem everyCommandAnswered : Obligations.EveryCommandAnswered := by
  refine ⟨fun _ _ _ _ _ _ => rfl, fun c b s h => ?_⟩
  refine ⟨(s.received.takeCommand c b).finish, _, exec_row c b h,
    (finish_repliesOut _).trans (repliesOut_takeCommand c b s.received), rfl, rfl, ?_, checkCommand_data, ?_, ?_, ?_,
    fun done mismatch => ?_⟩
  · exact (finish_flags (s.received.takeCommand c b)).symm
  · exact (finish_rx _).trans (checkCommand_rx c b s.received)
  · exact (finish_gapLeft _).trans (checkCommand_gapLeft c b s.received)
  · exact (finish_draws _).trans (congrArg (· + 1) (checkCommand_draws c b s.received))
  · have refused := exec_refused h done (checkCommand_refused done mismatch)
    rw [exec_row c b h] at refused
    exact Host.Outcome.next.inj refused

end Sys2Proof.Machine
end

section
/-!
PROOF. The end of a frame sent and the acknowledgement timer (O23).
-/

namespace Sys2Proof.Machine

section
variable {s : State}

/-- The frame sent is not a tail that the engine awaits the acknowledgement of (R158, R179). -/
theorem frameSent_plain {f : OutFrame} (straps : BitVec 2) (sending : s.link.sending = some f)
    (stays : ∀ r, f = .reply r → r.restart = false)
    (other : ¬ ((∃ n crc d, f = .upload (.tail n crc d)) ∧ s.upload.tailOut = true ∧ s.upload.st = .sending ∧
      s.upload.stage = .streaming)) : s.frameSent straps = { s with link.sending := none } := by
  cases f with
  | reply r => simp only [State.frameSent, sending, stays r rfl, Bool.false_eq_true, if_false]
  | notice n => simp only [State.frameSent, sending]
  | upload u =>
    cases u with
    | head b => simp only [State.frameSent, sending]
    | data n off bs => simp only [State.frameSent, sending]
    | tail n crc d =>
      have unawaited : ¬ (s.upload.tailOut = true ∧ s.streaming = true) := fun ⟨out, streams⟩ =>
        other ⟨⟨n, crc, d, rfl⟩, out, by simpa [State.streaming] using streams⟩
      simp only [State.frameSent, sending]
      exact if_neg unawaited

theorem streaming_of (st : s.upload.st = .sending) (stage : s.upload.stage = .streaming) : s.streaming = true := by
  rw [State.streaming, st, stage]
  rfl

/-- The current batch's tail is out, and its acknowledgement awaited (R158). -/
theorem frameSent_tail {n : Nat} {crc : Word16} {d : Bool} (straps : BitVec 2)
    (sending : s.link.sending = some (.upload (.tail n crc d))) (out : s.upload.tailOut = true)
    (st : s.upload.st = .sending) (stage : s.upload.stage = .streaming) :
    s.frameSent straps =
      { s with link.sending := none, upload.st := .awaitAck, upload.ackLeft := 20000, upload.tailOut := false } := by
  simp only [State.frameSent, sending]
  exact if_pos ⟨out, streaming_of st stage⟩

end

/-- Settles O23: the frame sent by what it is, and the timer by the engine's state. -/
theorem acknowledgementAwaited : Obligations.AcknowledgementAwaited := by
  refine ⟨fun straps s f awake sending stays => ⟨fun other => ?_, fun n crc d tail out st stage => ?_⟩,
    fun s awake => ⟨fun awaits => ?_, fun other => ?_⟩⟩
  · rw [← frameSent_plain straps sending stays other]
    exact event_awake awake
  · rw [← frameSent_tail straps (tail ▸ sending) out st stage]
    exact event_awake awake
  · refine (event_awake awake).trans ?_
    rw [State.ackExpired, if_pos awaits]
    rfl
  · refine (event_awake awake).trans ?_
    rw [State.ackExpired, if_neg other]

end Sys2Proof.Machine
end

section
/-!
PROOF. UPLOAD START, UPLOAD STOP and the choice of a batch (O58).
-/

namespace Sys2Proof.Machine

section
variable {s : State}

/-! ## The mark program in hand (R155) -/

theorem marking_eq_none {r : FlashReq} (h : ∀ k c, r ≠ .mark k c) : r.marking = none := by
  unfold FlashReq.marking
  split
  · exact absurd rfl (h _ _)
  · rfl

theorem markInHand_port {slot : Nat} {b : BatchInfo} (h : s.flash.port = some (.mark slot b)) :
    s.markInHand = some (slot, b) := by
  rw [State.markInHand, h]
  rfl

/-- With no mark program at the port, the one that waits is in hand. -/
theorem markInHand_waiting (h : ∀ k c, s.flash.port ≠ some (.mark k c)) :
    s.markInHand = s.flash.waiting.findSome? FlashReq.marking := by
  have port : s.flash.port.bind FlashReq.marking = none :=
    Option.bind_eq_none_iff.mpr fun r hr => marking_eq_none fun k c mark => h k c (mark ▸ hr)
  rw [State.markInHand, port]
  rfl

theorem findSome_marking_none {rs : List FlashReq} (h : ∀ k c, FlashReq.mark k c ∉ rs) :
    rs.findSome? FlashReq.marking = none :=
  List.findSome?_eq_none_iff.mpr fun _ mem => marking_eq_none fun k c mark => h k c (mark ▸ mem)

/-! ## The choice of a batch (R155) -/

theorem chooseBatch_marks {slot : Nat} {b : BatchInfo} (h : s.markInHand = some (slot, b)) :
    s.chooseBatch = { s with
      upload.st := .sending, upload.stage := .marking, upload.batch := some b, upload.slot := slot } := by
  rw [State.chooseBatch, h]

theorem chooseBatch_reads (unmarked : s.markInHand = none) (left : s.journal.delivered < s.journal.total) :
    s.chooseBatch = { s with
      upload.st := .sending, upload.stage := .streaming, upload.mismatches := 0, upload.slot := s.journal.pointer,
      flash.waiting := s.flash.waiting ++ [.read (.uploadSlot false) s.journal.pointer 16] } := by
  rw [State.chooseBatch, unmarked]
  exact if_pos left

theorem chooseBatch_waits (unmarked : s.markInHand = none) (all : s.journal.total ≤ s.journal.delivered)
    (sealed : s.journal.seals ≠ []) :
    s.chooseBatch = { s with upload.st := .sending, upload.stage := .waitingSeal, upload.batch := none } := by
  rw [State.chooseBatch, unmarked]
  exact (if_neg (Nat.not_lt.mpr all)).trans (if_pos sealed)

theorem chooseBatch_done (unmarked : s.markInHand = none) (all : s.journal.total ≤ s.journal.delivered)
    (unsealed : s.journal.seals = []) :
    s.chooseBatch = State.setFlag .uploadDone { s with upload.st := .done } := by
  rw [State.chooseBatch, unmarked]
  exact (if_neg (Nat.not_lt.mpr all)).trans (if_neg (not_not.mpr unsealed))

/-! ## The commands (R154, R164) -/

theorem doUploadStart_idle (sending : s.upload.st ≠ .sending) (awaits : s.upload.st ≠ .awaitAck) :
    s.doUploadStart [] =
      (.done, toLE 2 (s.journal.total - s.journal.delivered) ++ [s.startUpload.upload.st.code], s.startUpload) := by
  rw [State.doUploadStart, uploadIdle sending awaits, if_neg (by decide), if_neg (by decide)]

theorem orphan_eq (q : FlashReq) : q.orphan = (match q with
    | .read (.uploadSlot _) off len => .read (.uploadSlot true) off len
    | .read (.uploadData _) off len => .read (.uploadData true) off len
    | r => r) := by
  cases q with
  | read who off len => cases who <;> rfl
  | page | index | recoveryIndex | mark | erase | identify => rfl

theorem stopData_eq (s : State) : s.stopData =
    [s.upload.st.code] ++ toLE 2 (s.upload.batch.elim 0 BatchInfo.number) ++
      [if s.upload.st = .idle then Config.absentMismatchCount s.draws else BitVec.ofNat 8 s.upload.mismatches,
       stallCode s.upload.stall] := by
  unfold State.stopData
  cases s.upload.batch <;> rfl

end

/-- Settles O58: the two commands carried out, then the choice by what is in hand, undelivered or sealed. -/
theorem uploadStartsAndStops : Obligations.UploadStartsAndStops := by
  refine ⟨orphan_eq, fun s h free => ⟨fun phase sending awaits => ⟨s.received.startUpload, rfl, ?_⟩, ?_⟩,
    fun s => ⟨fun slot b port => chooseBatch_marks (markInHand_port port),
      fun slot b front back port split before => chooseBatch_marks ?_, fun markless => ?_⟩⟩
  · refine exec_carried (c := .uploadStart) h (by rcases phase with phase | phase <;> rw [phase] <;> rfl) (.inl free)
      (.inl (by decide)) ?_
    exact doUploadStart_idle (s := s.received) sending awaits
  · exact exec_carried (c := .uploadStop) h rfl (.inl free) (.inl (by decide))
      (congrArg (fun d => (ReplyCode.done, d, s.received.stopUpload)) (stopData_eq s.received))
  · rw [markInHand_waiting port, split, List.findSome?_append, findSome_marking_none before]
    rfl
  · have unmarked : s.markInHand = none :=
      (markInHand_waiting fun k c => (markless k c).1).trans (findSome_marking_none fun k c => (markless k c).2)
    exact ⟨chooseBatch_reads unmarked, chooseBatch_waits unmarked, chooseBatch_done unmarked⟩

end Sys2Proof.Machine
end

section
/-!
PROOF. BATCH RECEIVED (O59): its body read back, and each of its answers.
-/

namespace Sys2Proof.Machine

theorem parseAck_bytes {number : Nat} (crc : Word16) (h : number < 65536) :
    parseAck (toLE 2 number ++ toLE 2 crc.toNat) = some (number, crc) := by
  have first : field (toLE 2 number ++ toLE 2 crc.toNat) 0 2 = number := field_toLE_append h _
  have second : field (toLE 2 number ++ toLE 2 crc.toNat) 2 2 = crc.toNat := by
    rw [field_append_right _ _ (by simp), length_toLE]
    exact field_word_self crc
  rw [parseAck, if_pos (by simp), first, second, BitVec.ofNat_toNat, BitVec.setWidth_eq]

section
variable {s : State} {k : BatchInfo} {body : List Byte} {number : Nat} {crc : Word16}

/-- BATCH RECEIVED in AWAIT_ACK with a body that reads back (R160, R161). -/
theorem doBatchReceived_awaiting (awaits : s.upload.st = .awaitAck) (batch : s.upload.batch = some k)
    (read : parseAck body = some (number, crc)) :
    s.doBatchReceived body =
      if number ≠ k.number then refuse .param s
      else if s.upload.tailCrc = some crc then (.done, [], s.acknowledged k)
      else (.mismatch, [], s.mismatched k) := by
  simp only [State.doBatchReceived, awaits, batch, read]

/-- The batch goes out again from its head (R161). -/
theorem mismatched_again (batch : s.upload.batch = some k) (few : s.upload.mismatches + 1 < 3) :
    s.mismatched k = { s with
      upload.st := .sending, upload.stage := .streaming, upload.mismatches := s.upload.mismatches + 1,
      upload.ackLeft := 0, upload.sendOffset := 0, upload.runCrc := 0xFFFF, upload.tailCrc := none,
      upload.tailOut := false, upload.ready := some (.head k) } := by
  rw [State.mismatched, if_pos few, State.buildHead, ← batch]

/-- The third mismatch stalls the engine (R161). -/
theorem mismatched_third (many : 3 ≤ s.upload.mismatches + 1) :
    s.mismatched k = State.setFlag .uploadStalled { s with
      upload.st := .stalled, upload.stall := some .mismatch, upload.mismatches := s.upload.mismatches + 1,
      upload.ackLeft := 0, upload.ready := none, upload.tailOut := false } := by
  rw [State.mismatched, if_neg (Nat.not_lt.mpr many)]
  rfl

end

/-- Settles O59: the answer by the batch named, the tail's CRC and the count of mismatches. -/
theorem batchReceivedAcknowledges : Obligations.BatchReceivedAcknowledges := by
  intro s k number crc h free awaits batch small
  have carried := doBatchReceived_awaiting (s := s.received) awaits batch (parseAck_bytes crc small)
  have answer {o : ReplyCode} {t : State}
      (hc : s.received.doBatchReceived (toLE 2 number ++ toLE 2 crc.toNat) = (o, [], t)) :
      exec (.batchReceived (toLE 2 number ++ toLE 2 crc.toNat)) s =
        .next (State.finish (t.replied .batchReceived o [])) :=
    exec_carried (c := .batchReceived) h rfl (.inl free) (.inl (by decide)) hc
  refine ⟨fun named tail => answer ?_, fun named tail few => answer ?_, fun named tail many => answer ?_,
    fun other => answer ?_⟩
  · rw [carried, if_neg (not_not.mpr named)]
    exact if_pos tail
  · rw [carried, if_neg (not_not.mpr named), mismatched_again (s := s.received) batch few]
    exact if_neg tail
  · rw [carried, if_neg (not_not.mpr named), mismatched_third (s := s.received) many]
    exact if_neg tail
  · rw [carried, if_pos other]
    rfl

end Sys2Proof.Machine
end

section
/-!
PROOF. The ends of the upload engine's reads (O60): what the engine takes of a read by its state, and what it does then.
-/

namespace Sys2Proof.Machine

section
variable {s : State} {off len : Nat}

/-! ## An index slot (R153, R155, R156) -/

theorem uploadSlotEnded_streaming (port : s.flash.port = some (.read (.uploadSlot false) off len))
    (streams : s.streaming = true) : s.uploadSlotEnded = s.freePort.slotRead := by
  rw [State.uploadSlotEnded, port]
  exact if_pos ⟨rfl, streams⟩

theorem uploadSlotEnded_orphan (port : s.flash.port = some (.read (.uploadSlot true) off len)) :
    s.uploadSlotEnded = s.freePort := by
  rw [State.uploadSlotEnded, port]
  exact if_neg (by simp)

/-! ## Batch data (R157) -/

theorem takesData_streaming (port : s.flash.port = some (.read (.uploadData false) off len))
    (streams : s.streaming = true) : s.takesData = true := by
  rw [State.takesData, port]
  exact streams

theorem takesData_orphan (port : s.flash.port = some (.read (.uploadData true) off len)) : s.takesData = false := by
  rw [State.takesData, port]
  rfl

/-- A data read stops the model only when the engine takes it and it lies outside the store (log 18). -/
theorem dataOutside_iff {orphan : Bool} (port : s.flash.port = some (.read (.uploadData orphan) off len)) :
    s.dataOutside = true ↔ s.takesData = true ∧ s.journal.size < off + len := by
  rw [State.dataOutside, port]
  simp

theorem exec_dataOutside (awake : s.asserted = false) (outside : s.dataOutside = true) :
    exec .uploadDataReadEnd s = .fault .storeRange :=
  if_pos (by simp [awake, outside])

theorem exec_dataInside (awake : s.asserted = false) (inside : ¬ s.dataOutside = true) :
    exec .uploadDataReadEnd s = .next s.uploadDataEnded.finish :=
  (if_neg (by simpa [awake] using inside)).trans (event_awake awake)

theorem uploadDataEnded_taken (port : s.flash.port = some (.read (.uploadData false) off len))
    (takes : s.takesData = true) : s.uploadDataEnded = s.freePort.dataRead off len := by
  rw [State.uploadDataEnded, port]
  exact if_pos takes

theorem uploadDataEnded_orphan (port : s.flash.port = some (.read (.uploadData true) off len)) :
    s.uploadDataEnded = s.freePort := by
  rw [State.uploadDataEnded, port]
  exact if_neg (by simp [takesData_orphan port])

/-! ## A read that failed (R159) -/

theorem uploadReadFailed_streaming
    (port : s.flash.port = some (.read (.uploadSlot false) off len) ∨
      s.flash.port = some (.read (.uploadData false) off len))
    (streams : s.streaming = true) : s.uploadReadFailed = s.freePort.stallUpload .readFailure := by
  rcases port with port | port <;> rw [State.uploadReadFailed, port] <;> exact if_pos ⟨rfl, streams⟩

theorem uploadReadFailed_orphan
    (port : s.flash.port = some (.read (.uploadSlot true) off len) ∨
      s.flash.port = some (.read (.uploadData true) off len)) : s.uploadReadFailed = s.freePort := by
  rcases port with port | port <;> rw [State.uploadReadFailed, port] <;> exact if_neg (by simp)

end

/-- Settles O60: each read by its reader, whether the engine still streams, and how it ended. -/
theorem uploadReadsEnd : Obligations.UploadReadsEnd := by
  intro s off len awake
  refine ⟨fun port st stage => ⟨fun b good => ?_, fun dead => ?_⟩, fun port st stage => ?_,
    fun port st stage => ?_, fun port => ⟨?_, ?_⟩, fun port => ⟨?_, ?_⟩⟩
  · refine (event_awake awake).trans ?_
    rw [uploadSlotEnded_streaming port (streaming_of st stage), State.slotRead]
    have record : parseIndex (Memory.readN s.freePort.flash.store s.freePort.upload.slot 16) = some b := good
    rw [record]
    rfl
  · refine (event_awake awake).trans ?_
    rw [uploadSlotEnded_streaming port (streaming_of st stage), State.slotRead]
    have blank : parseIndex (Memory.readN s.freePort.flash.store s.freePort.upload.slot 16) = none := dead
    rw [blank]
    rfl
  · have takes := takesData_streaming port (streaming_of st stage)
    refine ⟨fun b batch inside => ?_,
      fun outside => exec_dataOutside awake ((dataOutside_iff port).mpr ⟨takes, outside⟩)⟩
    have current : s.freePort.upload.batch = some b := batch
    rw [exec_dataInside awake fun outside => Nat.not_lt.mpr inside ((dataOutside_iff port).mp outside).2,
      uploadDataEnded_taken port takes, State.dataRead, current]
    rfl
  · refine (event_awake awake).trans ?_
    rw [uploadReadFailed_streaming port (streaming_of st stage)]
    rfl
  · rw [exec_dataInside awake (by simp [dataOutside_iff port, takesData_orphan port]), uploadDataEnded_orphan port]
    rfl
  · refine (event_awake awake).trans ?_
    rw [uploadReadFailed_orphan (.inr port)]
    rfl
  · refine (event_awake awake).trans ?_
    rw [uploadSlotEnded_orphan port]
    rfl
  · refine (event_awake awake).trans ?_
    rw [uploadReadFailed_orphan (.inl port)]
    rfl

end Sys2Proof.Machine
end

section
/-!
PROOF. The frame receiver and the frames turned away (O15 to O18): the receiver byte by byte, the frame that its last
byte completes, and the checks of a frame in their order.
-/

namespace Sys2Proof.Machine

/-! ## Steps 1 to 4 of the checks (R168 to R171) -/

section
variable {k : Byte} {b : List Byte} {s : State}

theorem ofKind_eq_none (unknown : ∀ c : Cmd, c.kind ≠ k) : Cmd.ofKind k = none :=
  List.find?_eq_none.mpr fun c _ => by simpa using unknown c

/-- A frame that completes while 2 replies wait is counted and discarded (R168). -/
theorem frameArrives_overrun {g : Bool} (running : s.link.restarting = false) (full : 2 ≤ s.link.replies.length) :
    s.frameArrives k b g = s.received.countOverrun :=
  (if_neg (by simp [running])).trans (if_pos full)

theorem frameArrives_listening {g : Bool} (h : Listening s) : s.frameArrives k b g = s.received.takeFrame k b g :=
  (if_neg (by simp [h.running])).trans (if_neg (Nat.not_le.mpr h.room))

/-- Step 1 of R169. -/
theorem takeFrame_check : s.takeFrame k b false = s.countLinkCheck.pushReply 0x80 0 .check [] false := rfl

/-- Step 2 of R169. -/
theorem takeFrame_unknown (unknown : ∀ c : Cmd, c.kind ≠ k) :
    s.takeFrame k b true = s.pushReply (unknownReplyKind k) k .unknown [] false := by
  simp [State.takeFrame, ofKind_eq_none unknown]

/-- A complete frame that finds 2 replies waiting, by any row (R168). -/
theorem event_overrun {g : Bool} (awake : s.asserted = false) (running : s.link.restarting = false)
    (full : 2 ≤ s.link.replies.length) :
    event (State.frameArrives k b g) s = .next s.received.countOverrun.finish := by
  rw [event_awake awake, frameArrives_overrun running full]

/-- A complete frame whose CRC is bad, by any row (R169). -/
theorem event_check {crc : Word16} (h : Listening s) (bad : frameCrc k b ≠ crc) :
    event (State.frameArrives k b (frameCrc k b == crc)) s =
      .next (s.received.countLinkCheck.pushReply 0x80 0 .check [] false).finish := by
  rw [event_awake h.awake, frameArrives_listening h, beq_false_of_ne bad, takeFrame_check]

end

/-- Settles O17: steps 1 and 2 of the checks, and the overrun that comes before them. -/
theorem framesTurnedAway : Obligations.FramesTurnedAway := by
  refine ⟨fun k b crc s h => ⟨event_check h, fun good unknown => ?_⟩,
    fun s awake running full => ⟨fun k b crc => ?_, fun c b => ?_⟩⟩
  · refine (event_awake h.awake).trans ?_
    rw [beq_iff_eq.mpr good, frameArrives_listening h, takeFrame_unknown unknown]
    rfl
  · exact event_overrun awake running full
  · exact (exec_row_event c b s).trans (event_overrun awake running full)

/-- The route phases of each command (R171). -/
theorem inPhase_iff (c : Cmd) (p : Phase) : c.inPhase p = true ↔
    (c = .classWrite ∨ c = .rosterBegin ∨ c = .journalClear → p = .none) ∧
      (c = .legWrite → p = .none ∨ p = .loading) ∧ (c = .rosterLoad ∨ c = .rosterCommit → p = .loading) ∧
      (c = .rosterDiscard → p = .loading ∨ p = .closed) ∧
      (c = .rosterEdit ∨ c = .legOpen ∨ c = .legClose ∨ c = .routeClose → p = .active) ∧
      (c = .rosterQuery ∨ c = .missedRead ∨ c = .legStatus → p = .active ∨ p = .closed) ∧
      (c = .uploadStart → p = .none ∨ p = .closed) := by
  cases c <;> simp [Cmd.inPhase]

theorem longOp_iff (s : State) :
    s.longOp = true ↔ s.startup.isSome ∨ s.roster.rebuild.isSome ∨ s.journal.st = .erasing := by
  simp [State.longOp, or_assoc]

/-- The commands that a long operation leaves alone (R171). -/
theorem duringLong_iff (c : Cmd) : c.duringLong = true ↔
    c ∈ [Cmd.identify, .restart, .flagsRead, .flagsClear, .flagsMask, .countersRead, .journalStatus] := by
  cases c <;> decide

theorem checkCommand_notNow {c : Cmd} {s : State} (b : List Byte) (outside : ¬ c.inPhase s.roster.phase = true) :
    s.checkCommand c b = refuse .notNow s := if_pos (by simpa using outside)

theorem checkCommand_busy {c : Cmd} {s : State} (b : List Byte) (inside : c.inPhase s.roster.phase = true)
    (long : s.longOp = true) (refused : ¬ c.duringLong = true) : s.checkCommand c b = refuse .busy s :=
  (if_neg (by simp [inside])).trans (if_pos (by simp [long, refused]))

/-- Settles O18: steps 3 and 4 of the checks. -/
theorem refusedByPhaseOrBusy : Obligations.RefusedByPhaseOrBusy := by
  refine ⟨longOp_iff, fun c b s h => ⟨fun outside => ?_, fun inside long refused => ?_⟩⟩
  · exact exec_refused h (by decide) (checkCommand_notNow b (mt (inPhase_iff c _).mp outside))
  · exact exec_refused h (by decide) (checkCommand_busy b ((inPhase_iff c _).mpr inside) ((longOp_iff s).mpr long)
      (mt (duringLong_iff c).mp refused))

/-! ## The receiver (R166, R167) -/

section
variable {s : State} {x : Byte}

theorem linkByte_hunt (rx : s.link.rx = .hunt) : s.linkByte x = if x = 0xA5 then s.setRx .length else s := by
  simp only [State.linkByte, rx]
  rfl

theorem linkByte_length (rx : s.link.rx = .length) :
    s.linkByte x = if 1 ≤ x.toNat ∧ x.toNat ≤ 251 then s.setRx (.body x.toNat []) else s.received := by
  simp only [State.linkByte, rx]
  rfl

theorem linkByte_body {n : Nat} {got : List Byte} (rx : s.link.rx = .body n got) :
    s.linkByte x =
      if got.length + 1 < n then s.setRx (.body n (got ++ [x])) else s.setRx (.check (got ++ [x]) []) := by
  simp only [State.linkByte, rx]

theorem linkByte_firstCheck {frame : List Byte} (rx : s.link.rx = .check frame []) :
    s.linkByte x = s.setRx (.check frame [x]) := by
  simp only [State.linkByte, rx]

/-- The second CRC byte completes the frame. -/
theorem linkByte_lastCheck {frame : List Byte} {lo : Byte} (rx : s.link.rx = .check frame [lo]) :
    s.linkByte x = s.frameArrives (byteAt frame 0) frame.tail
      (frameCrc (byteAt frame 0) frame.tail == BitVec.ofNat 16 (le [lo, x])) := by
  simp only [State.linkByte, rx]

/-- A receiver that has begun a frame stores bytes with its gap timer running. -/
theorem setRx_begun {r : Receiver} (begun : r ≠ .hunt) : s.setRx r = { s with link.rx := r, link.gapLeft := 5 } := by
  rw [State.setRx, if_neg begun]

theorem framingError_hunt (rx : s.link.rx = .hunt) : s.framingError = s := by rw [State.framingError, rx]

theorem gapExpires_hunt (rx : s.link.rx = .hunt) : s.gapExpires = s := by rw [State.gapExpires, rx]

theorem framingError_begun (rx : s.link.rx ≠ .hunt) : s.framingError = s.received.countLinkCheck := by
  unfold State.framingError
  split
  · exact absurd ‹_› rx
  · rfl

theorem gapExpires_begun (rx : s.link.rx ≠ .hunt) : s.gapExpires = s.received.countGapAbort := by
  unfold State.gapExpires
  split
  · exact absurd ‹_› rx
  · rfl

/-- The byte that completes a frame is the row of the frame's command, when its CRC is good. -/
theorem exec_lastByte {c : Cmd} {b : List Byte} {lo : Byte} (awake : s.asserted = false)
    (rx : s.link.rx = .check (c.kind :: b) [lo]) (good : frameCrc c.kind b = BitVec.ofNat 16 (le [lo, x])) :
    exec (.linkByteReceived x) s = exec (c.row b) s := by
  rw [exec_row_event, event_awake awake]
  refine (event_awake awake).trans ?_
  rw [linkByte_lastCheck rx]
  exact congrArg (fun g => Host.Outcome.next (s.frameArrives c.kind b g).finish) (beq_iff_eq.mpr good)

end

/-- Settles O16: the receiver's equations, one for each of its states. -/
theorem receiverByByte : Obligations.ReceiverByByte := by
  intro s awake
  refine ⟨fun rx x => ?_, fun rx x => ?_, fun n got rx x => ?_, fun frame rx x => ?_, fun frame lo rx x => ?_,
    fun rx => ⟨?_, ?_⟩, fun rx => ⟨?_, ?_⟩⟩
  · refine (event_awake awake).trans ?_
    rw [linkByte_hunt rx, setRx_begun (by simp)]
  · refine (event_awake awake).trans ?_
    rw [linkByte_length rx, setRx_begun (by simp)]
  · refine (event_awake awake).trans ?_
    rw [linkByte_body rx, setRx_begun (by simp), setRx_begun (by simp)]
  · refine (event_awake awake).trans ?_
    rw [linkByte_firstCheck rx, setRx_begun (by simp)]
  · have completes : exec (.linkByteReceived x) s =
        exec (.linkFrameRefused (byteAt frame 0) frame.tail (BitVec.ofNat 16 (le [lo, x]))) s := by
      refine (event_awake awake).trans ?_
      rw [linkByte_lastCheck rx]
      exact (event_awake awake).symm
    refine ⟨completes, completes, fun c b whole good => ?_, fun h bad => completes.trans (event_check h bad)⟩
    subst whole
    exact exec_lastByte awake rx good
  · refine (event_awake awake).trans ?_
    rw [framingError_begun rx]
    rfl
  · refine (event_awake awake).trans ?_
    rw [gapExpires_begun rx]
    rfl
  · refine (event_awake awake).trans ?_
    rw [framingError_hunt rx]
  · refine (event_awake awake).trans ?_
    rw [gapExpires_hunt rx]

/-! ## The receiver at the end of a step

The end of a step neither reads nor changes the receiver and its gap timer. -/

section
variable (r : Receiver) (s : State)

theorem afterUploadTaken_setRx (f : UploadFrame) :
    (s.setRx r).afterUploadTaken f = (s.afterUploadTaken f).setRx r := by
  by_cases tail : ∃ n c d, f = .tail n c d
  · obtain ⟨n, c, d, rfl⟩ := tail
    rfl
  · have other : ∀ n c d, f ≠ .tail n c d := fun n c d e => tail ⟨n, c, d, e⟩
    cases batch : s.upload.batch with
    | none =>
      rw [afterUploadTaken_noBatch other batch]
      exact afterUploadTaken_noBatch other batch
    | some b =>
      by_cases sent : b.void = true ∨ b.length ≤ s.upload.sendOffset
      · rw [afterUploadTaken_sent other batch sent]
        exact afterUploadTaken_sent other batch sent
      · rw [afterUploadTaken_more other batch sent]
        exact afterUploadTaken_more other batch sent

theorem arbitrate_setRx : (s.setRx r).arbitrate = s.arbitrate.setRx r := by
  cases sending : s.link.sending with
  | some o =>
    rw [arbitrate_busy sending]
    exact arbitrate_busy sending
  | none =>
    cases replies : s.link.replies with
    | cons q qs =>
      rw [arbitrate_reply sending replies]
      exact arbitrate_reply sending replies
    | nil =>
      cases ready : s.upload.ready with
      | none =>
        rw [arbitrate_notice sending replies ready]
        exact arbitrate_notice sending replies ready
      | some f =>
        rw [arbitrate_frame sending replies ready, ← afterUploadTaken_setRx]
        exact arbitrate_frame sending replies ready

theorem requestPage_setRx : (s.setRx r).requestPage = s.requestPage.setRx r := by
  rw [requestPage_eq s]
  exact requestPage_eq _

theorem requestIndex_setRx : (s.setRx r).requestIndex = s.requestIndex.setRx r := by
  rw [requestIndex_eq s]
  exact requestIndex_eq _

theorem issue_setRx : (s.setRx r).issue = s.issue.setRx r := by
  cases port : s.flash.port with
  | some q =>
    rw [issue_busy port]
    exact issue_busy port
  | none =>
    cases next : nextRequest s.flash.waiting (s.journal.st == .erasing) with
    | none =>
      rw [issue_none port next]
      exact issue_none port next
    | some q =>
      rw [issue_some port next]
      exact issue_some port next

theorem refreshLines_setRx : (s.setRx r).refreshLines = s.refreshLines.setRx r := rfl

theorem finish_setRx : (s.setRx r).finish = s.finish.setRx r := by
  rw [State.finish, arbitrate_setRx, requestPage_setRx, requestIndex_setRx, issue_setRx, refreshLines_setRx,
    State.finish]

end

/-! ## A whole frame (10.1) -/

/-- The bytes of a frame on the wire, one by one: the last two are its CRC. -/
theorem wireBytes_crcBytes (k : Byte) (b : List Byte) :
    ∃ lo hi, wireBytes k b = 0xA5 :: BitVec.ofNat 8 (b.length + 1) :: k :: (b ++ [lo, hi]) ∧
      frameCrc k b = BitVec.ofNat 16 (le [lo, hi]) := by
  have wire : wireBytes k b = [0xA5, BitVec.ofNat 8 (b.length + 1), k] ++ b ++ toLE 2 (frameCrc k b).toNat := rfl
  generalize frameCrc k b = crc at wire
  refine ⟨BitVec.ofNat 8 crc.toNat, BitVec.ofNat 8 (crc.toNat / 256), wire, ?_⟩
  have value : le (toLE 2 crc.toNat) = crc.toNat := le_toLE crc.isLt
  exact ((congrArg (BitVec.ofNat 16) value).trans (BitVec.ofNat_toNat 16 crc)).symm

/-- A command's row takes no notice of where the receiver stands (R166). -/
theorem exec_row_setRx {s : State} (awake : s.asserted = false) (c : Cmd) (b : List Byte) (r : Receiver) :
    exec (c.row b) (s.setRx r) = exec (c.row b) s := by
  rw [exec_row_event, exec_row_event, event_awake awake]
  exact event_awake awake

theorem runRows_cons {i : Instr} {is : List Instr} {s t : State} (h : exec i s = .next t) :
    runRows (i :: is) s = runRows is t := by
  rw [runRows, h]

section
variable {s : State} (awake : s.asserted = false) (rest : s.finish = s)
include awake rest

/-- A byte that only moves the receiver of a part at rest. -/
theorem exec_byte_setRx {r q : Receiver} {x : Byte} (taken : (s.setRx r).linkByte x = s.setRx q) :
    exec (.linkByteReceived x) (s.setRx r) = .next (s.setRx q) := by
  refine (event_awake (s := s.setRx r) awake).trans ?_
  rw [taken, finish_setRx, rest]

/-- The kind and the body are stored, and then the CRC is awaited (R166). -/
theorem runRows_body (x : Byte) (bs got : List Byte) (next : List Instr) {n : Nat}
    (whole : got.length + bs.length + 1 = n) :
    runRows ((x :: bs).map Instr.linkByteReceived ++ next) (s.setRx (.body n got)) =
      runRows next (s.setRx (.check (got ++ x :: bs) [])) := by
  have stored : (s.setRx (.body n got)).linkByte x = _ := linkByte_body rfl
  induction bs generalizing x got with
  | nil =>
    rw [List.length_nil] at whole
    rw [if_neg (by omega)] at stored
    exact runRows_cons (exec_byte_setRx awake rest stored)
  | cons y ys ih =>
    rw [List.length_cons] at whole
    rw [if_pos (by omega)] at stored
    refine (runRows_cons (exec_byte_setRx awake rest stored)).trans ?_
    rw [← List.singleton_append (l := y :: ys), ← List.append_assoc]
    exact ih y (got ++ [x]) (by rw [List.length_append, List.length_singleton]; omega) (linkByte_body rfl)

/-- The bytes of a good frame bring a hunting receiver of a part at rest to its last byte. -/
theorem runRows_frame {k hi lo : Byte} {b : List Byte} (hunting : s.link.rx = .hunt) (short : b.length ≤ 250) :
    runRows ((0xA5 :: BitVec.ofNat 8 (b.length + 1) :: k :: (b ++ [lo, hi])).map Instr.linkByteReceived) s =
      runRows [.linkByteReceived hi] (s.setRx (.check (k :: b) [lo])) := by
  have marker : exec (.linkByteReceived 0xA5) s = .next (s.setRx .length) := by
    refine (event_awake awake).trans ?_
    rw [linkByte_hunt hunting, if_pos rfl, finish_setRx, rest]
  have length : (BitVec.ofNat 8 (b.length + 1)).toNat = b.length + 1 := toNat_ofNat_byte (by omega)
  have begun : (s.setRx .length).linkByte (BitVec.ofNat 8 (b.length + 1)) = _ := linkByte_length rfl
  rw [if_pos (by omega), length] at begun
  rw [List.map_cons, runRows_cons marker, List.map_cons, runRows_cons (exec_byte_setRx awake rest begun),
    ← List.cons_append, List.map_append, runRows_body awake rest k b [] _ (by simp [Nat.add_comm])]
  exact runRows_cons (exec_byte_setRx awake rest (linkByte_firstCheck rfl))

end

/-- Settles O15: the bytes up to the last move the receiver alone, and the last is the command's row. -/
theorem frameBytesAreTheCommand : Obligations.FrameBytesAreTheCommand := by
  intro c b s t awake rest hunting short row
  obtain ⟨lo, hi, wire, good⟩ := wireBytes_crcBytes c.kind b
  have last : exec (.linkByteReceived hi) (s.setRx (.check (c.kind :: b) [lo])) = .next t := by
    rw [exec_lastByte (s := s.setRx _) awake rfl good, exec_row_setRx awake, row]
  rw [wire, runRows_frame awake rest hunting short, runRows_cons last]
  rfl

end Sys2Proof.Machine
end

section
/-!
PROOF. The flags that stay set (O11): no operation of the part takes a flag out of the set but the effect of FLAGS CLEAR
and a reset.
-/

namespace Sys2Proof.Machine

/-- Between two states every flag that was set stays set (R175). -/
structure FlagsStay (s t : State) : Prop where
  stays : ∀ n, s.link.flags.getLsbD n = true → t.link.flags.getLsbD n = true

section
variable {s t u : State}

theorem FlagsStay.of_eq (h : t.link.flags = s.link.flags) : FlagsStay s t := ⟨fun n set => by rwa [h]⟩

theorem FlagsStay.trans (h : FlagsStay s t) (k : FlagsStay t u) : FlagsStay s u :=
  ⟨fun n set => k.stays n (h.stays n set)⟩

/-- What leaves the flags comes first. -/
theorem FlagsStay.before (h : FlagsStay t u) (e : t.link.flags = s.link.flags) : FlagsStay s u := (of_eq e).trans h

/-- What leaves the flags comes last. -/
theorem FlagsStay.after (h : FlagsStay s t) (e : u.link.flags = t.link.flags) : FlagsStay s u := h.trans (of_eq e)

theorem FlagsStay.of_moves (h : Moves s t) : FlagsStay s t := by
  refine ⟨fun n set => ?_⟩
  rw [← h.flags, BitVec.getLsbD_and, Bool.and_eq_true] at set
  exact set.1

theorem FlagsStay.setFlag (h : FlagsStay s t) (f : Flag) : FlagsStay s (t.setFlag f) :=
  h.trans (.of_moves (moves_setFlag f t))

/-- A candidate that opens in the middle of a run of small changes leaves the flags. -/
theorem FlagsStay.of_openMoves (h : OpenMoves s t) : FlagsStay s t := by
  obtain run | ⟨u, k, first, _, _, last⟩ := h
  · exact .of_moves run
  · exact (of_moves first).trans ((of_moves last).before rfl)

end

section
variable (s : State)

/-! ## The upload engine -/

theorem flagsStay_chooseBatch : FlagsStay s s.chooseBatch := by
  unfold State.chooseBatch
  split
  · exact .of_eq rfl
  · split
    · exact .of_eq rfl
    · split
      · exact .of_eq rfl
      · refine FlagsStay.setFlag ?_ .uploadDone
        exact .of_eq rfl

theorem flagsStay_sealsChanged : FlagsStay s s.sealsChanged := by
  unfold State.sealsChanged
  split
  · exact flagsStay_chooseBatch s
  · exact .of_eq rfl

theorem flagsStay_stallUpload (why : StallReason) : FlagsStay s (s.stallUpload why) := by
  refine FlagsStay.setFlag ?_ .uploadStalled
  exact .of_eq rfl

theorem flagsStay_uploadSlotEnded : FlagsStay s s.uploadSlotEnded := by
  unfold State.uploadSlotEnded
  split
  · split
    · unfold State.slotRead
      split <;> exact .of_eq rfl
    · exact .of_eq rfl
  · exact .of_eq rfl

theorem flagsStay_uploadDataEnded : FlagsStay s s.uploadDataEnded := by
  unfold State.uploadDataEnded
  split
  · split
    · unfold State.dataRead
      split <;> exact .of_eq rfl
    · exact .of_eq rfl
  · exact .of_eq rfl

theorem flagsStay_uploadReadFailed : FlagsStay s s.uploadReadFailed := by
  have stalled := (flagsStay_stallUpload s.freePort .readFailure).before (s := s) rfl
  unfold State.uploadReadFailed
  split
  · split
    · exact stalled
    · exact .of_eq rfl
  · split
    · exact stalled
    · exact .of_eq rfl
  · exact .of_eq rfl

theorem flagsStay_ackExpired : FlagsStay s s.ackExpired := by
  unfold State.ackExpired
  split
  · exact flagsStay_stallUpload s .timeout
  · exact .of_eq rfl

theorem flagsStay_tailSent : FlagsStay s s.tailSent := by
  unfold State.tailSent
  split <;> exact .of_eq rfl

/-! ## The flash port -/

theorem flagsStay_pageEnded : FlagsStay s s.pageEnded := by
  unfold State.pageEnded
  split
  · exact (FlagsStay.of_moves (moves_retry _)).before rfl
  · exact .of_eq rfl

theorem flagsStay_indexEnded : FlagsStay s s.indexEnded := by
  unfold State.indexEnded
  split
  · unfold State.batchJoins
    split
    · exact .of_eq rfl
    · exact (flagsStay_sealsChanged _).before rfl
  · exact .of_eq rfl

theorem flagsStay_journalFault (off : Nat) (issued : Bool) : FlagsStay s (s.journalFault off issued) := by
  have fault : FlagsStay s ((s.setFlag .journalFault).captureFault off) :=
    (FlagsStay.setFlag (.of_eq rfl) .journalFault).after rfl
  unfold State.journalFault
  dsimp only
  split
  · have dropped := fault.after (u := ((s.setFlag .journalFault).captureFault off).dropForFault issued) rfl
    exact (dropped.trans (.of_moves (moves_retry _))).trans (flagsStay_sealsChanged _)
  · exact fault

theorem flagsStay_markFailed (slot : Nat) : FlagsStay s (s.markFailed slot) := by
  have fault := flagsStay_journalFault s (slot + 15) false
  unfold State.markFailed
  dsimp only
  split
  · exact fault.trans (flagsStay_stallUpload _ .markFailure)
  · exact fault

theorem flagsStay_markGood (slot : Nat) : FlagsStay s (s.markGood slot) := by
  unfold State.markGood
  dsimp only
  split
  · exact (flagsStay_chooseBatch _).before rfl
  · exact .of_eq rfl

theorem flagsStay_markEnded (e : FlashEnd) : FlagsStay s (s.markEnded e) := by
  unfold State.markEnded
  split
  · split
    · exact (flagsStay_markGood _ _).before rfl
    · exact (flagsStay_markFailed _ _).before rfl
  · exact .of_eq rfl

theorem flagsStay_programFailed (left : List Byte) : FlagsStay s (s.programFailed left) := by
  unfold State.programFailed
  split
  · exact (flagsStay_journalFault _ _ _).before rfl
  · exact (flagsStay_journalFault _ _ _).before rfl
  · exact (flagsStay_markFailed _ _).before rfl
  · exact .of_eq rfl

theorem flagsStay_nextErase : FlagsStay s s.nextErase := by
  unfold State.nextErase
  split <;> exact .of_eq rfl

theorem flagsStay_clearFailed (k : Nat) : FlagsStay s (s.clearFailed k) :=
  ((FlagsStay.setFlag (.of_eq rfl) .operationFailed).setFlag .journalFault).after rfl

theorem flagsStay_eraseEnded (e : FlashEnd) : FlagsStay s (s.eraseEnded e) := by
  unfold State.eraseEnded
  split
  · split
    · exact (flagsStay_nextErase _).before rfl
    · exact (flagsStay_clearFailed _ _).before rfl
  · exact .of_eq rfl

/-! ## Start-up and the recovery scan -/

section
variable (r : Recovery) (recs : List (Nat × Nat))

theorem flagsStay_recoveryEnds (st : JournalState) (result : OpResult) : FlagsStay s (s.recoveryEnds r st result) := by
  unfold State.recoveryEnds
  refine FlagsStay.trans ?_ (.of_moves (moves_testLow _))
  dsimp only
  split
  · refine FlagsStay.setFlag ?_ .journalFull
    exact .of_eq rfl
  · exact .of_eq rfl

theorem flagsStay_nextSeal (spans : List Span) (full : Bool) : FlagsStay s (s.nextSeal r spans full) := by
  unfold State.nextSeal
  split
  · exact flagsStay_recoveryEnds ..
  · split
    · exact flagsStay_recoveryEnds ..
    · exact .of_eq rfl

theorem flagsStay_searchPage (torn page : Nat) : FlagsStay s (s.searchPage r torn page recs) := by
  unfold State.searchPage
  split
  · exact .of_eq rfl
  · exact flagsStay_nextSeal ..

theorem flagsStay_walkTo (p : Nat) : FlagsStay s (s.walkTo r p recs) := by
  unfold State.walkTo
  split
  · exact flagsStay_nextSeal ..
  · split
    · exact flagsStay_searchPage ..
    · exact .of_eq rfl

theorem flagsStay_walkRead (p : Nat) (bs : List Byte) : FlagsStay s (s.walkRead r p recs bs) := by
  unfold State.walkRead
  split
  · split
    · exact flagsStay_nextSeal ..
    · exact flagsStay_searchPage ..
  · split
    · exact flagsStay_walkTo ..
    · exact flagsStay_searchPage ..

theorem flagsStay_nextSlot : FlagsStay s (s.nextSlot r) := by
  unfold State.nextSlot
  split
  · exact flagsStay_walkTo ..
  · exact .of_eq rfl

theorem flagsStay_slotWalked (bs : List Byte) : FlagsStay s (s.slotWalked r bs) := by
  unfold State.slotWalked
  split
  · exact flagsStay_walkTo ..
  · split <;> exact flagsStay_nextSlot ..

theorem flagsStay_scanReadGood (bs : List Byte) : FlagsStay s (s.scanReadGood r bs) := by
  unfold State.scanReadGood
  split
  · exact flagsStay_slotWalked ..
  · exact flagsStay_walkRead ..
  · split
    · exact flagsStay_nextSeal ..
    · exact flagsStay_searchPage ..
  · exact .of_eq rfl

theorem flagsStay_sealProgrammed : FlagsStay s (s.sealProgrammed r) := by
  unfold State.sealProgrammed
  split
  · exact flagsStay_nextSeal ..
  · exact .of_eq rfl

end

theorem flagsStay_sealProgramFailed (off : Nat) (r : Recovery) : FlagsStay s (s.sealProgramFailed off r) := by
  have ended := flagsStay_recoveryEnds s { r with recordEnd := r.lowest } .fault .good
  exact (ended.setFlag .journalFault).after rfl

theorem flagsStay_recoveryReadEnded (good : Bool) : FlagsStay s (s.recoveryReadEnded good) := by
  unfold State.recoveryReadEnded
  split
  · split
    · exact (flagsStay_scanReadGood ..).before rfl
    · exact ((flagsStay_recoveryEnds s.freePort ..).setFlag .operationFailed).before rfl
  · exact .of_eq rfl

theorem flagsStay_recoveryIndexEnded (e : FlashEnd) : FlagsStay s (s.recoveryIndexEnded e) := by
  unfold State.recoveryIndexEnded
  split
  · split
    · exact (flagsStay_sealProgrammed ..).before rfl
    · exact (flagsStay_sealProgramFailed ..).before rfl
  · exact .of_eq rfl

theorem flagsStay_anyProgramFailed (left : List Byte) : FlagsStay s (s.anyProgramFailed left) := by
  unfold State.anyProgramFailed
  split
  · exact flagsStay_recoveryIndexEnded s _
  · exact flagsStay_programFailed s left

theorem flagsStay_flashIsReady (e : FlashEnd) : FlagsStay s (s.flashIsReady e) := by
  unfold State.flashIsReady
  split <;> exact .of_eq rfl

theorem flagsStay_readyTimedOut : FlagsStay s s.readyTimedOut := by
  unfold State.readyTimedOut
  split <;> exact .of_eq rfl

theorem flagsStay_identified (capacity : Byte) : FlagsStay s (s.identified capacity) := by
  unfold State.identified
  split
  · split <;> exact .of_eq rfl
  · exact .of_eq rfl

theorem flagsStay_identTimedOut : FlagsStay s s.identTimedOut := by
  unfold State.identTimedOut
  split <;> exact .of_eq rfl

/-! ## The rebuild scan -/

theorem flags_placeEntry (n : Nat) (st : EntryState) : (s.placeEntry n st).link.flags = s.link.flags := by
  unfold State.placeEntry
  split <;> rfl

theorem flags_applyMiss (n : Nat) (bs : List Byte) : (s.applyMiss n bs).link.flags = s.link.flags := by
  cases known : s.entry? n with
  | none =>
    simp only [State.applyMiss, known]
    split <;> rfl
  | some e =>
    by_cases waiting : e.st = .pending ∨ e.st = .missed
    · simp only [State.applyMiss, known, if_pos waiting]
      split <;> exact flags_placeEntry s n .missed
    · simp only [State.applyMiss, known, if_neg waiting]
      split <;> rfl

theorem flags_offerRecord (bs : List Byte) : (s.offerRecord bs).link.flags = s.link.flags := by
  unfold State.offerRecord
  split
  · rfl
  · split
    · rfl
    · unfold State.applyRecord
      dsimp only
      split
      · rfl
      · split
        · exact flags_placeEntry _ _ _
        · split
          · exact flags_applyMiss s _ bs
          · rfl

theorem flags_placeEntries (ns : List Nat) (st : EntryState) :
    (ns.foldl (fun t n => t.placeEntry n st) s).link.flags = s.link.flags := by
  induction ns generalizing s with
  | nil => rfl
  | cons n ns ih => exact (ih _).trans (flags_placeEntry s n st)

theorem flagsStay_rebuildEnds : FlagsStay s s.rebuildEnds := by
  unfold State.rebuildEnds
  refine FlagsStay.setFlag (.of_eq ?_) .commitDone
  dsimp only
  rw [State.recount_link, flags_placeEntries]

theorem flagsStay_rebuildSlots (rb : Rebuild) : FlagsStay s (s.rebuildSlots rb) := by
  unfold State.rebuildSlots
  split
  · exact .of_eq rfl
  · unfold State.rebuildOpen
    split
    · split
      · exact .of_eq rfl
      · exact flagsStay_rebuildEnds s
    · exact flagsStay_rebuildEnds s

theorem flagsStay_rebuildBatchDone (rb : Rebuild) (last : Bool) : FlagsStay s (s.rebuildBatchDone rb last) := by
  unfold State.rebuildBatchDone
  split
  · exact flagsStay_rebuildEnds s
  · exact flagsStay_rebuildSlots s rb

theorem flagsStay_rebuildAt (rb : Rebuild) (pos stop : Nat) (last : Bool) :
    FlagsStay s (s.rebuildAt rb pos stop last) := by
  unfold State.rebuildAt
  split
  · exact .of_eq rfl
  · exact flagsStay_rebuildBatchDone s rb last

theorem flagsStay_rebuildSlotRead (rb : Rebuild) (bs : List Byte) : FlagsStay s (s.rebuildSlotRead rb bs) := by
  unfold State.rebuildSlotRead
  split
  · exact flagsStay_rebuildSlots ..
  · dsimp only
    split
    · exact flagsStay_rebuildSlots ..
    · exact flagsStay_rebuildAt ..

theorem flagsStay_rebuildRecordRead (rb : Rebuild) (pos stop : Nat) (last : Bool) (bs : List Byte) :
    FlagsStay s (s.rebuildRecordRead rb pos stop last bs) := by
  unfold State.rebuildRecordRead
  dsimp only
  split
  · exact (flagsStay_rebuildAt ..).before (flags_offerRecord s _)
  · exact (flagsStay_rebuildBatchDone s.countBadRecord ..).before rfl

theorem flagsStay_rebuildReadGood (rb : Rebuild) (bs : List Byte) : FlagsStay s (s.rebuildReadGood rb bs) := by
  unfold State.rebuildReadGood
  split
  · exact .of_eq rfl
  · exact flagsStay_rebuildSlotRead ..
  · exact flagsStay_rebuildRecordRead ..

theorem flagsStay_rebuildBegins : FlagsStay s s.rebuildBegins := by
  unfold State.rebuildBegins
  split
  · split
    · exact flagsStay_rebuildSlots ..
    · exact .of_eq rfl
  · exact .of_eq rfl

theorem flagsStay_rebuildReadEnded (good : Bool) : FlagsStay s (s.rebuildReadEnded good) := by
  unfold State.rebuildReadEnded
  split
  · split
    · exact (flagsStay_rebuildReadGood ..).before rfl
    · exact (FlagsStay.setFlag (.of_eq rfl) .operationFailed).before rfl
  · exact .of_eq rfl

/-! ## The lanes and the receiver -/

theorem flagsStay_laneStarts (i : Fin 4) : FlagsStay s (s.laneStarts i) := by
  obtain ⟨k, e⟩ := laneStarts_intake i s
  exact .of_eq (by rw [e])

theorem flagsStay_laneByte (i : Fin 4) (x : Byte) : FlagsStay s (s.laneByte i x) := by
  obtain ⟨k, e⟩ := laneByte_intake i x s
  exact .of_eq (by rw [e])

theorem flagsStay_laneEnds (i : Fin 4) : FlagsStay s (s.laneEnds i) := by
  obtain ⟨k, run⟩ := laneEnds_moves i s
  exact (FlagsStay.of_openMoves run).before rfl

theorem flagsStay_refills : FlagsStay s s.refills := (FlagsStay.of_moves (moves_offerLane _)).before rfl

theorem flagsStay_framingError : FlagsStay s s.framingError := by
  unfold State.framingError
  split <;> exact .of_eq rfl

theorem flagsStay_gapExpires : FlagsStay s s.gapExpires := by
  unfold State.gapExpires
  split <;> exact .of_eq rfl

/-- The end of a frame sent is a reset, where a RESTART's reply was sent, or leaves the flags (R141, R179). -/
theorem frameSent_flags (straps : BitVec 2) :
    s.resets (.outboundFrameSent straps) ∨ FlagsStay s (s.frameSent straps) := by
  unfold State.frameSent
  split
  · exact .inr (.of_eq rfl)
  · rename_i r sent
    split
    · exact .inl (.inr ⟨⟨straps, rfl⟩, r, sent, ‹_›⟩)
    · exact .inr (.of_eq rfl)
  · exact .inr ((flagsStay_tailSent _).before rfl)
  · exact .inr (.of_eq rfl)
  · exact .inr (.of_eq rfl)

end

end Sys2Proof.Machine
end

section
/-!
PROOF. The commands and every row leave the flags set, but for FLAGS CLEAR and a reset (O11).
-/

namespace Sys2Proof.Machine

/-! ## The commands -/

section
variable (b : List Byte) (s : State)

theorem flagsStay_radioSet : FlagsStay s (s.doRadioSet b).2.2 := by
  unfold State.doRadioSet
  split
  · exact .of_eq rfl
  · exact (FlagsStay.of_moves (moves_offerLane _)).before rfl

theorem flagsStay_legWrite : FlagsStay s (s.doLegWrite b).2.2 := by
  unfold State.doLegWrite
  split
  · exact .of_eq rfl
  · rw [foldl_updLeg]
    exact .of_eq rfl

theorem flagsStay_legOpen : FlagsStay s (s.doLegOpen b).2.2 := by
  unfold State.doLegOpen
  split
  · exact .of_eq rfl
  · rename_i l _
    split
    · exact .of_eq rfl
    · have returned := (FlagsStay.of_moves (moves_returnMissed l (s.openRecord l))).before (s := s) rfl
      exact (returned.after (u := s.openedLeg l) rfl).trans (.of_moves (moves_afterOpening _))

theorem flagsStay_legClosed (l : Byte) (forced : Bool) : FlagsStay s ((s.closedLeg l forced).afterClosing l) :=
  ((FlagsStay.of_moves (moves_closedLeg l forced s)).before (s := s) rfl).trans (.of_moves (moves_afterClosing l _))

theorem flagsStay_legClose : FlagsStay s (s.doLegClose b).2.2 := by
  unfold State.doLegClose
  split
  · exact .of_eq rfl
  · split
    · exact flagsStay_legClosed ..
    · exact .of_eq rfl

theorem flagsStay_closeOpenLeg : FlagsStay s s.closeOpenLeg := by
  unfold State.closeOpenLeg
  split
  · exact .of_eq rfl
  · exact flagsStay_legClosed ..

theorem flagsStay_passRoute : FlagsStay s s.passRoute := by
  have sealing := FlagsStay.of_moves
    (moves_sealOpen { s with roster.legs := s.roster.legs.map fun k => { k with st := .passed } })
  exact (sealing.before (s := s) rfl).after (u := s.passRoute) rfl

/-- ROUTE CLOSE step by step (R116). -/
theorem flagsStay_routeClose : FlagsStay s (s.doRouteClose b).2.2 := by
  unfold State.doRouteClose
  split
  · exact .of_eq rfl
  · have forced : FlagsStay s s.forceCloseAll := .of_moves (moves_forceCloseAll s)
    have closed := forced.trans (flagsStay_closeOpenLeg _)
    have missed := closed.trans (.of_moves (moves_missRoute _))
    exact (missed.trans (.of_moves (moves_endConfirmations _ true _))).trans (flagsStay_passRoute _)

theorem flagsStay_batchSeal : FlagsStay s (s.doBatchSeal b).2.2 := by
  unfold State.doBatchSeal
  split
  · exact .of_eq rfl
  · exact .of_moves (moves_sealOpen s)

theorem flagsStay_journalClear : FlagsStay s (s.doJournalClear b).2.2 := by
  unfold State.doJournalClear
  split
  · exact .of_eq rfl
  · split
    · exact .of_eq rfl
    · split
      · exact (flagsStay_nextErase _).before rfl
      · exact .of_eq rfl

theorem flagsStay_uploadStart : FlagsStay s (s.doUploadStart b).2.2 := by
  unfold State.doUploadStart
  split
  · exact .of_eq rfl
  · split
    · exact .of_eq rfl
    · exact (FlagsStay.of_moves (moves_sealOpen s)).trans ((flagsStay_chooseBatch _).before rfl)

theorem flagsStay_mismatched (k : BatchInfo) : FlagsStay s (s.mismatched k) := by
  unfold State.mismatched
  dsimp only
  split
  · exact .of_eq rfl
  · exact (flagsStay_stallUpload _ .mismatch).before rfl

theorem flagsStay_batchReceived : FlagsStay s (s.doBatchReceived b).2.2 := by
  unfold State.doBatchReceived
  split
  · split
    · exact .of_eq rfl
    · split
      · exact .of_eq rfl
      · split
        · exact .of_eq rfl
        · exact flagsStay_mismatched ..
  · exact .of_eq rfl

/-- FLAGS CLEAR clears the flags of a body that names some, and none by any other (R177). -/
theorem flagsClear_flags : FlagsStay s (s.doFlagsClear b).2.2 ∨
    ∃ named, parseFlags b = some named ∧ (s.doFlagsClear b).2.2.link.flags = s.link.flags &&& ~~~named := by
  unfold State.doFlagsClear
  split
  · exact .inl (.of_eq rfl)
  · rename_i named read
    split
    · exact .inl (.of_eq rfl)
    · exact .inr ⟨named, read, rfl⟩

/-- Every other command leaves the flags set: those that run operations on meters, on legs or on the journal do so by
small changes, BATCH RECEIVED may set a flag, and the rest leave the flags. -/
theorem flagsStay_carryOut {c : Cmd} (other : c ≠ .flagsClear) : FlagsStay s (s.carryOut c b).2.2 := by
  cases c <;> dsimp only [State.carryOut]
  case flagsClear => exact absurd rfl other
  case radioSet => exact flagsStay_radioSet b s
  case legWrite => exact flagsStay_legWrite b s
  case rosterEdit => exact .of_moves (moves_rosterEdit b s)
  case legOpen => exact flagsStay_legOpen b s
  case legClose => exact flagsStay_legClose b s
  case routeClose => exact flagsStay_routeClose b s
  case batchSeal => exact flagsStay_batchSeal b s
  case journalClear => exact flagsStay_journalClear b s
  case uploadStart => exact flagsStay_uploadStart b s
  case batchReceived => exact flagsStay_batchReceived b s
  all_goals
    simp only [State.doIdentify, State.doRestart, State.doFlagsRead, State.doFlagsMask, State.doCountersRead,
      State.doClassWrite, State.doRosterBegin, State.doRosterLoad, State.doRosterCommit, State.doRosterQuery,
      State.doRosterDiscard, State.doMissedRead, State.doLegStatus, State.doJournalStatus, State.doUploadStop]
    repeat' split
    all_goals exact .of_eq rfl

end

/-! ## Every row -/

/-- A row clears the flags that the frame of a FLAGS CLEAR names (R177). -/
def ClearsNamed (s : State) (i : Instr) (t : State) : Prop :=
  ∃ b named, s.frameOf i = some (0x05#8, b, true) ∧ parseFlags b = some named ∧
    t.link.flags = s.link.flags &&& ~~~named

/-- A frame that completes leaves the flags, or is a FLAGS CLEAR. -/
theorem frame_flags {i : Instr} {k : Byte} {b : List Byte} {g : Bool} {s : State}
    (frame : s.frameOf i = some (k, b, g)) :
    FlagsStay s (s.frameArrives k b g) ∨ ClearsNamed s i (s.frameArrives k b g) := by
  rcases frameArrives_cases k b g s with ⟨_, e⟩ | ⟨_, e⟩ | ⟨_, u, _, _, _, _, _, e, hu⟩
  · exact .inl (.of_eq (by rw [e]; rfl))
  · exact .inl (.of_eq (by rw [e]; rfl))
  · rw [e]
    rcases hu with rfl | rfl | ⟨c, rfl, rfl, rfl⟩
    · exact .inl (.of_eq rfl)
    · exact .inl (.of_eq rfl)
    · have replied {t : State} (h : (s.received.checkCommand c b).2.2 = t) (stay : FlagsStay s.received t) :
          FlagsStay s (s.received.checkCommand c b).2.2 := h ▸ stay.before rfl
      rcases checkCommand_effect c b s.received with turned | ⟨_, carried⟩
      · exact .inl ((replied turned (.of_eq rfl)).after rfl)
      · by_cases clears : c = .flagsClear
        · subst clears
          rcases flagsClear_flags b s.received with stay | ⟨named, read, cleared⟩
          · exact .inl ((replied carried stay).after rfl)
          · exact .inr ⟨b, named, frame, read, (congrArg (fun t : State => t.link.flags) carried).trans cleared⟩
        · exact .inl ((replied carried (flagsStay_carryOut b _ clears)).after rfl)

theorem linkByte_flags (x : Byte) (s : State) :
    FlagsStay s (s.linkByte x) ∨ ClearsNamed s (.linkByteReceived x) (s.linkByte x) := by
  rcases linkByte_cases x s with ⟨r, e⟩ | e | ⟨k, b, g, frame, e⟩
  · exact .inl (.of_eq (by rw [e]; rfl))
  · exact .inl (.of_eq (by rw [e]))
  · rw [e]
    exact frame_flags frame

/-- What a row before the end of the step does to the flags. -/
theorem act_flags (i : Instr) (s : State) :
    s.resets i ∨ FlagsStay s (s.act i) ∨ ClearsNamed s i (s.act i) := by
  cases i
  case resetAssert => exact .inr (.inl (.of_eq rfl))
  case resetRelease => exact .inr (.inl (.of_eq rfl))
  case outboundFrameSent straps => exact (frameSent_flags s straps).imp_right .inl
  case linkByteReceived x => exact .inr (linkByte_flags x s)
  case linkFramingError => exact .inr (.inl (flagsStay_framingError s))
  case gapTimerExpiry => exact .inr (.inl (flagsStay_gapExpires s))
  case laneStart l => exact .inr (.inl (flagsStay_laneStarts s l))
  case laneByteReceived l x => exact .inr (.inl (flagsStay_laneByte s l x))
  case laneRecordTaken l => exact .inr (.inl (flagsStay_laneEnds s l))
  case holdExpiry n => exact .inr (.inl (.of_moves (moves_closeCand n false s)))
  case passTimerExpiry => exact .inr (.inl (.of_moves (moves_passExpires s)))
  case dutyRefill => exact .inr (.inl (flagsStay_refills s))
  case transmitDone => exact .inr (.inl (.of_moves (moves_transmitDone s)))
  case transmitTimeout => exact .inr (.inl (.of_moves (moves_transmitTimesOut s)))
  case sweepWindowEnd n => exact .inr (.inl (.of_moves (moves_sweepWindowEnded n s)))
  case confirmWindowEnd n => exact .inr (.inl (.of_moves (moves_confirmWindowEnded n s)))
  case pageProgramEnd => exact .inr (.inl (flagsStay_pageEnded s))
  case indexProgramEnd => exact .inr (.inl (flagsStay_indexEnded s))
  case programFailure left => exact .inr (.inl (flagsStay_anyProgramFailed s left))
  case markProgramEnd e => exact .inr (.inl (flagsStay_markEnded s e))
  case sectorEraseEnd e => exact .inr (.inl (flagsStay_eraseEnded s e))
  case rebuildScanStart => exact .inr (.inl (flagsStay_rebuildBegins s))
  case rebuildReadEnd good => exact .inr (.inl (flagsStay_rebuildReadEnded s good))
  case flashReady e => exact .inr (.inl (flagsStay_flashIsReady s e))
  case flashReadyTimeout => exact .inr (.inl (flagsStay_readyTimedOut s))
  case identificationResponse b0 b1 capacity => exact .inr (.inl (flagsStay_identified s capacity))
  case identificationTimeout => exact .inr (.inl (flagsStay_identTimedOut s))
  case recoveryReadEnd good => exact .inr (.inl (flagsStay_recoveryReadEnded s good))
  case recoveryIndexProgramEnd e => exact .inr (.inl (flagsStay_recoveryIndexEnded s e))
  case uploadSlotReadEnd => exact .inr (.inl (flagsStay_uploadSlotEnded s))
  case uploadDataReadEnd => exact .inr (.inl (flagsStay_uploadDataEnded s))
  case uploadReadFailure => exact .inr (.inl (flagsStay_uploadReadFailed s))
  case ackTimerExpiry => exact .inr (.inl (flagsStay_ackExpired s))
  all_goals exact .inr (frame_flags rfl)

/-- What a row does to the flags. -/
theorem exec_flags {i : Instr} {s t : State} (h : exec i s = .next t) :
    s.resets i ∨ FlagsStay s t ∨ ClearsNamed s i t := by
  rcases exec_next h with ⟨_, rfl⟩ | ⟨straps, rfl, _⟩ | ⟨_, rfl⟩ | ⟨_, rfl⟩
  · exact .inr (.inl (.of_eq rfl))
  · exact .inl (.inl ⟨straps, rfl⟩)
  · exact .inr (.inl (.of_eq rfl))
  · refine (act_flags i s).imp_right (Or.imp (·.after (finish_flags _)) ?_)
    rintro ⟨b, named, frame, read, cleared⟩
    exact ⟨b, named, frame, read, (finish_flags _).trans cleared⟩

/-- A flag that the body of a FLAGS CLEAR takes out of the set is one that it names. -/
theorem parseFlags_names {b : List Byte} {named flags : BitVec 13} {n : Nat} (read : parseFlags b = some named)
    (set : flags.getLsbD n = true) (cleared : (flags &&& ~~~named).getLsbD n = false) :
    b.length = 2 ∧ (le b).testBit n = true := by
  have inside := BitVec.lt_of_getLsbD set
  unfold parseFlags at read
  split at read
  · rename_i pair
    cases read
    refine ⟨pair.1, ?_⟩
    have named : (BitVec.ofNat 13 (le b)).getLsbD n = true := by
      simpa only [BitVec.getLsbD_and, BitVec.getLsbD_not, set, inside, decide_true, Bool.true_and, Bool.not_eq_false']
        using cleared
    rw [BitVec.getLsbD_ofNat, Bool.and_eq_true] at named
    exact named.2
  · cases read

/-- Settles O11: a row resets the part, leaves the flags set, or is a FLAGS CLEAR that names what it clears. -/
theorem flagsStayUntilCleared : Obligations.FlagsStayUntilCleared := by
  intro i s t n h set cleared
  rcases exec_flags h with reset | stay | ⟨b, named, frame, read, flags⟩
  · exact .inl reset
  · exact absurd (stay.stays n set) (by simp [cleared])
  · rw [flags] at cleared
    exact .inr ⟨b, frame, parseFlags_names read set cleared⟩

end Sys2Proof.Machine
end

section
/-!
PROOF. A step on a queue that holds a command (O1).
-/

namespace Sys2Proof.Machine

/-- The other branch of `step`, besides `step_idle`. -/
theorem step_of_pending_cons {s : State} {c : Instr} {rest : List Instr} (h : s.pending = c :: rest) :
    step s = exec c { s with pending := rest } := by
  simp only [step, h]

/-- Settles O1: the queue is not empty, so the step is its front command on the rest. -/
theorem stepRunsFrontCommand : Obligations.StepRunsFrontCommand := by
  intro c rest s
  have front : State.pending { s with pending := c :: rest } = c :: rest := rfl
  exact step_of_pending_cons front

end Sys2Proof.Machine
end
